-- ==== Sys2Proof/Word.lean ====
section
/-! DEFINITION. The machine's plainest number types: the bytes and two-byte fields of the links (11, Layouts), and bay numbers (00, Conventions). -/

namespace Sys2Proof

/-- One byte of a link frame or of a post-bus frame. -/
abbrev Byte := BitVec 8

/-- A two-byte field of a link frame, most significant byte first on the line (11, Layouts). -/
abbrev Half := BitVec 16

/-- A bay number, 0..23; the bay's post has the same address on the post bus (00, Conventions). -/
abbrev BayNo := Fin 24

/-- One of the two lamp test engines (R103). -/
abbrev EngineNo := Fin 2

end Sys2Proof
end

