-- ==== Sys2Proof/Syntax.lean ====
section
/-! DEFINITION. The commands and events of the DB-24, one constructor per row of spec/opcode_table.json, with their operands.
A command of a link carries the link it arrives on and its payload's fields as sent (11, Command payloads). -/

namespace Sys2Proof

/-- The two serial links (R181). -/
inductive Link where
  | dispatch
  | workshop
deriving DecidableEq, Repr

/-- SET FEED LIMITS (0x12): the limits the flags byte says are carried (11, Command payloads). -/
structure FeedLimitArgs where
  total : Option Byte
  feeder0 : Option Byte
  feeder1 : Option Byte
  feeder2 : Option Byte
  feeder3 : Option Byte
deriving DecidableEq, Repr

/-- SET PLANNER (0x13): the settings the flags byte says are carried. -/
structure PlannerArgs where
  slotLength : Option Byte
  rounding : Option Byte
  frostFloor : Option Half
  tolerance : Option Half
  defaultTarget : Option Half
deriving DecidableEq, Repr

/-- BOOK (0x18). -/
structure BookArgs where
  ref : Half
  minute : Half
  coach : Option Half
  target : Option Half
  lead : Option Byte
deriving DecidableEq, Repr

/-- What AMEND says of the target: nothing, a new one, or that it is to be absent (R42). -/
inductive TargetChange where
  | keep
  | set (target : Half)
  | remove
deriving DecidableEq, Repr

/-- AMEND (0x19). -/
structure AmendArgs where
  ref : Half
  minute : Option Half
  target : TargetChange
  lead : Option Byte
deriving DecidableEq, Repr

/-- One circuit description of WRITE CLASS (R26). -/
structure CircuitArgs where
  circuit : Byte
  minimum : Half
  maximum : Half
  action : Byte
deriving DecidableEq, Repr

/-- WRITE CLASS (0x25) with a whole record (R26). -/
structure ClassArgs where
  cls : Byte
  units : Byte
  loss : Half
  gain : Half
  settle : Half
  autoTest : Bool
  circuits : List CircuitArgs
deriving DecidableEq, Repr

/-- WRITE RULE (0x26): the entry becomes unused, or holds a range and an action (R132). -/
inductive RuleArgs where
  | unused
  | use (low high : Half) (action : Byte)
deriving DecidableEq, Repr

/-- How READ DEPARTURE names a record (R52). -/
inductive DepartureSelector where
  | byRef (ref : Half)
  | byPosition (position : Half)
deriving DecidableEq, Repr

/-- What READ CHAIN names (R101). -/
inductive ChainSelector where
  | summary
  | fromPosition (position : Byte)
deriving DecidableEq, Repr

/-- Why a frame in RECEIVING is discarded, the byte gap apart (R182). -/
inductive DiscardCause where
  | lengthAbove120
  | badCheck
  | badStopBit
deriving DecidableEq, Repr

/-- The post status a good response carries (R171). -/
inductive PostStatus where
  | ok
  | noCoach
  | harnessFault
deriving DecidableEq, Repr

/-- The sense record of a SENSE response (R172, R5): the cabin temperature only when the coach reports it. -/
structure SenseRecord where
  cabin : Option Int
  current : Bool
  plug : Bool
  link : Bool
  occupied : Bool
deriving DecidableEq, Repr

/-- One fault record of a FAULT PAGE response as the post returns it (R122). -/
structure FaultRecord where
  code : Half
  severity : Byte
  count : Byte
deriving DecidableEq, Repr

/-- What a response carries behind its post status, by the forms of R172. -/
inductive PostPayload where
  /-- nothing: HEAT, SIGNAL, LAMP STEP, LAMP END and PING, and the kinds that answer NO_COACH or HARNESS_FAULT -/
  | empty
  | sense (record : SenseRecord)
  /-- LAMP READ with OK: the current in units of 10 mA -/
  | current (value : Half)
  /-- IDENT with OK: coach id and class number -/
  | coach (id : Half) (cls : Byte)
  /-- FAULT PAGE with OK -/
  | page (version : Byte) (records : List FaultRecord) (more : Bool)
deriving DecidableEq, Repr

/-- The kinds of a post-bus transaction (R172). -/
inductive PostKind where
  | heat | signal | allOff | lampStep | lampRead | lampEnd | sense | ident | faultPage | ping
deriving DecidableEq, Repr

/-- A response frame as it is received: its five fields (Frames, 10), body being the payload's bytes with the post status before them. The
spec gives neither the codes of the kinds and post statuses nor a layout of the payload, so that what the kind byte and the body say are
fields of their own, none for a code that stands for nothing (log 25). -/
structure PostReply where
  address : Byte
  kindCode : Byte
  length : Byte
  body : List Byte
  check : Byte
  kind : Option PostKind
  status : Option PostStatus
  payload : PostPayload
deriving DecidableEq, Repr

/-- Which condition of R171 a complete response breaks. -/
inductive BadCause where
  | check
  | address
  | kind
  | length
  | status
  | payloadForm
deriving DecidableEq, Repr

/-- R174: a third final failure reaches the requester as two events, the failure and the silence, and either may be taken first. -/
inductive FailureOrder where
  | failureFirst
  | silenceFirst
deriving DecidableEq, Repr

/-- What AGE_RISE is about: a second or a minute of the part's time base. -/
inductive TimeUnit where
  | second
  | minute
deriving DecidableEq, Repr

/-- The commands and events, in the table's order. -/
inductive Instr where
  /-- release of the reset line, with the combination read on each strap pair (R190) -/
  | powerOnReset (baysStrap feedStrap : BitVec 2)
  | feedAlarmAsserted
  | feedAlarmReleased
  | setClock (l : Link) (minute : Half) (second : Byte)
  | setWeather (l : Link) (temperature : Half)
  | setFeedLimits (l : Link) (a : FeedLimitArgs)
  | setPlanner (l : Link) (a : PlannerArgs)
  | setLampFreshness (l : Link) (minutes : Half)
  | setClearanceWindow (l : Link) (minutes : Byte)
  | book (l : Link) (a : BookArgs)
  | amend (l : Link) (a : AmendArgs)
  | assignCoach (l : Link) (ref coach : Half)
  | cancel (l : Link) (ref : Half)
  | requestClearance (l : Link) (ref : Half) (cold : Bool)
  | withdrawClearance (l : Link) (ref : Half)
  | readDepartureLog (l : Link) (index : Byte)
  | depotRestart (l : Link)
  | openBay (l : Link) (bay : Byte)
  | closeBay (l : Link) (bay : Byte)
  | hold (l : Link) (bay : Byte)
  | unhold (l : Link) (bay : Byte)
  | assignFeeder (l : Link) (bay feeder : Byte)
  | writeClass (l : Link) (a : ClassArgs)
  | classRemove (l : Link) (cls : Byte)
  | writeRule (l : Link) (index : Byte) (a : RuleArgs)
  | setScanPeriod (l : Link) (minutes : Byte)
  | pin (l : Link) (bay : Byte)
  | unpin (l : Link) (position : Byte)
  | acknowledge (l : Link) (id : Half)
  | defer (l : Link) (id minutes : Half)
  | closeDefect (l : Link) (id : Half)
  | enterDefect (l : Link) (bay : Byte) (code : Half) (action : Byte)
  | abortLampTest (l : Link) (bay : Byte)
  | readStatus (l : Link)
  | readBay (l : Link) (bay : Byte)
  | readDeparture (l : Link) (sel : DepartureSelector)
  | readDefects (l : Link) (bay position : Byte)
  | readLampResult (l : Link) (bay : Byte)
  | readChain (l : Link) (sel : ChainSelector)
  | readClass (l : Link) (cls : Byte)
  | readRule (l : Link) (index : Byte)
  | requestLampTest (l : Link) (bay : Byte)
  | requestFaultRead (l : Link) (bay : Byte)
  | readNotices (l : Link)
  | setNoticeMask (l : Link) (kinds : Byte)
  | setPlannerEnables (l : Link) (causes : Byte)
  | clearPlannerFlags (l : Link)
  | unknownCommandCode (l : Link) (code : Byte)
  | frameDiscard (l : Link) (cause : DiscardCause)
  | overrun (l : Link)
  | byteGapTimeout (l : Link)
  | lineBreak (l : Link)
  | responseSent (l : Link)
  | senseCountdownExpiry (b : BayNo)
  | identRetryExpiry (b : BayNo)
  | postResponse (r : PostReply) (order : FailureOrder)
  | responseTimeout (order : FailureOrder)
  | probeTimerExpiry (b : BayNo)
  | allOffSent
  | idleTimerExpiry
  | clockSecond
  | overdueRise (ref : Half)
  | slotTimerExpiry
  | settleTimerExpiry (e : EngineNo)
  | scanCountdownExpiry (b : BayNo)
  | deferralExpiry (id : Half)
  | pendingTimerExpiry (ref : Half)
  | alertTimerExpiry (b : BayNo)
  /-- a byte on a link's receive line, and whether its stop bit is good -/
  | linkByteReceived (l : Link) (byte : Byte) (stopGood : Bool)
  | quietFrameSent
  | badResponse (cause : BadCause) (order : FailureOrder)
  | resetLineHeld
  | ageRise (unit : TimeUnit)
deriving DecidableEq, Repr

end Sys2Proof
end

