-- ==== Sys2Proof/Config.lean ====
section
/-! DEFINITION. What the spec fixes for the part (R1, R190) and the free values: constants with no body, so that no proof can see what they are. -/

namespace Sys2Proof.Config

/-- R190: the fitted bay count each combination of the BAYS strap pair latches, the combinations numbered in the table's order (log 9). -/
def bayCountOf (strap : BitVec 2) : Nat :=
  match strap.toNat with
  | 0 => 8
  | 1 => 16
  | _ => 24

/-- R190: the total feed limit each combination of the FEED strap pair latches, numbered likewise (log 9). -/
def feedOf (strap : BitVec 2) : Nat :=
  12 * (strap.toNat + 1)

/-- FREE VALUE (log 2): which of several events due at the same millisecond is taken first; the argument is State.choices. -/
opaque duePick : Nat → Nat

/-- FREE VALUE (log 3): whether, at a third final failure that the time base brings, the silence reaches the requester before the
failure (R174: 'Either may be taken first'); the argument is State.choices. -/
opaque silenceFirst : Nat → Bool

/-- FREE VALUE (log 16): the reason set in a response to REQUEST CLEARANCE that R158 to R160 do not state: PENDING, MERGED, ALREADY and
the refusals; the argument is State.choices. -/
opaque openReasons : Nat → BitVec 12

/-- FREE VALUE (log 16): the ref in the response to a REQUEST CLEARANCE frame whose payload is of less than two bytes, so that it carries
none; the argument is State.choices. -/
opaque openRef : Nat → Half

/-- FREE VALUES (log 34): fields of the reply layouts whose content 11, Layouts, does not state: 0, the cabin temperature's age when the
temperature is absent; 1, the page transactions of a last read of outcome NONE. -/
opaque openField : Nat → Half

end Sys2Proof.Config
end

