-- ==== Sys2Proof/Machine/State.lean ====
section
/-! DEFINITION. The state of the DB-24, one structure for each block (00, The blocks), and its values right after the release of the
reset line. Timers are in milliseconds of the part's time base (log 4); a stopped timer is none; a timer at 0 has expired and its event
is due. -/

namespace Sys2Proof.Machine

/-- No rule of the spec stops the part, so no step faults: a type with no constructor. -/
inductive Fault where
deriving DecidableEq, Repr

/-- Why a command has no meaning here. -/
inductive Refusal where
  /-- raised by exec's arms for a command that has no meaning yet (none is left); safe -/
  | notModelled (mnemonic : String)
deriving DecidableEq, Repr

/-! ## Sets the links carry as bits -/

/-- A set of the six planner causes, bits as in byte 19 of the bay reply: 0 SAT, 1 NOCLASS, 2 CLAMP, 3 LATE, 4 STALE, 5 CAPPED. -/
abbrev CauseSet := BitVec 6

/-- A set of clearance refusal reasons, bits as in the departure reply (11, Layouts). -/
abbrev ReasonSet := BitVec 12

/-- A set of notice kinds, bits as in the notices reply (11, Layouts). -/
abbrev KindSet := BitVec 8

/-- A set of bays: bay b is bit b (11, Layouts, notices reply). -/
abbrev BaySet := BitVec 24

/-- The eight notice kinds, in the order of the notices reply (R181, 11, Layouts). -/
inductive NoticeKind where
  | start | bay | departure | clearance | defect | lamp | post | planner
deriving DecidableEq, Repr

/-! ## Bays (01) -/

/-- R2. -/
inductive BayState where
  | closed | empty | arrived | bound | cleared | leaving
deriving DecidableEq, Repr

/-- A cabin reading with its age, in milliseconds; its users see whole seconds (R3, R5, log 5). -/
structure Cabin where
  temperature : Int
  age : Nat
deriving DecidableEq, Repr

/-- R3: the bay record, less the ident request, whose one home is the bus. -/
structure Bay where
  state : BayState
  occupied : Bool
  candidate : Option Bool
  plug : Bool
  link : Bool
  coach : Option Nat
  cls : Option (Fin 16)
  cabin : Option Cabin
  cabinAtUnplug : Option Int
  current : Bool
  hold : Bool
  conflict : Bool
  unconfirmed : Bool
  retry : Option Nat
  sense : Option Nat
  feeder : Fin 4
  dropped : Nat
deriving DecidableEq, Repr

/-- R3, third column. -/
def Bay.reset : Bay where
  state := .closed
  occupied := false
  candidate := none
  plug := false
  link := false
  coach := none
  cls := none
  cabin := none
  cabinAtUnplug := none
  current := false
  hold := false
  conflict := false
  unconfirmed := false
  retry := none
  sense := none
  feeder := 0
  dropped := 0

/-! ## The class table (02) -/

/-- The action of a defect entry or of a fault rule (R131, R138). -/
inductive Action where
  | block | inhibit | note
deriving DecidableEq, Repr

/-- The action of a lamp circuit (R24). -/
inductive LampAction where
  | block | note
deriving DecidableEq, Repr

/-- R24. -/
structure Circuit where
  minimum : Nat
  maximum : Nat
  action : LampAction
deriving DecidableEq, Repr

/-- R24: a description, or undefined, for each circuit. -/
abbrev LampSet := Vector (Option Circuit) 16

/-- R23. -/
structure ClassRecord where
  units : Nat
  loss : Nat
  gain : Nat
  lamps : LampSet
  settle : Nat
  autoTest : Bool
deriving DecidableEq, Repr

/-! ## The departure book and the depot clock (03) -/

/-- R34. phase is the time to the next advance of the second (R35). -/
structure Clock where
  isSet : Bool
  minute : Nat
  second : Nat
  phase : Nat
deriving DecidableEq, Repr

/-- R39. -/
inductive DepartureState where
  | booked | bound | clearing | cleared
deriving DecidableEq, Repr

/-- R37: the overdue minutes, and the time to their next rise. -/
structure Overdue where
  minutes : Nat
  rise : Nat
deriving DecidableEq, Repr

/-- R38. -/
structure Departure where
  ref : Nat
  minute : Nat
  coach : Option Nat
  target : Option Int
  lead : Nat
  state : DepartureState
  bay : Option BayNo
  overdue : Option Overdue
  booking : Nat
  reasons : Option ReasonSet
deriving DecidableEq, Repr

/-- R50. -/
inductive LogOutcome where
  | gone | cancelled | autoCancelled
deriving DecidableEq, Repr

/-- R50. -/
structure LogEntry where
  sequence : Nat
  ref : Nat
  outcome : LogOutcome
  plugAnomaly : Bool
  bay : Option BayNo
  coach : Option Nat
  minute : Nat
  cabinAtUnplug : Option Int
  deferred : Nat
deriving DecidableEq, Repr

/-- R38, R40, R50: the records in book order, the booking counter, the log and its next sequence. -/
structure Book where
  records : List Departure
  nextBooking : Nat
  log : List LogEntry
  nextSequence : Nat
deriving DecidableEq, Repr

/-! ## The heat planner (04) -/

/-- R55, R70. -/
inductive Rounding where
  | nearest | towardZero
deriving DecidableEq, Repr

/-- R59. -/
structure PlanResult where
  turns : Nat
  causes : CauseSet
deriving DecidableEq, Repr

/-- R55, R57, R58, R59, R76. outdoorAge, in milliseconds: none for never set (log 5). -/
structure Planner where
  slotLength : Nat
  rounding : Rounding
  frostFloor : Int
  tolerance : Int
  defaultTarget : Int
  inForce : Nat
  outdoor : Int
  outdoorAge : Option Nat
  results : Vector PlanResult 24
  sticky : CauseSet
deriving DecidableEq, Repr

/-! ## The heating sequencer (05) -/

/-- R81. -/
inductive EntryStatus where
  | waiting | taken | missed
deriving DecidableEq, Repr

/-- R81. -/
structure Entry where
  bay : BayNo
  pinned : Bool
  status : EntryStatus
deriving DecidableEq, Repr

/-- R80, R88: an on-set member; entry is the position of the chain entry that put it there, none after an UNPIN (R83). -/
structure Member where
  bay : BayNo
  units : Nat
  feeder : Fin 4
  entry : Option Nat
deriving DecidableEq, Repr

/-- Held or stuck units with their feeder (R96, R98). -/
structure UnitsOn where
  units : Nat
  feeder : Fin 4
deriving DecidableEq, Repr

/-- R90: the commanded state and the time of its last change, read against State.now. -/
structure Commanded where
  on : Bool
  since : Nat
deriving DecidableEq, Repr

/-- R79, R80. -/
structure Sequencer where
  timer : Nat
  index : Nat
  feedAlarm : Bool
  chain : List Entry
  onSet : List Member
  held : Vector (Option UnitsOn) 24
  stuck : Vector (Option UnitsOn) 24
  total : Nat
  feeders : Vector Nat 4
  commanded : Vector Commanded 24
  missed : Vector Nat 24
deriving DecidableEq, Repr

/-! ## Lamp tests (06) -/

/-- R103, R105. -/
inductive Level where
  | urgent | routine
deriving DecidableEq, Repr

/-- R105. -/
structure QueueEntry where
  bay : BayNo
  level : Level
deriving DecidableEq, Repr

/-- R109, R116. -/
inductive CircuitResult where
  | pass
  | low (current : Nat) (action : LampAction)
  | high (current : Nat) (action : LampAction)
  | untested
  | undefined
deriving DecidableEq, Repr

/-- R103, R108: a running test. settling is the settle timer (R109). -/
structure RunningTest where
  bay : BayNo
  lamps : LampSet
  settle : Nat
  circuit : Fin 16
  results : Vector CircuitResult 16
  settling : Option Nat
deriving DecidableEq, Repr

/-- R103. -/
inductive Engine where
  | free
  | running (t : RunningTest)
  | releasing (b : BayNo)
deriving DecidableEq, Repr

/-- R116: why a result is INCOMPLETE. -/
inductive LampReason where
  | noClass | noLampSet | noPlug | postSilent | plugRemoved | noCoach | harnessFault | busFailed | aborted
deriving DecidableEq, Repr

/-- R116: the outcomes other than NONE. -/
inductive LampOutcome where
  | passed | passedWithNotes | failed
  | incomplete (reason : LampReason)
deriving DecidableEq, Repr

/-- R116: a lamp result whose outcome is not NONE; its age in milliseconds (log 5). -/
structure LampResult where
  outcome : LampOutcome
  age : Nat
  circuits : Option (Vector CircuitResult 16)
deriving DecidableEq, Repr

/-- R103. A result of none is outcome NONE. -/
structure LampUnit where
  queue : List QueueEntry
  engines : Vector Engine 2
  results : Vector (Option LampResult) 24
  freshness : Nat
deriving DecidableEq, Repr

/-! ## Fault reading (07) -/

/-- A fault record as the reader takes it (R122): a code 1..65534, a severity 0..3, a count 0..255. -/
structure Gathered where
  code : Nat
  severity : Nat
  count : Nat
deriving DecidableEq, Repr

/-- R121: a read in progress. pageZero is the version and the number of records of the page 0 last taken (R127, R129). -/
structure Reading where
  page : Nat
  pageZero : Option (Nat × Nat)
  restarts : Nat
  gathered : List Gathered
  transactions : Nat
deriving DecidableEq, Repr

/-- R124, R128. -/
inductive ReadReason where
  | noPlug | postSilent | noCoach | harnessFault | busFailed | plugRemoved
deriving DecidableEq, Repr

/-- R121: the outcomes other than NONE. -/
inductive ReadOutcome where
  | complete | truncated | unstable
  | failed (reason : ReadReason)
deriving DecidableEq, Repr

/-- R121, R129: a last read whose outcome is not NONE; its age in milliseconds (log 5). -/
structure LastRead where
  outcome : ReadOutcome
  pageZero : Option (Nat × Nat)
  transactions : Nat
  age : Nat
deriving DecidableEq, Repr

/-- R131. -/
structure Rule where
  low : Nat
  high : Nat
  action : Action
deriving DecidableEq, Repr

/-- R121. A last read of none is outcome NONE; a reading of none is IDLE. -/
structure FaultReader where
  reading : Vector (Option Reading) 24
  last : Vector (Option LastRead) 24
  readSince : Vector Bool 24
  scan : Vector (Option Nat) 24
  rules : Vector (Option Rule) 32
  period : Nat
deriving DecidableEq, Repr

/-! ## The defect store (08) -/

/-- R138. -/
inductive Source where
  | fault | lamp | post | manual
deriving DecidableEq, Repr

/-- R138; remaining is the time a deferral still runs. -/
inductive DefectState where
  | opened
  | acknowledged
  | deferred (remaining : Nat)
deriving DecidableEq, Repr

/-- R138: LOW or HIGH, with the current. -/
structure LampDetail where
  high : Bool
  current : Nat
deriving DecidableEq, Repr

/-- R138; the entry's bay is the bay whose list it stands on. The age is in milliseconds (log 5). -/
structure Defect where
  slot : Fin 96
  id : Nat
  source : Source
  code : Nat
  action : Action
  state : DefectState
  present : Option Bool
  count : Nat
  severity : Option Nat
  detail : Option LampDetail
  age : Nat
deriving DecidableEq, Repr

/-- R137: a bay's overflow marks. -/
structure Marks where
  fault : Bool
  lamp : Bool
  post : Bool
deriving DecidableEq, Repr

/-- R137. -/
structure Store where
  free : List (Fin 96)
  lists : Vector (List Defect) 24
  marks : Vector Marks 24
  starvation : Nat
  nextId : Nat
deriving DecidableEq, Repr

/-! ## Clearance and exit signals (09) -/

/-- R166. -/
inductive Aspect where
  | red | green | alert
deriving DecidableEq, Repr

/-- R155. -/
structure PendingClearance where
  ref : Nat
  bay : BayNo
  cold : Bool
  timer : Nat
deriving DecidableEq, Repr

/-- R155. -/
structure Clearance where
  pending : List PendingClearance
  signals : Vector Aspect 24
  alerts : Vector (Option Nat) 24
  window : Nat
deriving DecidableEq, Repr

/-! ## The post bus (10) -/

/-- R172: the kinds of transaction, each with the requester's bay or engine and its request payload. -/
inductive Job where
  | allOff
  | heat (b : BayNo) (on : Bool)
  | signal (b : BayNo) (a : Aspect)
  | lampStep (e : EngineNo) (b : BayNo) (c : Fin 16)
  | lampRead (e : EngineNo) (b : BayNo) (c : Fin 16)
  | lampEnd (e : EngineNo) (b : BayNo)
  | sense (b : BayNo)
  | ident (b : BayNo)
  | faultPage (b : BayNo) (page : Nat)
  | ping (b : BayNo)
deriving DecidableEq, Repr

/-- R170: a waiting request, with the event it was placed at. -/
structure Request where
  job : Job
  placed : Nat
deriving DecidableEq, Repr

/-- R170, R173: the transaction in flight. timer is none for ALL OFF, which awaits no response (R178); discarded: its result is not
handed to the requester (R179). -/
structure InFlight where
  job : Job
  isRetry : Bool
  timer : Option Nat
  discarded : Bool
deriving DecidableEq, Repr

/-- What is on the wire: nothing, a transaction, or the quiet frame (R178). -/
inductive Wire where
  | free
  | busy (t : InFlight)
  | quiet
deriving DecidableEq, Repr

/-- R170: status, failure count and probe timer of a post. -/
structure Post where
  silent : Bool
  failures : Nat
  probe : Option Nat
deriving DecidableEq, Repr

/-- R170. -/
structure Bus where
  waiting : List Request
  wire : Wire
  posts : Vector Post 24
  last1 : Option BayNo
  last3 : Option BayNo
  last4 : Option BayNo
  last5 : Option BayNo
  lastEngine : EngineNo
  idle : Nat
  event : Nat
deriving DecidableEq, Repr

/-! ## The links (11) -/

/-- The status codes (11, Status codes). -/
inductive Status where
  | ok | okClamped | pending | merged | already | notPermitted | badCommand | noBay | notFound | exists | full | queueFull
  | wrongState | occupied | stillPresent | clockUnset | outOfRange
deriving DecidableEq, Repr

/-- R187: the pending notices of a link port. -/
structure Notices where
  kinds : KindSet
  bay : BaySet
  departure : BaySet
  clearance : BaySet
  defect : BaySet
  lamp : BaySet
  post : BaySet
  planner : BaySet
  anomaly : Bool
deriving DecidableEq, Repr

/-- R55, R56: the five settings and the slot length in force. -/
structure PlannerView where
  slotLength : Nat
  rounding : Rounding
  frostFloor : Int
  tolerance : Int
  defaultTarget : Int
  inForce : Nat
deriving DecidableEq, Repr

/-- R186: what READ STATUS carries; the age of the outdoor temperature in whole minutes. -/
structure StatusView where
  bayCount : Nat
  feedStrap : Nat
  clockSet : Bool
  minute : Nat
  second : Nat
  planner : PlannerView
  outdoor : Int
  outdoorAge : Option Nat
  sticky : CauseSet
  scanPeriod : Nat
  window : Nat
  freshness : Nat
  freeSlots : Nat
  starvation : Nat
  feedAlarm : Bool
  dispatchErrors : Nat
  dispatchOverruns : Nat
  workshopErrors : Nat
  workshopOverruns : Nat
deriving DecidableEq, Repr

/-- R3 and 11, Bay reply: the fields in its order; the cabin temperature's age in whole seconds, the lamp outcome with its age in whole
minutes. -/
structure BayView where
  bay : BayNo
  state : BayState
  occupied : Bool
  plug : Bool
  link : Bool
  current : Bool
  hold : Bool
  conflict : Bool
  unconfirmed : Bool
  heatingOn : Bool
  coach : Option Nat
  cls : Option (Fin 16)
  cabin : Option Cabin
  cabinAtUnplug : Option Int
  feeder : Fin 4
  silent : Bool
  underTest : Bool
  readSince : Bool
  marks : Marks
  signal : Aspect
  boundRef : Option Nat
  lamp : Option (LampOutcome × Nat)
  plan : PlanResult
  missed : Nat
  dropped : Nat
deriving DecidableEq, Repr

/-- R52 and 11, Departure reply: the fields in its order; the overdue minutes without the time to their next rise. -/
structure DepartureView where
  ref : Nat
  minute : Nat
  coach : Option Nat
  target : Option Int
  lead : Nat
  state : DepartureState
  bay : Option BayNo
  overdue : Option Nat
  ahead : Nat
  position : Nat
  reasons : Option ReasonSet
  cold : Bool
  timer : Nat
deriving DecidableEq, Repr

/-- R138, R153: an entry in a reply; the age and, in the state, the rest of a deferral in whole minutes. -/
structure DefectView where
  id : Nat
  source : Source
  code : Nat
  action : Action
  state : DefectState
  present : Option Bool
  count : Nat
  severity : Option Nat
  detail : Option LampDetail
  age : Nat
deriving DecidableEq, Repr

/-- R136: a bay's read record: the page requested and the restarts made, none when IDLE; the last read, its age in minutes; the countdown in
seconds, none when stopped. -/
structure ReadView where
  reading : Option (Nat × Nat)
  last : Option LastRead
  countdown : Option Nat
deriving DecidableEq, Repr

/-- R117: the bay's test. -/
inductive TestView where
  | absent
  | queued (level : Level) (position : Nat)
  | running (e : EngineNo) (circuit : Fin 16)
  | releasing (e : EngineNo)
deriving DecidableEq, Repr

/-- R117: what READ LAMP RESULT shows of an engine. -/
inductive EngineView where
  | free
  | running (b : BayNo)
  | releasing (b : BayNo)
deriving DecidableEq, Repr

/-- R101: the summary. remaining is in seconds. -/
structure ChainSummary where
  inForce : Nat
  index : Nat
  remaining : Nat
  feedAlarm : Bool
  total : Nat
  feeders : Vector Nat 4
  load : Nat
  feederLoads : Vector Nat 4
  entries : Nat
  pinned : Nat
  onSet : List Member
  held : List (BayNo × UnitsOn)
  stuck : List (BayNo × UnitsOn)
deriving DecidableEq, Repr

/-- The content of a response's payload, by the rule of the command it answers. Ages and remaining times are in the whole seconds or
minutes that the reply shows. -/
inductive Reply where
  | empty
  | clock (minute second : Nat)
  | weather (temperature : Int)
  | feedLimits (total : Nat) (feeders : Vector Nat 4)
  | planner (v : PlannerView)
  | minutes (n : Nat)
  | departure (v : DepartureView)
  | clearance (ref : Nat) (reasons : ReasonSet)
  | log (held : Nat) (entries : List LogEntry)
  | classRecord (c : Option ClassRecord)
  | rule (r : Option Rule)
  | position (p : Nat)
  | defect (b : BayNo) (d : DefectView)
  | status (v : StatusView)
  | bay (v : BayView)
  | defects (b : BayNo) (held : Nat) (marks : Marks) (r : ReadView) (entries : List DefectView)
  | lamp (r : Option LampResult) (fresh : Bool) (t : TestView) (queue : List QueueEntry) (engines : Vector EngineView 2)
  | chainSummary (v : ChainSummary)
  | chain (held : Nat) (entries : List (Nat × Entry))
  | notices (n : Notices)
  | noticeMask (m : KindSet)
  | causes (c : CauseSet)
deriving DecidableEq, Repr

/-- R184: a response frame's status and content. -/
structure Response where
  status : Status
  reply : Reply
deriving DecidableEq, Repr

/-- R181, R182: bytes holds what follows the sync byte; left is none until the length byte has been read. -/
inductive Receiver where
  | idle
  | receiving (bytes : List Byte)
  | discarding (left : Option Nat)
deriving DecidableEq, Repr

/-- R181. -/
inductive Responder where
  | free
  | sending (r : Response)
deriving DecidableEq, Repr

/-- R181; gap is the time until the gap between two bytes exceeds 1 s (R182). -/
structure Port where
  receiver : Receiver
  gap : Nat
  responder : Responder
  notices : Notices
  noticeMask : KindSet
  plannerMask : CauseSet
  frameErrors : Nat
  overruns : Nat
deriving DecidableEq, Repr

/-! ## The whole part -/

/-- Every block's state, the pins, the time base, and the queue of commands waiting. -/
structure State where
  resetHeld : Bool
  bayCount : Nat
  feedStrap : Nat
  now : Nat
  choices : Nat
  clock : Clock
  bays : Vector Bay 24
  classes : Vector (Option ClassRecord) 16
  book : Book
  planner : Planner
  seq : Sequencer
  lamp : LampUnit
  reader : FaultReader
  store : Store
  clearance : Clearance
  bus : Bus
  dispatch : Port
  workshop : Port
  pending : List Instr
deriving DecidableEq, Repr

/-! ## Power-on values -/

/-- R34. -/
def Clock.reset : Clock := ⟨false, 0, 0, 0⟩

/-- R38, R50. -/
def Book.reset : Book := ⟨[], 1, [], 0⟩

/-- R59. -/
def PlanResult.zero : PlanResult := ⟨0, 0#6⟩

/-- R55, R57, R58, R59, R76. -/
def Planner.reset : Planner where
  slotLength := 30
  rounding := .nearest
  frostFloor := 80
  tolerance := 32
  defaultTarget := 288
  inForce := 30
  outdoor := -320
  outdoorAge := none
  results := Vector.replicate 24 PlanResult.zero
  sticky := 0#6

/-- R79, R80: the first round begins at the release with slots of 30 s; the total is the FEED strap's. -/
def Sequencer.reset (feed : Nat) (feedAlarm : Bool) : Sequencer where
  timer := 30000
  index := 0
  feedAlarm := feedAlarm
  chain := []
  onSet := []
  held := Vector.replicate 24 none
  stuck := Vector.replicate 24 none
  total := feed
  feeders := Vector.replicate 4 48
  commanded := Vector.replicate 24 ⟨false, 0⟩
  missed := Vector.replicate 24 0

/-- R103. -/
def LampUnit.reset : LampUnit where
  queue := []
  engines := Vector.replicate 2 .free
  results := Vector.replicate 24 none
  freshness := 120

/-- R121. -/
def FaultReader.reset : FaultReader where
  reading := Vector.replicate 24 none
  last := Vector.replicate 24 none
  readSince := Vector.replicate 24 false
  scan := Vector.replicate 24 none
  rules := Vector.replicate 32 none
  period := 10

/-- R137. -/
def Marks.clear : Marks := ⟨false, false, false⟩

/-- R137. -/
def Store.reset : Store where
  free := List.finRange 96
  lists := Vector.replicate 24 []
  marks := Vector.replicate 24 Marks.clear
  starvation := 0
  nextId := 1

/-- R155, R169. -/
def Clearance.reset : Clearance where
  pending := []
  signals := Vector.replicate 24 .red
  alerts := Vector.replicate 24 none
  window := 20

/-- R170. -/
def Post.reset : Post := ⟨false, 0, none⟩

/-- R170, R178: ALL OFF waits (log 10). -/
def Bus.reset : Bus where
  waiting := [⟨.allOff, 0⟩]
  wire := .free
  posts := Vector.replicate 24 Post.reset
  last1 := none
  last3 := none
  last4 := none
  last5 := none
  lastEngine := 1
  idle := 1000
  event := 0

/-- R181: nothing pending. -/
def Notices.empty : Notices := ⟨0#8, 0#24, 0#24, 0#24, 0#24, 0#24, 0#24, 0#24, false⟩

/-- R181, R190: START pending, all eight kinds enabled. -/
def Port.reset : Port where
  receiver := .idle
  gap := 0
  responder := .free
  notices := { Notices.empty with kinds := 1#8 }
  noticeMask := 0xFF#8
  plannerMask := 0#6
  frameErrors := 0
  overruns := 0

/-- R190: the part right after the release of the reset line with these straps, this level of the feed alarm line and this queue. -/
def State.powerOn (baysStrap feedStrap : BitVec 2) (feedAlarm : Bool) (pending : List Instr) : State where
  resetHeld := false
  bayCount := Config.bayCountOf baysStrap
  feedStrap := Config.feedOf feedStrap
  now := 0
  choices := 0
  clock := Clock.reset
  bays := Vector.replicate 24 Bay.reset
  classes := Vector.replicate 16 none
  book := Book.reset
  planner := Planner.reset
  seq := Sequencer.reset (Config.feedOf feedStrap) feedAlarm
  lamp := LampUnit.reset
  reader := FaultReader.reset
  store := Store.reset
  clearance := Clearance.reset
  bus := Bus.reset
  dispatch := Port.reset
  workshop := Port.reset
  pending := pending

/-- The part right after reset: 24 bays and 48 units strapped, the feed alarm line released, nothing waiting (DESIGN CHOICE, log 9). -/
def State.reset : State := State.powerOn 3#2 3#2 false []

end Sys2Proof.Machine
end

