-- ==== Sys2Proof/Machine/Flags.lean ====
section
/-! DEFINITION. The sets carried as bits: planner causes (R59), refusal reasons (R157), notice kinds and their bay sets (R187), and the
attention line that follows them (R188). -/

namespace Sys2Proof.Machine

/-! ## Planner causes, bits as in the bay reply -/

def CauseSet.none : CauseSet := 0#6
def causeSat : CauseSet := 0b000001#6
def causeNoClass : CauseSet := 0b000010#6
def causeClamp : CauseSet := 0b000100#6
def causeLate : CauseSet := 0b001000#6
def causeStale : CauseSet := 0b010000#6
def causeCapped : CauseSet := 0b100000#6

/-- The cause when the condition holds, else no cause. -/
def causeIf (c : Bool) (x : CauseSet) : CauseSet := if c then x else 0#6

/-! ## Refusal reasons, bits as in the departure reply -/

def reasonNotBound : ReasonSet := 0x001#12
def reasonHold : ReasonSet := 0x002#12
def reasonPostSilent : ReasonSet := 0x004#12
def reasonBlockingDefect : ReasonSet := 0x008#12
def reasonOverflow : ReasonSet := 0x010#12
def reasonLamp : ReasonSet := 0x020#12
def reasonFaultRead : ReasonSet := 0x040#12
def reasonCold : ReasonSet := 0x080#12
def reasonStaleSense : ReasonSet := 0x100#12
def reasonEarly : ReasonSet := 0x200#12
def reasonTimeout : ReasonSet := 0x400#12
def reasonWithdrawn : ReasonSet := 0x800#12

/-- The reason when the condition fails (R157), else none. -/
def reasonIf (c : Bool) (x : ReasonSet) : ReasonSet := if c then x else 0#12

/-- Whether a set holds a reason. -/
def ReasonSet.holds (r x : ReasonSet) : Bool := r &&& x != 0#12

/-- R157, R159: no reason other than LAMP and FAULT_READ, the two the unit can remedy by itself. -/
def ReasonSet.remediable (r : ReasonSet) : Bool :=
  r &&& (~~~(reasonLamp ||| reasonFaultRead)) == 0#12

/-! ## Bay sets and notices -/

/-- The set of one bay. -/
def BaySet.single (b : BayNo) : BaySet := 1#24 <<< b.val

/-- The set of the bays in a list. -/
def BaySet.ofList (bs : List BayNo) : BaySet := bs.foldl (fun a b => a ||| BaySet.single b) 0#24

/-- The set of a bay that may be absent (R53, R187). -/
def BaySet.ofOption : Option BayNo → BaySet
  | .none => 0#24
  | some b => BaySet.single b

/-- The kind's bit in the notices reply and in the enable mask. -/
def NoticeKind.bit : NoticeKind → KindSet
  | .start => 0x01#8
  | .bay => 0x02#8
  | .departure => 0x04#8
  | .clearance => 0x08#8
  | .defect => 0x10#8
  | .lamp => 0x20#8
  | .post => 0x40#8
  | .planner => 0x80#8

/-- R187: the kind becomes pending and the bays named join its bay set; START has none. -/
def Notices.add (n : Notices) (k : NoticeKind) (bs : BaySet) : Notices :=
  let n := { n with kinds := n.kinds ||| k.bit }
  match k with
  | .start => n
  | .bay => { n with bay := n.bay ||| bs }
  | .departure => { n with departure := n.departure ||| bs }
  | .clearance => { n with clearance := n.clearance ||| bs }
  | .defect => { n with defect := n.defect ||| bs }
  | .lamp => { n with lamp := n.lamp ||| bs }
  | .post => { n with post := n.post ||| bs }
  | .planner => { n with planner := n.planner ||| bs }

/-- The port of a link. -/
def State.port (s : State) : Link → Port
  | .dispatch => s.dispatch
  | .workshop => s.workshop

/-- Replaces the port of a link. -/
def State.setPort (s : State) (l : Link) (p : Port) : State :=
  match l with
  | .dispatch => { s with dispatch := p }
  | .workshop => { s with workshop := p }

/-- Changes the port of a link. -/
def State.updPort (s : State) (l : Link) (f : Port → Port) : State := s.setPort l (f (s.port l))

/-- R188: pulled low while a pending kind is in the mask. -/
def Port.attention (p : Port) : Bool := p.notices.kinds &&& p.noticeMask != 0#8

/-- R188, R190: the attention line of a link; released while the reset line is held. -/
def State.attention (s : State) (l : Link) : Bool := !s.resetHeld && (s.port l).attention

/-- R187 at one port. -/
def postTo (l : Link) (k : NoticeKind) (bs : BaySet) (s : State) : State :=
  s.updPort l fun p => { p with notices := p.notices.add k bs }

/-- R187: a notice to both ports. -/
def notify (k : NoticeKind) (bs : BaySet) (s : State) : State :=
  postTo .workshop k bs (postTo .dispatch k bs s)

/-- R187: a notice to both ports that names one bay. -/
def notifyBay (k : NoticeKind) (b : BayNo) (s : State) : State := notify k (BaySet.single b) s

/-- R50, R187: the DEPARTURE notice of a GONE departure with plug anomaly also sets the pending plug anomaly flag. -/
def markAnomaly (s : State) : State :=
  let f : Port → Port := fun p => { p with notices := { p.notices with anomaly := true } }
  (s.updPort .dispatch f).updPort .workshop f

end Sys2Proof.Machine
end

