-- ==== Sys2Proof/Machine/Ops.lean ====
section
/-! DEFINITION. The named operations every block uses: arithmetic on ranges, records and timers, the bay record, class data (R25), and
the placing and withdrawing of post-bus requests (R170, R175, R179). -/

namespace Sys2Proof.Machine

/-! ## Numbers -/

/-- Clamps to the nearer limit (00, Settings and arguments). -/
def clampNat (low high v : Nat) : Nat := max low (min high v)

/-- Clamps to the nearer limit. -/
def clampInt (low high v : Int) : Int := max low (min high v)

/-- A count held at 65535. -/
def sat16 (n : Nat) : Nat := min 65535 n

/-- A signed two-byte field (11, Layouts). -/
def signed (h : Half) : Int := h.toInt

/-- A running timer's whole seconds remaining, a part of a second counting as one (log 4). -/
def secondsLeft (ms : Nat) : Nat := (ms + 999) / 1000

/-- A deferral's whole minutes remaining, a part of a minute counting as one (log 6). -/
def minutesLeft (ms : Nat) : Nat := (ms + 59999) / 60000

/-- One second and one minute of the part's time base. -/
def secondMs : Nat := 1000
def minuteMs : Nat := 60000

/-- An age of whole units of this length after some milliseconds more, held at 65535 of the units (R3, R58, R116, R121, R138). -/
def olderBy (unit ms age : Nat) : Nat := min (65535 * unit) (age + ms)

/-- An age in whole seconds or minutes (log 5). -/
def ageSeconds (age : Nat) : Nat := age / secondMs
def ageMinutes (age : Nat) : Nat := age / minuteMs

/-- A number of seconds or minutes as a timer value. -/
def secondsMs (n : Nat) : Nat := n * 1000
def minutesMs (n : Nat) : Nat := n * 60000

/-- The status of a taken setting (00, Settings and arguments). -/
def takenStatus (clamped : Bool) : Status := if clamped then .okClamped else .ok

/-! ## Lists and vectors -/

/-- Places x behind every element that stands before it or ties with it. -/
def insertSorted {α : Type} (before : α → α → Bool) (x : α) : List α → List α
  | [] => [x]
  | y :: ys => if before x y then x :: y :: ys else y :: insertSorted before x ys

/-- A stable insertion sort by a strict order. -/
def sortBy {α : Type} (before : α → α → Bool) : List α → List α
  | [] => []
  | x :: xs => insertSorted (fun a b => !before b a) x (sortBy before xs)

/-- Changes one place of a vector. -/
def modifyAt {α : Type} {n : Nat} (v : Vector α n) (i : Fin n) (f : α → α) : Vector α n := v.set i (f v[i])

/-- All bay numbers, ascending. -/
def allBays : List BayNo := List.finRange 24

/-! ## Bays -/

/-- The record of a bay (R3). -/
def State.bay (s : State) (b : BayNo) : Bay := s.bays[b]

/-- Changes the record of a bay. -/
def State.updBay (s : State) (b : BayNo) (f : Bay → Bay) : State := { s with bays := modifyAt s.bays b f }

/-- R1: the bay's number is below the strapped count. -/
def State.fitted (s : State) (b : BayNo) : Bool := b.val < s.bayCount

/-- BOUND, CLEARED or LEAVING: a coach is bound at the bay (R3). -/
def BayState.isBound : BayState → Bool
  | .bound | .cleared | .leaving => true
  | .closed | .empty | .arrived => false

/-- A coach is bound at the bay. -/
def State.boundAt (s : State) (b : BayNo) : Bool := (s.bay b).state.isBound

/-- Moves a bay to a state and posts the BAY notice of R22 when the state changes. -/
def setBayState (b : BayNo) (st : BayState) (s : State) : State :=
  if (s.bay b).state = st then s
  else notifyBay .bay b (s.updBay b fun r => { r with state := st })

/-- Sets a bay's conflict field and posts the BAY notice of R22 when it changes. -/
def setConflict (b : BayNo) (on : Bool) (s : State) : State :=
  if (s.bay b).conflict = on then s
  else notifyBay .bay b (s.updBay b fun r => { r with conflict := on })

/-- Sets a bay's hold and posts the BAY notice of R22 when it changes. -/
def setHold (b : BayNo) (on : Bool) (s : State) : State :=
  if (s.bay b).hold = on then s
  else notifyBay .bay b (s.updBay b fun r => { r with hold := on })

/-- R25: the class data of the bay's coach as the class table holds it now, or none. -/
def State.classOf (s : State) (b : BayNo) : Option ClassRecord := (s.bay b).cls.bind fun c => s.classes[c]

/-- The bay at which a coach id is bound (R10, R44). -/
def State.bayOfCoach (s : State) (id : Nat) : Option BayNo :=
  allBays.find? fun b => s.boundAt b && (s.bay b).coach == some id

/-! ## Post-bus requests -/

/-- The bay a request names; ALL OFF names none (R178). -/
def Job.bay : Job → Option BayNo
  | .allOff => .none
  | .heat b _ | .signal b _ | .lampStep _ b _ | .lampRead _ b _ | .lampEnd _ b | .sense b | .ident b | .faultPage b _ | .ping b => some b

/-- R176: the arbiter's class of a request. -/
def Job.cls : Job → Nat
  | .allOff | .heat .. | .signal .. => 1
  | .lampStep .. | .lampRead .. | .lampEnd .. => 2
  | .sense _ => 3
  | .ident _ | .faultPage .. => 4
  | .ping _ => 5

def Job.isHeatFor (b : BayNo) : Job → Bool
  | .heat b' _ => b' == b
  | _ => false

def Job.isSignalFor (b : BayNo) : Job → Bool
  | .signal b' _ => b' == b
  | _ => false

def Job.isHeatOrSignal : Job → Bool
  | .heat .. | .signal .. => true
  | _ => false

def Job.isSenseFor (b : BayNo) : Job → Bool
  | .sense b' => b' == b
  | _ => false

def Job.isIdentFor (b : BayNo) : Job → Bool
  | .ident b' => b' == b
  | _ => false

def Job.isPageFor (b : BayNo) : Job → Bool
  | .faultPage b' _ => b' == b
  | _ => false

def Job.isPingFor (b : BayNo) : Job → Bool
  | .ping b' => b' == b
  | _ => false

/-- A LAMP STEP or LAMP READ of the engine. -/
def Job.isStepOf (e : EngineNo) : Job → Bool
  | .lampStep e' _ _ | .lampRead e' _ _ => e' == e
  | _ => false

/-- Whether a post is SILENT (R170). -/
def State.silent (s : State) (b : BayNo) : Bool := s.bus.posts[b].silent

/-- Changes a post's record. -/
def State.updPost (s : State) (b : BayNo) (f : Post → Post) : State :=
  { s with bus := { s.bus with posts := modifyAt s.bus.posts b f } }

/-- R170: the request joins the waiting requests, behind those placed before it. -/
def placeJob (j : Job) (s : State) : State :=
  { s with bus := { s.bus with waiting := s.bus.waiting ++ [⟨j, s.bus.event⟩] } }

/-- Whether a waiting request satisfies p. -/
def State.waits (s : State) (p : Job → Bool) : Bool := s.bus.waiting.any fun r => p r.job

/-- Whether the transaction in flight satisfies p and its result will be handed on. -/
def State.flies (s : State) (p : Job → Bool) : Bool :=
  match s.bus.wire with
  | .busy t => p t.job && !t.discarded
  | .free | .quiet => false

/-- R9, R4: a request waits or is in flight; one whose result will be discarded counts no more (log 14). -/
def State.outstanding (s : State) (p : Job → Bool) : Bool := s.waits p || s.flies p

/-- R90, R166: places a HEAT or SIGNAL request, or puts its value into the one that waits for the bay, which keeps its place. -/
def placeOrReplace (p : Job → Bool) (j : Job) (s : State) : State :=
  if s.waits p then
    { s with bus := { s.bus with waiting := s.bus.waiting.map fun r => if p r.job then { r with job := j } else r } }
  else placeJob j s

/-- R179: waiting requests are removed. -/
def withdrawWaiting (p : Job → Bool) (s : State) : State :=
  { s with bus := { s.bus with waiting := s.bus.waiting.filter fun r => !p r.job } }

/-- R179: the result of a transaction in flight will be discarded. -/
def discardFlying (p : Job → Bool) (s : State) : State :=
  match s.bus.wire with
  | .busy t => if p t.job then { s with bus := { s.bus with wire := .busy { t with discarded := true } } } else s
  | .free | .quiet => s

/-- R179: a block withdraws its requests. -/
def withdraw (p : Job → Bool) (s : State) : State := discardFlying p (withdrawWaiting p s)

/-- R9, R179: a waiting ident request is withdrawn and the result of one in flight will be discarded (log 13). -/
def withdrawIdent (b : BayNo) (s : State) : State := withdraw (Job.isIdentFor b) s

/-- The three values of a request field of R3, R80, R155. -/
inductive RequestState where
  | absent | waiting | inFlight
deriving DecidableEq, Repr

/-- R3, R9: the ident request field of a bay, read from the bus. -/
def State.identRequest (s : State) (b : BayNo) : RequestState :=
  if s.flies (Job.isIdentFor b) then .inFlight else if s.waits (Job.isIdentFor b) then .waiting else .absent

/-- R80: the HEAT request waiting for a bay. -/
def State.heatRequest (s : State) (b : BayNo) : Option Bool :=
  s.bus.waiting.findSome? fun r => match r.job with
    | .heat b' on => if b' = b then some on else .none
    | _ => .none

/-- R155: the SIGNAL request waiting for a bay. -/
def State.signalRequest (s : State) (b : BayNo) : Option Aspect :=
  s.bus.waiting.findSome? fun r => match r.job with
    | .signal b' a => if b' = b then some a else .none
    | _ => .none

/-! ## The arbiter (R176) -/

/-- The bays from the one after the last served round to it; from bay 0 when none has been served. -/
def roundRobin (last : Option BayNo) : List BayNo :=
  match last with
  | .none => allBays
  | some b => allBays.drop (b.val + 1) ++ allBays.take (b.val + 1)

/-- Whether request a goes before request b of the same bay and class: the one placed earlier, and HEAT before SIGNAL when both were
placed at one event. -/
def Request.goesBefore (a b : Request) : Bool :=
  a.placed < b.placed || (a.placed == b.placed && (match a.job, b.job with | .heat .., .signal .. => true | _, _ => false))

/-- The first of a bay's requests to be granted. -/
def firstOf : List Request → Option Request
  | [] => .none
  | r :: rs =>
    match firstOf rs with
    | .none => some r
    | some q => if q.goesBefore r then some q else some r

/-- Round-robin by bay number within a class. -/
def chooseByBay (waiting : List Request) (cls : Nat) (last : Option BayNo) : Option Request :=
  (roundRobin last).findSome? fun b => firstOf (waiting.filter fun r => r.job.cls == cls && r.job.bay == some b)

/-- The engine that makes a class 2 request. -/
def Job.engine : Job → Option EngineNo
  | .lampStep e _ _ | .lampRead e _ _ | .lampEnd e _ => some e
  | .allOff | .heat .. | .signal .. | .sense _ | .ident _ | .faultPage .. | .ping _ => .none

/-- Class 2: the engine not served last, when both have a request waiting. -/
def chooseEngine (waiting : List Request) (last : EngineNo) : Option Request :=
  let of := fun e => waiting.find? fun r => r.job.engine == some e
  (of (1 - last)).or (of last)

/-- The request the arbiter grants: the highest class that holds one, ALL OFF first within class 1. -/
def chooseRequest (u : Bus) : Option Request :=
  (u.waiting.find? fun r => r.job == .allOff)
    |>.or (chooseByBay u.waiting 1 u.last1)
    |>.or (chooseEngine u.waiting u.lastEngine)
    |>.or (chooseByBay u.waiting 3 u.last3)
    |>.or (chooseByBay u.waiting 4 u.last4)
    |>.or (chooseByBay u.waiting 5 u.last5)

/-- R176: each grant records its bay or its engine as the last served in its class; ALL OFF leaves the record. -/
def Bus.served (u : Bus) (j : Job) : Bus :=
  match j with
  | .allOff => u
  | .heat b _ | .signal b _ => { u with last1 := some b }
  | .lampStep e _ _ | .lampRead e _ _ | .lampEnd e _ => { u with lastEngine := e }
  | .sense b => { u with last3 := some b }
  | .ident b | .faultPage b _ => { u with last4 := some b }
  | .ping b => { u with last5 := some b }

/-- R173: the response window. -/
def responseWindow : Nat := 20

/-- R173, R176: the request leaves the waiting requests and becomes the transaction in flight. -/
def Bus.grant (u : Bus) (r : Request) : Bus :=
  { u.served r.job with
    waiting := u.waiting.erase r
    wire := .busy ⟨r.job, false, if r.job = .allOff then .none else some responseWindow, false⟩ }

/-- The end of an event at the bus: the arbiter grants when the bus is free and a request waits (R176, log 11), and the next event's
requests count as placed later. -/
def Bus.arbitrate (u : Bus) : Bus :=
  let u := match u.wire with
    | .free => match chooseRequest u with
      | some r => u.grant r
      | .none => u
    | .busy _ | .quiet => u
  { u with event := u.event + 1 }

/-- R176 at the end of an event. -/
def arbitrate (s : State) : State := { s with bus := s.bus.arbitrate }

/-! ## Events -/

/-- R190: while the reset line is held the part takes nothing (log 21). -/
def event (f : State → State) (s : State) : Host.Outcome State Fault Refusal :=
  .next (if s.resetHeld then s else f s)

end Sys2Proof.Machine
end

