-- ==== Sys2Proof/Machine/Book.lean ====
section
/-! DEFINITION. The departure book and the depot clock (03): records and book order, binding of departures, the log. Removals that touch
a clearance or an exit signal are in Clearance.lean. -/

namespace Sys2Proof.Machine

/-! ## Minutes ahead and book order -/

/-- R36: (d - t) mod 1440. -/
def minutesAheadOf (d t : Nat) : Nat := (d + 1440 - t) % 1440

/-- R36, R49: the minutes ahead a reader is given; 0 for an overdue record. -/
def Departure.ahead (t : Nat) (d : Departure) : Nat :=
  match d.overdue with
  | some _ => 0
  | none => minutesAheadOf d.minute t

/-- R40. -/
def Departure.before (t : Nat) (a b : Departure) : Bool :=
  match a.overdue, b.overdue with
  | some x, some y => y.minutes < x.minutes || (x.minutes == y.minutes && a.booking < b.booking)
  | some _, none => true
  | none, some _ => false
  | none, none =>
    a.ahead t < b.ahead t || (a.ahead t == b.ahead t && a.booking < b.booking)

/-- Changes the book. -/
def State.updBook (s : State) (f : Book → Book) : State := { s with book := f s.book }

/-- R40: the book is put back into its order. -/
def reorder (s : State) : State :=
  s.updBook fun k => { k with records := sortBy (Departure.before s.clock.minute) k.records }

/-- The record with a ref. -/
def Book.find (k : Book) (ref : Nat) : Option Departure := k.records.find? (·.ref == ref)

/-- The record that names a bay: the departure bound there (R39). -/
def Book.boundTo (k : Book) (b : BayNo) : Option Departure := k.records.find? (·.bay == some b)

/-- The place of a ref in book order (R40). -/
def Book.position (k : Book) (ref : Nat) : Nat := k.records.findIdx (·.ref == ref)

/-- Changes the record with a ref. -/
def Book.update (k : Book) (ref : Nat) (f : Departure → Departure) : Book :=
  { k with records := k.records.map fun d => if d.ref = ref then f d else d }

/-- Changes the record with a ref. -/
def updRecord (ref : Nat) (f : Departure → Departure) (s : State) : State := s.updBook (·.update ref f)

/-! ## Booking numbers (R38) -/

/-- The records renumbered 1..n in the order of their booking numbers. -/
def renumber (rs : List Departure) : List Departure :=
  rs.map fun d => { d with booking := 1 + rs.countP fun e => decide (e.booking < d.booking) }

/-- R38: makes the next booking number at most 65535, renumbering when the counter would pass it. -/
def Book.readyNumber (k : Book) : Book :=
  if k.nextBooking ≤ 65535 then k
  else { k with records := renumber k.records, nextBooking := k.records.length + 1 }

/-! ## Binding (R44) -/

/-- R44: at a BOUND bay with no departure bound, the first BOOKED record in book order that carries the bay's coach, of those p allows,
binds; a DEPARTURE notice is posted with the bay. -/
def bindWhere (p : Departure → Bool) (b : BayNo) (s : State) : State :=
  if (s.bay b).state = .bound ∧ s.book.boundTo b = none then
    match (s.bay b).coach with
    | none => s
    | some c =>
      match s.book.records.find? fun d => p d && d.state == .booked && d.coach == some c with
      | none => s
      | some d => notifyBay .departure b (updRecord d.ref (fun d => { d with state := .bound, bay := some b }) s)
  else s

/-- R44: every BOOKED record with the coach's id is tried. -/
def bindFirst (b : BayNo) (s : State) : State := bindWhere (fun _ => true) b s

/-- R44: the record booked or assigned is tried at the bay where its coach is bound. -/
def bindRecord (ref : Nat) (s : State) : State :=
  match (s.book.find ref).bind (·.coach) with
  | none => s
  | some c =>
    match s.bayOfCoach c with
    | none => s
    | some b => bindWhere (·.ref == ref) b s

/-- R45: an unscheduled exit returns the record bound to the bay to BOOKED with no bay. -/
def unbind (ref : Nat) (b : BayNo) (s : State) : State :=
  notifyBay .departure b (updRecord ref (fun d => { d with state := .booked, bay := none }) s)

/-! ## The log (R50) -/

/-- The DEFERRED entries on a bay's list. -/
def deferredCount (ds : List Defect) : Nat :=
  ds.countP fun d => match d.state with
    | .deferred _ => true
    | .opened | .acknowledged => false

/-- R50: the entry for a record leaving the book now. -/
def logEntryOf (s : State) (d : Departure) (outcome : LogOutcome) (anomaly : Bool) : LogEntry where
  sequence := s.book.nextSequence
  ref := d.ref
  outcome := outcome
  plugAnomaly := anomaly
  bay := d.bay
  coach := d.coach
  minute := s.clock.minute
  cabinAtUnplug := if anomaly then none else d.bay.bind fun b => (s.bay b).cabinAtUnplug
  deferred := match d.bay with
    | some b => deferredCount s.store.lists[b]
    | none => 0

/-- R50: the entry is placed last; the oldest of 16 is dropped. -/
def Book.addLog (k : Book) (e : LogEntry) : Book :=
  { k with
    log := (if 16 ≤ k.log.length then k.log.drop (k.log.length - 15) else k.log) ++ [e]
    nextSequence := (k.nextSequence + 1) % 65536 }

/-- R50: the record leaves the book and is logged; no notice. -/
def removeRecord (d : Departure) (outcome : LogOutcome) (anomaly : Bool) (s : State) : State :=
  s.updBook fun k => { k.addLog (logEntryOf s d outcome anomaly) with records := k.records.filter (·.ref != d.ref) }

/-- R50, R53: the same with its DEPARTURE notice. -/
def removeAndNotify (d : Departure) (outcome : LogOutcome) (anomaly : Bool) (s : State) : State :=
  let s := removeRecord d outcome anomaly s
  let s := notify .departure (BaySet.ofOption d.bay) s
  if anomaly then markAnomaly s else s

/-! ## What the book gives its readers (R49, R52) -/

/-- R52: the record without its booking number, with its position, its minutes ahead and, while it is CLEARING, its pending clearance
(R155, log 32). -/
def State.departureView (s : State) (d : Departure) : DepartureView :=
  let p := if d.state = .clearing then s.clearance.pending.find? (·.ref == d.ref) else none
  { ref := d.ref
    minute := d.minute
    coach := d.coach
    target := d.target
    lead := d.lead
    state := d.state
    bay := d.bay
    overdue := d.overdue.map (·.minutes)
    ahead := d.ahead s.clock.minute
    position := s.book.position d.ref
    reasons := d.reasons
    cold := match p with
      | some p => p.cold
      | none => false
    timer := match p with
      | some p => secondsLeft p.timer
      | none => 0 }

end Sys2Proof.Machine
end

