-- ==== Sys2Proof/Machine/Sequencer.lean ====
section
/-! DEFINITION. The heating sequencer (05): contactor commands, loss of eligibility, shedding, the share chain and its layout. The slot
walk, which hands findings to the defect store, is in Walk.lean. -/

namespace Sys2Proof.Machine

/-- Changes the sequencer's state. -/
def State.updSeq (s : State) (f : Sequencer → Sequencer) : State := { s with seq := f s.seq }

/-! ## Counted load (R89) -/

/-- The units counted on all feeders, or on one. -/
def memberUnits (ms : List Member) : Nat := (ms.map (·.units)).sum
def memberUnitsOn (f : Fin 4) (ms : List Member) : Nat := memberUnits (ms.filter (·.feeder == f))
def fixedUnits (v : Vector (Option UnitsOn) 24) : Nat := ((v.toList.filterMap id).map (·.units)).sum
def fixedUnitsOn (f : Fin 4) (v : Vector (Option UnitsOn) 24) : Nat :=
  (((v.toList.filterMap id).filter (·.feeder == f)).map (·.units)).sum

/-- R89: the counted load in total. -/
def Sequencer.load (q : Sequencer) : Nat := memberUnits q.onSet + fixedUnits q.held + fixedUnits q.stuck

/-- R89: the counted load of one feeder. -/
def Sequencer.loadOn (q : Sequencer) (f : Fin 4) : Nat :=
  memberUnitsOn f q.onSet + fixedUnitsOn f q.held + fixedUnitsOn f q.stuck

/-- The four feeders. -/
def allFeeders : List (Fin 4) := List.finRange 4

/-- R93: held and stuck units alone exceed the total limit or a feeder's limit. -/
def Sequencer.fixedExceed (q : Sequencer) : Bool :=
  q.total < fixedUnits q.held + fixedUnits q.stuck ||
    allFeeders.any fun f => q.feeders[f] < fixedUnitsOn f q.held + fixedUnitsOn f q.stuck

/-- R88, step 2: the stuck units alone exceed the total limit or a feeder's limit. -/
def Sequencer.stuckExceed (q : Sequencer) : Bool :=
  q.total < fixedUnits q.stuck || allFeeders.any fun f => q.feeders[f] < fixedUnitsOn f q.stuck

/-! ## Contactor commands (R90) -/

/-- R90, R96: a HEAT request with this value; none is made while the post is SILENT. -/
def requestHeat (b : BayNo) (on : Bool) (s : State) : State :=
  if s.silent b then s else placeOrReplace (Job.isHeatFor b) (.heat b on) s

/-- R90: the commanded state takes the value wanted, and a change asks for a HEAT transaction. -/
def commandHeat (b : BayNo) (on : Bool) (s : State) : State :=
  if s.seq.commanded[b].on = on then s
  else requestHeat b on (s.updSeq fun q => { q with commanded := q.commanded.set b ⟨on, s.now⟩ })

/-- R97, R98: the commanded state has been as it is for at least 10 s. -/
def State.commandSettled (s : State) (b : BayNo) : Bool := 10000 ≤ s.now - s.seq.commanded[b].since

/-! ## Leaving the on-set -/

/-- The bay's member in the on-set. -/
def Sequencer.member (q : Sequencer) (b : BayNo) : Option Member := q.onSet.find? (·.bay == b)

/-- The entry at a position becomes MISSED; nothing when the member has no entry left (R83). -/
def markMissed (chain : List Entry) : Option Nat → List Entry
  | .none => chain
  | some i => chain.modify i fun e => { e with status := .missed }

/-- R91: the bay leaves the on-set, its TAKEN entry becomes MISSED and it is commanded OFF. Nothing for a bay not in the on-set. -/
def leaveOnSet (b : BayNo) (s : State) : State :=
  match s.seq.member b with
  | .none => s
  | some m =>
    commandHeat b false <| s.updSeq fun q =>
      { q with onSet := q.onSet.filter (·.bay != b), chain := markMissed q.chain m.entry }

/-- R96: silence in the on-set; the units are held, and the post being SILENT, no HEAT request is made. -/
def silenceHeating (b : BayNo) (s : State) : State :=
  match s.seq.member b with
  | .none => s
  | some m =>
    leaveOnSet b s |>.updSeq fun q => { q with held := q.held.set b (some ⟨m.units, m.feeder⟩) }

/-- R96: at the restoration a HEAT OFF request is made when the commanded state is OFF. -/
def restoreHeating (b : BayNo) (s : State) : State :=
  if s.seq.commanded[b].on then s else requestHeat b false s

/-- R100: a teardown at the sequencer. -/
def tearDownHeating (b : BayNo) (s : State) : State :=
  commandHeat b false <| (leaveOnSet b s).updSeq fun q =>
    { q with chain := q.chain.map fun e => if e.bay = b ∧ e.status = .waiting then { e with status := .missed } else e }

/-! ## Shedding (R93) -/

/-- The bay most recently switched on of those whose removal lowers a load that is over its limit. -/
def Sequencer.nextShed (q : Sequencer) : Option Member :=
  q.onSet.reverse.find? fun m => q.total < q.load || q.feeders[m.feeder] < q.loadOn m.feeder

/-- R93, step 2, at most n times. -/
def shedSome : Nat → State → State
  | 0, s => s
  | n + 1, s =>
    match s.seq.nextShed with
    | .none => s
    | some m => shedSome n (leaveOnSet m.bay s)

/-- Sheds every bay of the on-set, most recent first. -/
def shedAll (s : State) : State := s.seq.onSet.reverse.foldl (fun s m => leaveOnSet m.bay s) s

/-- R93. -/
def shed (s : State) : State :=
  if s.seq.fixedExceed then shedAll s else shedSome s.seq.onSet.length s

/-! ## Pins (R82, R83) -/

/-- The number of pinned entries, which stand first (R81). -/
def Sequencer.pinned (q : Sequencer) : Nat := q.chain.countP (·.pinned)

/-- R82: a pinned entry behind the other pins; the planned entries each move one position later, with the members that name them. -/
def Sequencer.addPin (q : Sequencer) (b : BayNo) : Sequencer :=
  let p := q.pinned
  { q with
    chain := q.chain.take p ++ ⟨b, true, .waiting⟩ :: q.chain.drop p
    onSet := q.onSet.map fun m => { m with entry := m.entry.map fun i => if p ≤ i then i + 1 else i } }

/-- R83: the entry at a position is removed; a member it put in the on-set refers to no entry any more. -/
def Sequencer.removeEntry (q : Sequencer) (p : Nat) : Sequencer :=
  { q with
    chain := q.chain.eraseIdx p
    onSet := q.onSet.map fun m =>
      { m with entry := m.entry.bind fun i => if i = p then .none else if p < i then some (i - 1) else some i } }

/-- The positions of a bay's pinned entries, ascending. -/
def Sequencer.pinsOf (q : Sequencer) (b : BayNo) : List Nat :=
  (List.range q.chain.length).filter fun i =>
    match q.chain[i]? with
    | some e => e.pinned && e.bay == b
    | .none => false

/-- R16, R83: CLOSE BAY removes every pinned entry of the bay. -/
def Sequencer.removePins (q : Sequencer) (b : BayNo) : Sequencer :=
  (q.pinsOf b).reverse.foldl (fun q i => q.removeEntry i) q

/-! ## Layout (R85, R86) -/

/-- The most entries the chain holds (R81). -/
def chainRoom : Nat := 64

/-- What the planner hands the sequencer for a bay (R62): the count of turns to place, and the place of the bay among the others:
the book position for basis DEPARTURE, none for basis FROST. -/
structure Handed where
  bay : BayNo
  count : Nat
  position : Option Nat
deriving DecidableEq, Repr

/-- R85: bays with a departure in book order, then frost bays in bay order. -/
def Handed.before (a b : Handed) : Bool :=
  match a.position, b.position with
  | some p, some q => p < q
  | some _, .none => true
  | .none, some _ => false
  | .none, .none => a.bay < b.bay

/-- R85: the entries of passes 1 to 16. -/
def layout (hs : List Handed) : List Entry :=
  let hs := sortBy Handed.before hs
  (List.range 16).flatMap fun p => (hs.filter fun h => p < h.count).map fun h => ⟨h.bay, false, .waiting⟩

/-- R85: the planned entries behind the pins, as far as room allows. -/
def Sequencer.layOut (q : Sequencer) (hs : List Handed) : Sequencer :=
  { q with chain := (q.chain ++ layout hs).take chainRoom }

/-- The planned entries of a bay in the chain. -/
def Sequencer.plannedOf (q : Sequencer) (b : BayNo) : Nat := q.chain.countP fun e => !e.pinned && e.bay == b

/-- R86: how many entries a late pass appends. -/
def Sequencer.lateCount (q : Sequencer) (b : BayNo) (count : Nat) : Nat :=
  min count (min (chainRoom - q.chain.length) (16 - q.plannedOf b))

/-- R86: appends a late pass's entries at the tail. -/
def Sequencer.lateAppend (q : Sequencer) (b : BayNo) (count : Nat) : Sequencer :=
  { q with chain := q.chain ++ List.replicate (q.lateCount b count) ⟨b, false, .waiting⟩ }

end Sys2Proof.Machine
end

