-- ==== Sys2Proof/Machine/Clearance.lean ====
section
/-! DEFINITION. The clearance unit (09): exit signals, the conditions, grants, refusals, drops and revocations, and the removals of the
departure book that touch them (R46, R47). Requests, which ask for tests and reads, are in ClearanceCommands.lean. -/

namespace Sys2Proof.Machine

/-- Changes the clearance unit's state. -/
def State.updClearance (s : State) (f : Clearance → Clearance) : State := { s with clearance := f s.clearance }

/-! ## Exit signals (R166 to R168) -/

/-- R166: a SIGNAL request with this value; none while the post is SILENT. -/
def requestSignal (b : BayNo) (a : Aspect) (s : State) : State :=
  if s.silent b then s else placeOrReplace (Job.isSignalFor b) (.signal b a) s

/-- R167: the ALERT timer's start. -/
def alertTime : Nat := 300000

/-- R166, R167: the recorded signal changes; ALERT starts the bay's ALERT timer and any other change stops it. A bay whose record has
the value wanted is not signalled again. -/
def setSignal (b : BayNo) (a : Aspect) (s : State) : State :=
  if s.clearance.signals[b] = a then s
  else requestSignal b a <| s.updClearance fun c =>
    { c with signals := c.signals.set b a, alerts := c.alerts.set b (if a = .alert then some alertTime else none) }

/-- R168: at the restoration of the post, a SIGNAL request with the recorded signal. -/
def restoreSignal (b : BayNo) (s : State) : State := requestSignal b s.clearance.signals[b] s

/-! ## Pending clearances -/

/-- R159: the pending timer's start. -/
def pendingTime : Nat := 90000

/-- The pending clearance of a ref. -/
def Clearance.find (c : Clearance) (ref : Nat) : Option PendingClearance := c.pending.find? (·.ref == ref)

/-- A pending clearance ends, its timer with it. -/
def endPending (ref : Nat) (s : State) : State :=
  s.updClearance fun c => { c with pending := c.pending.filter (·.ref != ref) }

/-- R163: a pending clearance is dropped without evaluation, with a CLEARANCE notice. -/
def dropPending (ref : Nat) (b : BayNo) (s : State) : State := notifyBay .clearance b (endPending ref s)

/-! ## The conditions (R157) -/

/-- R116: PASSED, PASSED_WITH_NOTES or FAILED. -/
def LampOutcome.isComplete : LampOutcome → Bool
  | .passed | .passedWithNotes | .failed => true
  | .incomplete _ => false

/-- R116: the age is at most the lamp freshness setting. -/
def State.lampFresh (s : State) (b : BayNo) : Bool :=
  match s.lamp.results[b] with
  | some r => ageMinutes r.age ≤ s.lamp.freshness
  | none => false

/-- R157, LAMP: the result is complete and fresh. -/
def State.lampMet (s : State) (b : BayNo) : Bool :=
  match s.lamp.results[b] with
  | some r => r.outcome.isComplete && decide (ageMinutes r.age ≤ s.lamp.freshness)
  | none => false

/-- R138: OPEN or ACKNOWLEDGED. -/
def DefectState.standing : DefectState → Bool
  | .opened | .acknowledged => true
  | .deferred _ => false

/-- R149: an INHIBIT entry in OPEN or ACKNOWLEDGED. -/
def State.inhibited (s : State) (b : BayNo) : Bool :=
  s.store.lists[b].any fun d => d.action == .inhibit && d.state.standing

/-- R150: a BLOCK entry in OPEN or ACKNOWLEDGED. -/
def State.hasBlock (s : State) (b : BayNo) : Bool :=
  s.store.lists[b].any fun d => d.action == .block && d.state.standing

/-- R150: one of the bay's overflow marks is SET. -/
def Marks.any (m : Marks) : Bool := m.fault || m.lamp || m.post

/-- R157: the record's target, or the default target. -/
def State.targetOf (s : State) (d : Departure) : Int := d.target.getD s.planner.defaultTarget

/-- R157, COLD: the cabin temperature is present and below Tt - tolerance. -/
def State.coldCabin (s : State) (d : Departure) (b : BayNo) : Bool :=
  match (s.bay b).cabin with
  | some c => c.temperature < s.targetOf d - s.planner.tolerance
  | none => false

/-- R157, STALE_SENSE: the cabin temperature is absent, or its age exceeds 30 s. -/
def State.staleSense (s : State) (b : BayNo) : Bool :=
  match (s.bay b).cabin with
  | some c => 30 < ageSeconds c.age
  | none => true

/-- R157: the reason set of a record bound to a bay. -/
def State.judge (s : State) (d : Departure) (b : BayNo) (cold : Bool) : ReasonSet :=
  reasonIf (s.bay b).hold reasonHold ||| reasonIf (s.silent b) reasonPostSilent
    ||| reasonIf (s.hasBlock b) reasonBlockingDefect ||| reasonIf s.store.marks[b].any reasonOverflow
    ||| reasonIf (!s.lampMet b) reasonLamp ||| reasonIf (!s.reader.readSince[b]) reasonFaultRead
    ||| reasonIf (!cold && s.coldCabin d b) reasonCold ||| reasonIf (!cold && s.staleSense b) reasonStaleSense
    ||| reasonIf (decide (s.clearance.window < d.ahead s.clock.minute)) reasonEarly

/-- R157: NOT_BOUND alone when the record is neither BOUND nor CLEARING with a bay in state BOUND. -/
def State.evaluate (s : State) (d : Departure) (cold : Bool) : ReasonSet :=
  match d.bay with
  | none => reasonNotBound
  | some b =>
    if (d.state = .bound ∨ d.state = .clearing) ∧ (s.bay b).state = .bound then s.judge d b cold else reasonNotBound

/-! ## Decisions -/

/-- R13, R48, R160. The bay leaves BOUND, so that an ident asked for it comes to nothing (R2, R12, log 13). -/
def grant (ref : Nat) (b : BayNo) (s : State) : State :=
  let s := updRecord ref (fun d => { d with state := .cleared, reasons := none }) s
  let s := withdrawIdent b s
  let s := setBayState b (if (s.bay b).plug then .cleared else .leaving) s
  let s := endPending ref s
  let s := setSignal b .green s
  notifyBay .clearance b s

/-- R48, R159, R161, R162, R164: a refusal of a BOUND or CLEARING record. -/
def refuse (ref : Nat) (b : BayNo) (rs : ReasonSet) (s : State) : State :=
  let s := updRecord ref (fun d => { d with state := .bound, reasons := some rs }) s
  notifyBay .clearance b (endPending ref s)

/-- R14, R165: the bay of a departure that is cleared no more returns to BOUND; its signal becomes RED, or ALERT from LEAVING. A bay whose
identity is unconfirmed asks for no ident here (log 39). -/
def returnBay (b : BayNo) (s : State) : State :=
  let a : Aspect := if (s.bay b).state = .leaving then .alert else .red
  setSignal b a (setBayState b .bound s)

/-- R46: a record is cancelled or auto-cancelled, with what happens at its bay. -/
def cancelRecord (d : Departure) (outcome : LogOutcome) (s : State) : State :=
  let s := removeAndNotify d outcome false s
  match d.state, d.bay with
  | .bound, some b => bindFirst b s
  | .clearing, some b => bindFirst b (dropPending d.ref b s)
  | .cleared, some b => bindFirst b (returnBay b s)
  | .booked, _ | .bound, none | .clearing, none | .cleared, none => s

/-- R47: the overdue minutes at which a record that is not CLEARED is removed. -/
def autoCancelMinutes : Nat := 240

/-- R47, at an event that may bring the record there. -/
def autoCancel (ref : Nat) (s : State) : State :=
  match s.book.find ref with
  | none => s
  | some d =>
    match d.overdue with
    | none => s
    | some o => if d.state ≠ .cleared ∧ autoCancelMinutes ≤ o.minutes then cancelRecord d .autoCancelled s else s

/-- R165: the CLEARED departure is revoked. -/
def revoke (ref : Nat) (b : BayNo) (s : State) : State :=
  let s := updRecord ref (fun d => { d with state := .bound }) s
  let s := returnBay b s
  let s := notifyBay .clearance b s
  autoCancel ref s

/-- R150, R165: a report that bears on the bay's clearance; it revokes a CLEARED departure and does nothing else. -/
def reportToClearance (b : BayNo) (s : State) : State :=
  match s.book.boundTo b with
  | none => s
  | some d => if d.state = .cleared then revoke d.ref b s else s

/-! ## Pending completions (R161) -/

/-- R161: a lamp test is queued or running for the bay. -/
def State.testActive (s : State) (b : BayNo) : Bool :=
  s.lamp.queue.any (·.bay == b) || s.lamp.engines.toList.any fun e => match e with
    | .running t => t.bay == b
    | .free | .releasing _ => false

/-- R121: a read is in progress on the bay. -/
def State.isReading (s : State) (b : BayNo) : Bool := s.reader.reading[b].isSome

/-- R161: every failing reason is LAMP or FAULT_READ and has the half that remedies it still running. -/
def State.halvesRunning (s : State) (b : BayNo) (rs : ReasonSet) : Bool :=
  rs.remediable && (!rs.holds reasonLamp || s.testActive b) && (!rs.holds reasonFaultRead || s.isReading b)

/-- R161: the end of a test or of a read on the bay, handed to the clearance unit. -/
def pendingCompletion (b : BayNo) (s : State) : State :=
  match s.book.boundTo b with
  | none => s
  | some d =>
    match s.clearance.find d.ref with
    | none => s
    | some p =>
      if d.state ≠ .clearing then s
      else
        let rs := s.evaluate d p.cold
        if rs = 0#12 then grant d.ref b s
        else if s.halvesRunning b rs then s
        else refuse d.ref b rs s

end Sys2Proof.Machine
end

