-- ==== Sys2Proof/Machine/Store.lean ====
section
/-! DEFINITION. The defect store (08): the pool and the free list, findings and merges, what a write reports to heating and clearance. -/

namespace Sys2Proof.Machine

/-- Changes the store. -/
def State.updStore (s : State) (f : Store → Store) : State := { s with store := f s.store }

/-! ## Ids and slots (R139) -/

/-- The id after this one; 1 after 65535. -/
def idAfter (i : Nat) : Nat := if 65535 ≤ i then 1 else i + 1

/-- The first id not in use, trying i first and at most n more. -/
def freshId (used : List Nat) : Nat → Nat → Nat
  | 0, i => i
  | n + 1, i => if used.contains i then freshId used n (idAfter i) else i

/-- Every entry in use, bay by bay. -/
def Store.entries (st : Store) : List Defect := st.lists.toList.flatten

/-- The bay and entry of an id in use. -/
def Store.find (st : Store) (id : Nat) : Option (BayNo × Defect) :=
  allBays.findSome? fun b => (st.lists[b].find? (·.id == id)).map fun d => (b, d)

/-- R139: an entry can be created for the bay. -/
def Store.hasRoom (st : Store) (b : BayNo) : Bool := !st.free.isEmpty && st.lists[b].length < 16

/-- What a new entry takes from its finding or command (R138). -/
structure NewDefect where
  source : Source
  code : Nat
  action : Action
  present : Option Bool
  count : Nat
  severity : Option Nat
  detail : Option LampDetail
deriving DecidableEq, Repr

/-- R139: the slot at the head of the free list, a fresh id, age 0, the tail of the bay's list. none when there is no room. -/
def Store.create (st : Store) (b : BayNo) (n : NewDefect) : Option Store :=
  if st.lists[b].length < 16 then
    match st.free with
    | [] => none
    | slot :: free =>
      let id := freshId (st.entries.map (·.id)) 96 st.nextId
      let d : Defect := ⟨slot, id, n.source, n.code, n.action, .opened, n.present, n.count, n.severity, n.detail, 0⟩
      some { st with free := free, lists := modifyAt st.lists b (· ++ [d]), nextId := idAfter id }
  else none

/-- R139: entries leave the bay's list; their slots join the tail of the free list in list order. -/
def Store.removeWhere (st : Store) (b : BayNo) (p : Defect → Bool) : Store :=
  { st with
    free := st.free ++ (st.lists[b].filter p).map (·.slot)
    lists := modifyAt st.lists b (·.filter fun d => !p d) }

/-- Changes entries where they stand on the bay's list. -/
def Store.updateWhere (st : Store) (b : BayNo) (p : Defect → Bool) (f : Defect → Defect) : Store :=
  { st with lists := modifyAt st.lists b (·.map fun d => if p d then f d else d) }

/-! ## Findings (R140) -/

/-- One finding of a source (R140's table). -/
inductive Finding where
  | fault (r : Gathered) (action : Action)
  | faultNotSeen (code : Nat)
  | lampFailed (c : Fin 16) (action : LampAction) (detail : LampDetail)
  | lampUndefined (c : Fin 16)
  | noCurrent
  | stuck
  | currentEnded
deriving DecidableEq, Repr

/-- A lamp circuit's action as an entry's (R24, R138). -/
def LampAction.toAction : LampAction → Action
  | .block => .block
  | .note => .note

/-- R138: the source and code that key the finding's entry. -/
def Finding.source : Finding → Source
  | .fault .. | .faultNotSeen _ => .fault
  | .lampFailed .. | .lampUndefined _ => .lamp
  | .noCurrent | .stuck | .currentEnded => .post

def Finding.code : Finding → Nat
  | .fault r _ => r.code
  | .faultNotSeen c => c
  | .lampFailed c _ _ | .lampUndefined c => c.val
  | .noCurrent => 1
  | .stuck | .currentEnded => 2

/-- The finding's entry. -/
def Finding.keys (f : Finding) (d : Defect) : Bool := d.source == f.source && d.code == f.code

/-- R140: the entry the finding creates; none for a report that a finding has gone. -/
def Finding.created (f : Finding) : Option NewDefect :=
  match f with
  | .fault r a => some ⟨.fault, r.code, a, some true, r.count, some r.severity, none⟩
  | .lampFailed c a x => some ⟨.lamp, c.val, a.toAction, some true, 1, none, some x⟩
  | .noCurrent => some ⟨.post, 1, .inhibit, some false, 1, none, none⟩
  | .stuck => some ⟨.post, 2, .inhibit, some true, 1, none, none⟩
  | .faultNotSeen _ | .lampUndefined _ | .currentEnded => none

/-- R140: the entry after an update; its id, place, age and state stand. Counts are held at 255 (R138). -/
def Finding.updated (f : Finding) (d : Defect) : Defect :=
  match f with
  | .fault r _ => { d with severity := some r.severity, count := r.count, present := some true }
  | .lampFailed _ a x => { d with action := a.toAction, present := some true, count := min 255 (d.count + 1), detail := some x }
  | .noCurrent => { d with count := min 255 (d.count + 1), present := some false }
  | .stuck => { d with count := min 255 (d.count + 1), present := some true }
  | .faultNotSeen _ | .lampUndefined _ | .currentEnded => { d with present := some false }

/-- What a write did, for the notice (R154) and the reports (R149, R150). -/
structure Effect where
  /-- an entry was created or removed, or its action or present flag changed -/
  changed : Bool
  /-- a finding was applied to an entry -/
  applied : Bool
  /-- a finding was not stored (R141) -/
  lost : Bool
  /-- a mark was set or cleared -/
  marked : Bool
  /-- a cause of blocking was added by an entry (R150) -/
  blocks : Bool
  /-- an INHIBIT entry was created (R149) -/
  inhibits : Bool
deriving DecidableEq, Repr

def Effect.none : Effect := ⟨false, false, false, false, false, false⟩

def Effect.or (a b : Effect) : Effect :=
  ⟨a.changed || b.changed, a.applied || b.applied, a.lost || b.lost, a.marked || b.marked, a.blocks || b.blocks,
    a.inhibits || b.inhibits⟩

/-- Sets or clears the mark of a source; MANUAL has none (R137, R141). -/
def Marks.put (m : Marks) (src : Source) (v : Bool) : Marks :=
  match src with
  | .fault => { m with fault := v }
  | .lamp => { m with lamp := v }
  | .post => { m with post := v }
  | .manual => m

/-- The mark of a source. -/
def Marks.get (m : Marks) (src : Source) : Bool :=
  match src with
  | .fault => m.fault
  | .lamp => m.lamp
  | .post => m.post
  | .manual => false

/-- R141: the finding is not stored; the starvation count rises and the mark is set. -/
def Store.lose (st : Store) (b : BayNo) (src : Source) : Store :=
  { st with starvation := sat16 (st.starvation + 1), marks := modifyAt st.marks b (·.put src true) }

/-- R150: an update that replaces the action of a standing entry with BLOCK. -/
def addsBlock (old new : Defect) : Bool := new.action == .block && old.action != .block && old.state.standing

/-- R140, R141: one finding applied to the list of a bay where a coach is bound. -/
def Store.applyFinding (st : Store) (b : BayNo) (f : Finding) : Store × Effect :=
  match st.lists[b].find? f.keys with
  | some d =>
    let d' := f.updated d
    (st.updateWhere b f.keys f.updated,
      { Effect.none with
        changed := d'.action != d.action || d'.present != d.present, applied := true, blocks := addsBlock d d' })
  | none =>
    match f.created with
    | none => (st, Effect.none)
    | some n =>
      match st.create b n with
      | some st' =>
        (st', { Effect.none with changed := true, applied := true, blocks := n.action == .block, inhibits := n.action == .inhibit })
      | none => (st.lose b f.source, { Effect.none with lost := true })

/-- Several findings in the order given. -/
def Store.applyAll (b : BayNo) : List Finding → Store → Store × Effect
  | [], st => (st, Effect.none)
  | f :: fs, st =>
    let r := st.applyFinding b f
    let q := Store.applyAll b fs r.1
    (q.1, r.2.or q.2)

/-- R142: a source's report that stored all its findings clears the mark. -/
def Store.clearMark (st : Store) (b : BayNo) (src : Source) : Store × Effect :=
  ({ st with marks := modifyAt st.marks b (·.put src false) }, { Effect.none with marked := st.marks[b].get src })

/-- R142: clears the mark when the report lost nothing. -/
def Store.settleMark (b : BayNo) (src : Source) (r : Store × Effect) : Store × Effect :=
  if r.2.lost then r
  else
    let q := r.1.clearMark b src
    (q.1, r.2.or q.2)

/-! ## Merges -/

/-- R133: BLOCK first, then INHIBIT, then NOTE. -/
def Action.rank : Action → Nat
  | .block => 0
  | .inhibit => 1
  | .note => 2

/-- R133, step 3: the order in which new faults are created. -/
def newFaultBefore (a b : Gathered × Action) : Bool :=
  a.2.rank < b.2.rank || (a.2.rank == b.2.rank && a.1.code < b.1.code)

/-- R133, R142: the merge of a COMPLETE or TRUNCATED read; the records carry the action R131 gives at this event. -/
def Store.mergeFaults (st : Store) (b : BayNo) (complete : Bool) (rs : List (Gathered × Action)) : Store × Effect :=
  let listed := fun (d : Defect) => d.source == .fault && !rs.any fun r => r.1.code == d.code
  let gone := if complete then (st.lists[b].filter listed).map fun d => Finding.faultNotSeen d.code else []
  let known := fun (r : Gathered × Action) => st.lists[b].any fun d => d.source == .fault && d.code == r.1.code
  let seen := (rs.filter known).map fun r => Finding.fault r.1 r.2
  let fresh := (sortBy newFaultBefore (rs.filter fun r => !known r)).map fun r => Finding.fault r.1 r.2
  let r := st.applyAll b (gone ++ seen ++ fresh)
  if complete then Store.settleMark b .fault r else r

/-- All circuit numbers, ascending. -/
def allCircuits : List (Fin 16) := List.finRange 16

/-- R118, step 3, R119: the failing circuits as findings, ascending. -/
def lampFailures (cs : Vector CircuitResult 16) : List Finding :=
  allCircuits.filterMap fun c => match cs[c] with
    | .low i a => some (.lampFailed c a ⟨false, i⟩)
    | .high i a => some (.lampFailed c a ⟨true, i⟩)
    | .pass | .untested | .undefined => none

/-- R118, step 2: the circuits no longer in the set, as findings. -/
def lampAbsent (cs : Vector CircuitResult 16) : List Finding :=
  allCircuits.filterMap fun c => match cs[c] with
    | .undefined => some (.lampUndefined c)
    | .pass | .low .. | .high .. | .untested => none

/-- R118, step 1: the LAMP entry of one passing circuit is removed. -/
def Store.removePassed (cs : Vector CircuitResult 16) (b : BayNo) (st : Store) (c : Fin 16) : Store :=
  if cs[c] = .pass then st.removeWhere b fun d => d.source == .lamp && d.code == c.val else st

/-- R118, R142: the merge of a complete test. The entries of passing circuits return their slots in ascending circuit number, an order R118
and R139 leave open (log 37). -/
def Store.mergeLamps (st : Store) (b : BayNo) (cs : Vector CircuitResult 16) : Store × Effect :=
  let removed := allCircuits.foldl (Store.removePassed cs b) st
  let e : Effect := { Effect.none with changed := removed.lists[b].length < st.lists[b].length }
  let r := removed.applyAll b (lampAbsent cs ++ lampFailures cs)
  Store.settleMark b .lamp (r.1, e.or r.2)

/-- R119: the merge of an INCOMPLETE test end with circuit results. -/
def Store.mergePartial (st : Store) (b : BayNo) (cs : Vector CircuitResult 16) : Store × Effect :=
  st.applyAll b (lampFailures cs)

/-- R142: a POST finding applied to an entry clears the POST mark. -/
def Store.applyPost (st : Store) (b : BayNo) (f : Finding) : Store × Effect :=
  let r := st.applyFinding b f
  if r.2.applied then Store.settleMark b .post r else r

/-- R138, R153: an entry as a reply shows it, its age and the rest of a deferral in minutes. -/
def Defect.shown (d : Defect) : DefectView where
  id := d.id
  source := d.source
  code := d.code
  action := d.action
  state := match d.state with
    | .deferred ms => .deferred (minutesLeft ms)
    | .opened => .opened
    | .acknowledged => .acknowledged
  present := d.present
  count := d.count
  severity := d.severity
  detail := d.detail
  age := ageMinutes d.age

/-! ## At the part -/

/-- R154: the writes that post a DEFECT notice: for a merge, a change of the list or of a mark, or a finding lost (R141). -/
def Effect.notable (e : Effect) : Bool := e.changed || e.lost || e.marked

/-- The notice of R154, the loss of eligibility of R149 and the report of R150, once, after the write. -/
def reportWrite (b : BayNo) (e : Effect) (notable : Bool) (s : State) : State :=
  let s := if notable then notifyBay .defect b s else s
  let s := if e.inhibits then leaveOnSet b s else s
  if e.blocks || e.lost then reportToClearance b s else s

/-- R140: a merge for a bay where no coach is bound is dropped. -/
def mergeInto (b : BayNo) (m : Store → Store × Effect) (s : State) : State :=
  if s.boundAt b then
    let r := m s.store
    reportWrite b r.2 r.2.notable { s with store := r.1 }
  else s

/-- R140, R154: a single POST finding; its notice is posted whenever it is applied or not stored. -/
def postFinding (b : BayNo) (f : Finding) (s : State) : State :=
  if s.boundAt b then
    let r := s.store.applyPost b f
    reportWrite b r.2 (r.2.applied || r.2.lost) { s with store := r.1 }
  else s

/-- R142, R154: a sense record that passes the heater-current checks clears the POST mark. -/
def clearPostMark (b : BayNo) (s : State) : State :=
  if s.boundAt b && s.store.marks[b].post then
    notifyBay .defect b { s with store := (s.store.clearMark b .post).1 }
  else s

/-- R151: a teardown at the store; the bay table takes the count of entries removed. -/
def tearDownStore (b : BayNo) (s : State) : State :=
  let n := s.store.lists[b].length
  let s := s.updStore fun st =>
    let st := st.removeWhere b fun _ => true
    { st with marks := st.marks.set b Marks.clear }
  notifyBay .defect b (s.updBay b fun r => { r with dropped := n })

/-- R137, last column, R152: after a DEPOT RESTART and its teardowns every slot is free, in ascending order, every mark CLEAR, the
starvation count 0 and the id counter 1. -/
def restartStore (s : State) : State := { s with store := Store.reset }

end Sys2Proof.Machine
end

