-- ==== Sys2Proof/Machine/Reader.lean ====
section
/-! DEFINITION. The fault reader (07): requests, the walk of the pages, read ends, the rule table's actions. -/

namespace Sys2Proof.Machine

/-- Changes the reader's state. -/
def State.updReader (s : State) (f : FaultReader → FaultReader) : State := { s with reader := f s.reader }

/-- Sets a bay's read in progress, none for IDLE. -/
def setReading (b : BayNo) (r : Option Reading) (s : State) : State :=
  s.updReader fun x => { x with reading := x.reading.set b r }

/-- Sets a bay's scan countdown. -/
def setScan (b : BayNo) (t : Option Nat) (s : State) : State :=
  s.updReader fun x => { x with scan := x.scan.set b t }

/-- R130: reloads the countdown with the scan period. -/
def reloadScan (b : BayNo) (s : State) : State := setScan b (some (minutesMs s.reader.period)) s

/-! ## Actions (R131) -/

/-- R131, step 1: an entry in use whose range holds the code. -/
def Rule.covers (r : Rule) (code : Nat) : Bool := r.low ≤ code && code ≤ r.high

/-- R131: the first entry in use that holds the code; else severity 3 gives BLOCK, and any other NOTE. -/
def FaultReader.actionOf (x : FaultReader) (g : Gathered) : Action :=
  match (x.rules.toList.filterMap id).find? (·.covers g.code) with
  | some r => r.action
  | none => if g.severity = 3 then .block else .note

/-! ## Records (R122, R126) -/

/-- R122: a record as the reader takes it; codes 0 and 65535 are dropped, a severity above 3 is taken as 3. -/
def takeRecord (r : FaultRecord) : Option Gathered :=
  if r.code = 0#16 ∨ r.code = 0xFFFF#16 then none
  else some ⟨r.code.toNat, min 3 r.severity.toNat, r.count.toNat⟩

/-- R126: the later figures of a code replace the earlier ones. -/
def gather (gs : List Gathered) (r : Gathered) : List Gathered :=
  if gs.any (·.code == r.code) then gs.map fun g => if g.code = r.code then r else g else gs ++ [r]

/-! ## Ends (R129) -/

/-- R129, step 1: COMPLETE and TRUNCATED merge the gathered records. -/
def ReadOutcome.merges : ReadOutcome → Bool
  | .complete | .truncated => true
  | .unstable | .failed _ => false

/-- R129: the end of a read. r holds what the read has gathered and counted. -/
def endRead (b : BayNo) (r : Reading) (o : ReadOutcome) (s : State) : State :=
  let s := if o.merges then
      mergeInto b (fun st => st.mergeFaults b (o = .complete) (r.gathered.map fun g => (g, s.reader.actionOf g))) s
    else s
  let wasSet := s.reader.readSince[b]
  let s := s.updReader fun x =>
    { x with
      last := x.last.set b (some ⟨o, r.pageZero, r.transactions, 0⟩)
      reading := x.reading.set b none
      readSince := if o.merges then x.readSince.set b true else x.readSince }
  let s := reloadScan b s
  let s := if o ≠ .complete ∨ wasSet = false then notifyBay .defect b s else s
  pendingCompletion b s

/-- A read that ends before a page is taken (R124). -/
def Reading.start : Reading := ⟨0, none, 0, [], 0⟩

/-- R128: a read in progress ends FAILED; a waiting FAULT PAGE is withdrawn, one in flight discarded. Nothing for an IDLE bay. -/
def failRead (b : BayNo) (reason : ReadReason) (s : State) : State :=
  match s.reader.reading[b] with
  | none => s
  | some r => endRead b r (.failed reason) (withdraw (Job.isPageFor b) s)

/-- R122, R175: asks for a page; on a SILENT post the request fails at once. -/
def requestPage (b : BayNo) (p : Nat) (s : State) : State :=
  if s.silent b then failRead b .busFailed s else placeJob (.faultPage b p) s

/-! ## Starting a read (R123, R124) -/

/-- R124: the first condition that fails. -/
def State.unreadable (s : State) (b : BayNo) : Option ReadReason :=
  if !(s.bay b).plug then some .noPlug else if s.silent b then some .postSilent else none

/-- R124. -/
def startRead (b : BayNo) (s : State) : State :=
  match s.unreadable b with
  | some reason => endRead b Reading.start (.failed reason) s
  | none => requestPage b 0 (setReading b (some Reading.start) s)

/-- R123: the answer to a read request. -/
inductive ReadAnswer where
  | ok | merged | wrongState
deriving DecidableEq, Repr

/-- R123. -/
def requestFaultReading (b : BayNo) (s : State) : State × ReadAnswer :=
  if !s.boundAt b then (s, .wrongState)
  else if s.isReading b then (s, .merged)
  else (startRead b s, .ok)

/-! ## Pages (R125 to R128) -/

/-- R127: the version check of page p. -/
def Reading.versionAgrees (r : Reading) (version : Nat) : Bool :=
  match r.page, r.pageZero with
  | 0, _ => true
  | _ + 1, some (v, _) => v == version
  | _ + 1, none => false

/-- R125, R126: the records are gathered and the more flag decides what follows. -/
def gatherPage (b : BayNo) (r : Reading) (version : Nat) (records : List Gathered) (more : Bool) (s : State) : State :=
  let r := { r with
    gathered := records.foldl gather r.gathered
    pageZero := if r.page = 0 then some (version, records.length) else r.pageZero }
  if !more then endRead b r .complete s
  else if 7 ≤ r.page then endRead b r .truncated s
  else requestPage b (r.page + 1) (setReading b (some { r with page := r.page + 1 }) s)

/-- R127: a version that differs restarts the attempt from page 0, three times at most. -/
def restartRead (b : BayNo) (r : Reading) (s : State) : State :=
  if r.restarts < 3 then
    requestPage b 0 (setReading b (some { r with page := 0, gathered := [], restarts := r.restarts + 1 }) s)
  else endRead b r .unstable s

/-- A FAULT PAGE response with post status OK. The transaction is counted (log 18). -/
def takePage (b : BayNo) (version : Byte) (records : List FaultRecord) (more : Bool) (s : State) : State :=
  match s.reader.reading[b] with
  | none => s
  | some r =>
    let r := { r with transactions := r.transactions + 1 }
    if r.versionAgrees version.toNat then gatherPage b r version.toNat (records.filterMap takeRecord) more s
    else restartRead b r s

/-- R128: a FAULT PAGE response with another post status. -/
def refusePage (b : BayNo) (reason : ReadReason) (s : State) : State :=
  match s.reader.reading[b] with
  | none => s
  | some r => failRead b reason (setReading b (some { r with transactions := r.transactions + 1 }) s)

/-- R135: a teardown at the reader. -/
def tearDownReader (b : BayNo) (s : State) : State :=
  (withdraw (Job.isPageFor b) s).updReader fun x =>
    { x with
      reading := x.reading.set b none
      scan := x.scan.set b none
      readSince := x.readSince.set b false
      last := x.last.set b none }

/-- R136: a last read as a reply shows it, its age in minutes. -/
def LastRead.shown (x : LastRead) : LastRead := { x with age := ageMinutes x.age }

/-- R136: what the masters see of a bay's read record. -/
def State.readView (s : State) (b : BayNo) : ReadView :=
  ⟨s.reader.reading[b].map fun r => (r.page, r.restarts), s.reader.last[b].map LastRead.shown, s.reader.scan[b].map secondsLeft⟩

end Sys2Proof.Machine
end

