-- ==== Sys2Proof/Machine/Lamp.lean ====
section
/-! DEFINITION. The lamp test unit (06): the queue, the two engines, circuit steps, aborts, test ends. -/

namespace Sys2Proof.Machine

/-- Changes the lamp unit's state. -/
def State.updLamp (s : State) (f : LampUnit → LampUnit) : State := { s with lamp := f s.lamp }

/-- Puts an engine into a state. -/
def setEngine (e : EngineNo) (x : Engine) (s : State) : State :=
  s.updLamp fun u => { u with engines := u.engines.set e x }

/-- The bay an engine holds, running or releasing (R103). -/
def Engine.bay : Engine → Option BayNo
  | .free => none
  | .running t => some t.bay
  | .releasing b => some b

/-- R117: what the masters see of an engine. -/
def Engine.view : Engine → EngineView
  | .free => .free
  | .running t => .running t.bay
  | .releasing b => .releasing b

/-- R117: a lamp result as a reply shows it, its age in minutes. -/
def LampResult.shown (r : LampResult) : LampResult := { r with age := ageMinutes r.age }

/-- The bay an engine runs a test on. -/
def Engine.testing : Engine → Option BayNo
  | .running t => some t.bay
  | .free | .releasing _ => none

/-- R103: under test, from the start of a test to the end of its release. -/
def State.underTest (s : State) (b : BayNo) : Bool := s.lamp.engines.toList.any fun e => e.bay == some b

/-- The engine running a test on the bay. -/
def State.engineTesting (s : State) (b : BayNo) : Option EngineNo :=
  (List.finRange 2).find? fun e => s.lamp.engines[e].testing == some b

/-! ## Results and test ends -/

/-- Writes a bay's lamp result, with age 0 (R116). -/
def writeResult (b : BayNo) (o : LampOutcome) (cs : Option (Vector CircuitResult 16)) (s : State) : State :=
  s.updLamp fun u => { u with results := u.results.set b (some ⟨o, 0, cs⟩) }

/-- R120: the LAMP notice, and the end handed to the clearance unit. -/
def endTest (b : BayNo) (s : State) : State := pendingCompletion b (notifyBay .lamp b s)

/-- R112: the release ends; the bay is under test no more and the engine is FREE. The takes of R106 follow at the caller. -/
def endRelease (e : EngineNo) (s : State) : State := setEngine e .free s

/-- R112, R175: the engine becomes RELEASING and asks for LAMP END; on a SILENT post the request fails at once, which ends the release. -/
def startRelease (e : EngineNo) (b : BayNo) (s : State) : State :=
  if s.silent b then endRelease e s else placeJob (.lampEnd e b) (setEngine e (.releasing b) s)

/-- R113, step 1: a waiting step is withdrawn and the result of one in flight discarded; the settle timer goes with the test. -/
def stopSteps (e : EngineNo) (s : State) : State := withdraw (Job.isStepOf e) s

/-- R113: an abort of the test running on the engine. With POST_SILENT the engine becomes FREE at once, as startRelease does on a
SILENT post. -/
def abortTest (e : EngineNo) (reason : LampReason) (s : State) : State :=
  match s.lamp.engines[e] with
  | .free | .releasing _ => s
  | .running t =>
    let s := stopSteps e s
    let s := setEngine e (.releasing t.bay) s
    let s := writeResult t.bay (.incomplete reason) (some t.results) s
    let s := mergeInto t.bay (fun st => st.mergePartial t.bay t.results) s
    let s := endTest t.bay s
    if reason = .postSilent then endRelease e s else startRelease e t.bay s

/-- R110: a step that fails. -/
def stepReason : PostStatus → LampReason
  | .ok => .busFailed
  | .noCoach => .noCoach
  | .harnessFault => .harnessFault

/-! ## Circuit steps (R109) -/

/-- R109, step 1, R175: asks for the LAMP STEP of the circuit the engine has reached. -/
def requestStep (e : EngineNo) (b : BayNo) (c : Fin 16) (s : State) : State :=
  if s.silent b then abortTest e .busFailed s else placeJob (.lampStep e b c) s

/-- R109, step 3, R175: asks for the LAMP READ. -/
def requestRead (e : EngineNo) (b : BayNo) (c : Fin 16) (s : State) : State :=
  if s.silent b then abortTest e .busFailed s else placeJob (.lampRead e b c) s

/-- R109: the current judged against the window. -/
def judgeCurrent (w : Circuit) (i : Nat) : CircuitResult :=
  if i < w.minimum then .low i w.action else if w.maximum < i then .high i w.action else .pass

/-- The defined circuits of a lamp set, ascending (R24, R109). -/
def definedCircuits (l : LampSet) : List (Fin 16) := allCircuits.filter fun c => l[c].isSome

/-- The next defined circuit above c. -/
def nextCircuit (l : LampSet) (c : Fin 16) : Option (Fin 16) := (definedCircuits l).find? (c < ·)

/-- R111: whether a circuit with this action failed. -/
def failedWith (cs : Vector CircuitResult 16) (a : LampAction) : Bool :=
  cs.toList.any fun r => match r with
    | .low _ x | .high _ x => x == a
    | .pass | .untested | .undefined => false

/-- R111. -/
def completeOutcome (cs : Vector CircuitResult 16) : LampOutcome :=
  if failedWith cs .block then .failed else if failedWith cs .note then .passedWithNotes else .passed

/-- R111, R112, R120: the end of a complete test. -/
def completeTest (e : EngineNo) (t : RunningTest) (s : State) : State :=
  let s := setEngine e (.releasing t.bay) s
  let s := writeResult t.bay (completeOutcome t.results) (some t.results) s
  let s := mergeInto t.bay (fun st => st.mergeLamps t.bay t.results) s
  let s := endTest t.bay s
  startRelease e t.bay s

/-! ## Taking a test (R106 to R108) -/

/-- R107: the first condition that fails. -/
def State.untestable (s : State) (b : BayNo) : Option LampReason :=
  match s.classOf b with
  | none => some .noClass
  | some c =>
    if (definedCircuits c.lamps).isEmpty then some .noLampSet
    else if !(s.bay b).plug then some .noPlug
    else if s.silent b then some .postSilent
    else none

/-- R108: UNTESTED for the defined circuits of the copy, UNDEFINED for the others. -/
def freshResults (l : LampSet) : Vector CircuitResult 16 := l.map fun c => if c.isSome then .untested else .undefined

/-- R108: the engine starts the test on its copy of the class's lamp set and settle time. -/
def startTest (e : EngineNo) (b : BayNo) (c : ClassRecord) (s : State) : State :=
  match (definedCircuits c.lamps).head? with
  | none => s
  | some first =>
    let s := setEngine e (.running ⟨b, c.lamps, c.settle, first, freshResults c.lamps, none⟩) s
    let s := leaveOnSet b s
    requestStep e b first s

/-- R107, R108: an engine takes an entry that has left the queue. -/
def takeTest (e : EngineNo) (b : BayNo) (s : State) : State :=
  match s.untestable b with
  | some reason => endTest b (writeResult b (.incomplete reason) none s)
  | none =>
    match s.classOf b with
    | none => s
    | some c => startTest e b c s

/-- R106: the FREE engine that takes, 0 before 1. -/
def State.freeEngine (s : State) : Option EngineNo := (List.finRange 2).find? fun e => s.lamp.engines[e] == .free

/-- R106: the first entry whose bay is not under test. -/
def State.takeable (s : State) : Option QueueEntry := s.lamp.queue.find? fun q => !s.underTest q.bay

/-- R106: takes, at most n of them. -/
def takeTests : Nat → State → State
  | 0, s => s
  | n + 1, s =>
    match s.freeEngine, s.takeable with
    | some e, some q =>
      takeTests n (takeTest e q.bay (s.updLamp fun u => { u with queue := u.queue.filter (·.bay != q.bay) }))
    | _, _ => s

/-- R106: every take the event brings. -/
def takeAll (s : State) : State := takeTests s.lamp.queue.length s

/-! ## Requests (R104, R105) -/

/-- The most entries the queue holds (R104). -/
def queueRoom : Nat := 8

/-- R105: behind the last URGENT entry. -/
def insertUrgent (b : BayNo) (q : List QueueEntry) : List QueueEntry :=
  q.filter (·.level == .urgent) ++ ⟨b, .urgent⟩ :: q.filter (·.level == .routine)

/-- R105: a promoted entry. -/
def promote (b : BayNo) (q : List QueueEntry) : List QueueEntry := insertUrgent b (q.filter (·.bay != b))

/-- R104: the answer to a lamp test request. -/
inductive RequestAnswer where
  | ok | merged | queueFull | wrongState
deriving DecidableEq, Repr

/-- R104. -/
def requestTest (b : BayNo) (lv : Level) (s : State) : State × RequestAnswer :=
  if !s.boundAt b then (s, .wrongState)
  else if s.testActive b then
    if lv = .urgent ∧ s.lamp.queue.contains ⟨b, .routine⟩ then
      (s.updLamp fun u => { u with queue := promote b u.queue }, .merged)
    else (s, .merged)
  else if queueRoom ≤ s.lamp.queue.length then (s, .queueFull)
  else
    let s := s.updLamp fun u =>
      { u with queue := match lv with
        | .urgent => insertUrgent b u.queue
        | .routine => u.queue ++ [⟨b, .routine⟩] }
    (takeAll s, .ok)

/-- R104, R11: the ROUTINE request of a binding; when the queue is full, a LAMP notice is posted. -/
def requestAutoTest (b : BayNo) (s : State) : State :=
  let r := requestTest b .routine s
  if r.2 = .queueFull then notifyBay .lamp b r.1 else r.1

/-! ## Results of transactions, handed to the engine -/

/-- R109, R110: a LAMP STEP response. -/
def takeStepResponse (e : EngineNo) (st : PostStatus) (s : State) : State :=
  match s.lamp.engines[e] with
  | .free | .releasing _ => s
  | .running t =>
    if st = .ok then setEngine e (.running { t with settling := some t.settle }) s
    else takeAll (abortTest e (stepReason st) s)

/-- R109, R110: a LAMP READ response with OK; a current above 4000 is taken as 4000. -/
def takeReading (e : EngineNo) (t : RunningTest) (i : Nat) (s : State) : State :=
  match t.lamps[t.circuit] with
  | none => s
  | some w =>
    let t := { t with results := t.results.set t.circuit (judgeCurrent w (min 4000 i)), settling := none }
    match nextCircuit t.lamps t.circuit with
    | some c => requestStep e t.bay c (setEngine e (.running { t with circuit := c }) s)
    | none => completeTest e t s

/-- R109, R110. -/
def takeReadResponse (e : EngineNo) (st : PostStatus) (i : Nat) (s : State) : State :=
  match s.lamp.engines[e] with
  | .free | .releasing _ => s
  | .running t => takeAll (if st = .ok then takeReading e t i s else abortTest e (stepReason st) s)

/-- R110: a failed LAMP STEP or LAMP READ. -/
def failStep (e : EngineNo) (s : State) : State := takeAll (abortTest e .busFailed s)

/-- R112: the LAMP END is answered, or has failed. -/
def finishRelease (e : EngineNo) (s : State) : State :=
  match s.lamp.engines[e] with
  | .free | .running _ => s
  | .releasing _ => takeAll (endRelease e s)

/-! ## Events of other blocks -/

/-- R113: a test running on the bay is aborted; nothing when none runs. -/
def abortTestOn (b : BayNo) (reason : LampReason) (s : State) : State :=
  match s.engineTesting b with
  | none => s
  | some e => takeAll (abortTest e reason s)

/-- R114: a teardown at the lamp unit. The takes of R106 follow at the caller. -/
def tearDownLamp (b : BayNo) (s : State) : State :=
  let queued := s.lamp.queue.any (·.bay == b)
  let clear := fun (s : State) => s.updLamp fun u =>
    { u with queue := u.queue.filter (·.bay != b), results := u.results.set b none }
  match s.engineTesting b with
  | some e => endTest b (clear (startRelease e b (stopSteps e s)))
  | none => if queued then endTest b (clear s) else clear s

end Sys2Proof.Machine
end

