-- ==== Sys2Proof/Machine/Planner.lean ====
section
/-! DEFINITION. The heat planner (04): the planning computation stage by stage, passes, causes, flags and notices. -/

namespace Sys2Proof.Machine

/-- Changes the planner's state. -/
def State.updPlanner (s : State) (f : Planner → Planner) : State := { s with planner := f s.planner }

/-! ## The planner word (R66) -/

/-- R66: the nearer limit of -2048..2047. -/
def planWord (x : Int) : Int := clampInt (-2048) 2047 x

/-- R66: the cause raised when the exact value lies outside the word. -/
def planSat (x : Int) : CauseSet := causeIf (planWord x != x) causeSat

/-- The quotient rounded up. -/
def ceilDiv (a b : Int) : Int := -(-a / b)

/-! ## The stages -/

/-- R67: stage 1; a need of 4 or less is 0. -/
def stageNeed (target cabin : Int) : Int := if target - cabin ≤ 4 then 0 else target - cabin

/-- R68: stage 2; the argument is the minutes ahead with a departure in force, none for frost guard. -/
def stageRounds (ahead : Option Nat) (roundLength : Nat) : Int :=
  match ahead with
  | some m => max 1 (m / roundLength)
  | none => 1

/-- R70: N / 65536 for a magnitude N, to the nearest, halves to the even one. -/
def roundHalfEven (n : Nat) : Nat :=
  let q := n / 65536
  let r := n % 65536
  if 32768 < r || (r == 32768 && q % 2 == 1) then q + 1 else q

/-- R70: the rounding of N / 65536, that of -N the negative of that of N. -/
def roundLoss (mode : Rounding) (n : Int) : Int :=
  let q : Nat := match mode with
    | .nearest => roundHalfEven n.natAbs
    | .towardZero => n.natAbs / 65536
  if n < 0 then -(q : Int) else q

/-- R70: stage 4 before saturation. -/
def stageLoss (mode : Rounding) (roundLength loss : Nat) (cabin outdoor : Int) : Int :=
  roundLoss mode ((roundLength : Int) * loss * (cabin - outdoor))

/-- R72: stage 6 before saturation. -/
def stageGain (roundLength gain : Nat) : Int := ((roundLength * gain / 16 : Nat) : Int)

/-- The inputs of the computation (R63). -/
structure PlanInputs where
  cabin : Int
  outdoor : Int
  target : Int
  /-- the minutes ahead of the departure in force; none with basis FROST -/
  ahead : Option Nat
  loss : Nat
  gain : Nat
  roundLength : Nat
  rounding : Rounding
  tolerance : Int
deriving DecidableEq, Repr

/-- R66 to R74: the turns and the causes of the eight stages. An exact n of stage 7 above 2047 raises CLAMP alone, not SAT (log 41). -/
def computePlan (x : PlanInputs) : PlanResult :=
  let need := planWord (stageNeed x.target x.cabin)
  let rounds := stageRounds x.ahead x.roundLength
  let rise := planWord (ceilDiv need rounds)
  let lossExact := stageLoss x.rounding x.roundLength x.loss x.cabin x.outdoor
  let loss := planWord lossExact
  let heat := max 0 (planWord (rise + loss))
  let gainExact := stageGain x.roundLength x.gain
  let gain := planWord gainExact
  let sat := planSat (stageNeed x.target x.cabin) ||| planSat (ceilDiv need rounds) ||| planSat lossExact
    ||| planSat (rise + loss) ||| planSat gainExact
  if gain = 0 then ⟨0, sat ||| causeNoClass⟩
  else
    let wanted := ceilDiv (16 * heat) gain
    let turns := min 16 wanted.toNat
    let causes := sat ||| causeIf (16 < wanted.toNat) causeClamp
    match x.ahead with
    | none => ⟨turns, causes⟩
    | some _ =>
      let netExact := gain * turns / 16 - loss
      let net := planWord netExact
      let projection := clampInt (-960) 1600 (x.cabin + rounds * net)
      ⟨turns, causes ||| planSat netExact ||| causeIf (projection < x.target - x.tolerance) causeLate⟩

/-! ## Passes -/

/-- R57: the round length in minutes of a slot length in seconds. -/
def roundMinutes (slot : Nat) : Nat := slot * 16 / 60

/-- R58: To is stale while never-set or older than 60 minutes. -/
def Planner.outdoorStale (p : Planner) : Bool :=
  match p.outdoorAge with
  | some a => 60 < ageMinutes a
  | none => true

/-- R63: the departure in force at a bay. -/
def State.inForce (s : State) (b : BayNo) : Option Departure :=
  (s.book.boundTo b).filter fun d => d.state == .cleared || decide (d.ahead s.clock.minute ≤ d.lead)

/-- R64: the cabin temperature is absent, or older than twice the slot length of the round planned. -/
def State.cabinStale (s : State) (b : BayNo) : Bool :=
  match (s.bay b).cabin with
  | some c => 2 * s.planner.inForce < ageSeconds c.age
  | none => true

/-- R63: the inputs of a pass, given the cabin and the class data. -/
def State.planInputs (s : State) (b : BayNo) (cabin : Cabin) (c : ClassRecord) : PlanInputs where
  cabin := cabin.temperature
  outdoor := s.planner.outdoor
  target := match s.inForce b with
    | some d => s.targetOf d
    | none => s.planner.frostFloor
  ahead := (s.inForce b).map (·.ahead s.clock.minute)
  loss := c.loss
  gain := c.gain
  roundLength := roundMinutes s.planner.inForce
  rounding := s.planner.rounding
  tolerance := s.planner.tolerance

/-- R59, R63 to R65: the result of a bay's pass, before any CAPPED report. -/
def State.passOf (s : State) (b : BayNo) : PlanResult :=
  let stale := causeIf (s.cabinStale b || s.planner.outdoorStale) causeStale
  match s.classOf b, (s.bay b).cabin with
  | none, _ => ⟨0, stale ||| causeNoClass⟩
  | some _, none => ⟨0, stale⟩
  | some c, some cabin =>
    let r := computePlan (s.planInputs b cabin c)
    ⟨r.turns, stale ||| r.causes⟩

/-- R62: the conditions for placing a bay's turns. -/
def State.placeable (s : State) (b : BayNo) : Bool :=
  (s.bay b).plug && !s.silent b && !(s.bay b).hold && !s.inhibited b && (s.classOf b).isSome && !s.seq.feedAlarm

/-- R62: what the planner hands the sequencer at the end of a bay's pass that gave these turns. -/
def State.handedOf (s : State) (b : BayNo) (turns : Nat) : Handed :=
  ⟨b, if s.placeable b then turns else 0, (s.inForce b).map fun d => s.book.position d.ref⟩

/-- Writes a bay's planning result (R59). -/
def setPlan (b : BayNo) (r : PlanResult) (s : State) : State :=
  s.updPlanner fun p => { p with results := p.results.set b r }

/-- R77: the PLANNER notice to a link whose mask shares a cause with the pass. -/
def notifyPlanner (l : Link) (b : BayNo) (causes : CauseSet) (s : State) : State :=
  if causes &&& (s.port l).plannerMask != 0#6 then postTo l .planner (BaySet.single b) s else s

/-- R76, R77: the end of a pass: the causes join the sticky flags and the notices are posted. -/
def endPass (b : BayNo) (s : State) : State :=
  let causes := s.planner.results[b].causes
  let s := s.updPlanner fun p => { p with sticky := p.sticky ||| causes }
  notifyPlanner .workshop b causes (notifyPlanner .dispatch b causes s)

/-- R75: CAPPED joins the causes of a bay placed fewer entries than its count. -/
def raiseCapped (b : BayNo) (s : State) : State :=
  s.updPlanner fun p =>
    { p with results := modifyAt p.results b fun r => { r with causes := r.causes ||| causeCapped } }

/-- R61, R86: the late pass of a bay at its binding. -/
def latePass (b : BayNo) (s : State) : State :=
  let r := s.passOf b
  let count := (s.handedOf b r.turns).count
  let capped := s.seq.lateCount b count < count
  let s := setPlan b r s
  let s := s.updSeq (·.lateAppend b count)
  let s := if capped then raiseCapped b s else s
  endPass b s

/-- R60: the bays a full pass passes. -/
def State.passedBays (s : State) : List BayNo :=
  allBays.filter fun b => s.fitted b && ((s.bay b).state == .bound || (s.bay b).state == .cleared)

/-- R60, R62, R75, R85: the full pass of a round boundary, the layout and the CAPPED reports. -/
def fullPass (s : State) : State :=
  let bays := s.passedBays
  let results := bays.map fun b => (b, s.passOf b)
  let handed := results.map fun r => s.handedOf r.1 r.2.turns
  let s := s.updPlanner fun p => { p with results := Vector.replicate 24 PlanResult.zero }
  let s := results.foldl (fun s r => setPlan r.1 r.2 s) s
  let s := s.updSeq (·.layOut handed)
  let s := (handed.filter fun h => s.seq.plannedOf h.bay < h.count).foldl (fun s h => raiseCapped h.bay s) s
  bays.foldl (fun s b => endPass b s) s

/-- R78: DEPOT RESTART sets every result to turns 0 and no causes, and keeps the rest. -/
def restartPlanner (s : State) : State :=
  s.updPlanner fun p => { p with results := Vector.replicate 24 PlanResult.zero }

end Sys2Proof.Machine
end

