-- ==== Sys2Proof/Machine/Walk.lean ====
section
/-! DEFINITION. The slot walk, round boundaries and heater current checks of the heating sequencer (05). -/

namespace Sys2Proof.Machine

/-! ## Eligibility (R87) -/

/-- R87. -/
def State.eligible (s : State) (b : BayNo) : Bool :=
  ((s.bay b).state == .bound || (s.bay b).state == .cleared) && (s.bay b).plug && !s.silent b && !(s.bay b).hold
    && !s.inhibited b && !s.underTest b && (s.classOf b).isSome && !s.seq.feedAlarm

/-- R31: the units of the bay's class; 0 with no class data, a bay that is not eligible. -/
def State.unitsOf (s : State) (b : BayNo) : Nat :=
  match s.classOf b with
  | some c => c.units
  | none => 0

/-! ## The walk (R88, R89) -/

/-- What a walk has built so far: the new on-set in the order of joining, the stuck units still counted, the bays whose stuck units it
ended, and whether it has stopped. -/
structure WalkState where
  joined : List Member
  stuck : Vector (Option UnitsOn) 24
  ended : List BayNo
  stopped : Bool
deriving DecidableEq, Repr

/-- R89: units fit the remaining total and the remaining capacity of the feeder, these stuck units counted. -/
def WalkState.fits (w : WalkState) (q : Sequencer) (stuck : Vector (Option UnitsOn) 24) (units : Nat) (f : Fin 4) : Bool :=
  memberUnits w.joined + fixedUnits stuck + units ≤ q.total
    && memberUnitsOn f w.joined + fixedUnitsOn f stuck + units ≤ q.feeders[f]

/-- R88, step 3: the walk at one entry. -/
def walkEntry (s : State) (w : WalkState) (i : Nat) (e : Entry) : WalkState × Entry :=
  if w.stopped || e.status != .waiting then (w, e)
  else if s.seq.total ≤ memberUnits w.joined + fixedUnits w.stuck then ({ w with stopped := true }, e)
  else if !s.eligible e.bay then (w, { e with status := .missed })
  else if w.joined.any (·.bay == e.bay) then ({ w with stopped := true }, e)
  else
    let others := w.stuck.set e.bay none
    let f := (s.bay e.bay).feeder
    if w.fits s.seq others (s.unitsOf e.bay) f then
      ({ w with
          joined := w.joined ++ [⟨e.bay, s.unitsOf e.bay, f, some i⟩]
          stuck := others
          ended := if w.stuck[e.bay].isSome then w.ended ++ [e.bay] else w.ended },
        { e with status := .taken })
    else (w, e)

/-- R88, steps 3 and 4: the walk from position i on. -/
def walkFrom (s : State) (w : WalkState) (i : Nat) : List Entry → WalkState × List Entry
  | [] => (w, [])
  | e :: es =>
    let r := walkEntry s w i e
    let q := walkFrom s r.1 (i + 1) es
    (q.1, r.2 :: q.2)

/-- R88, step 5: the contactor changes from the old on-set to the new. -/
def commandChanges (old new : List Member) (s : State) : State :=
  let s := (old.filter fun m => !new.any (·.bay == m.bay)).foldl (fun s m => commandHeat m.bay false s) s
  (new.filter fun m => !old.any (·.bay == m.bay)).foldl (fun s m => commandHeat m.bay true s) s

/-- R88: the slot walk. Bays whose stuck units ended by joining report the end of the current (R99). -/
def slotWalk (s : State) : State :=
  let old := s.seq.onSet
  let s := s.updSeq fun q => { q with held := Vector.replicate 24 none, onSet := [] }
  if s.seq.feedAlarm || s.seq.stuckExceed then commandChanges old [] s
  else
    let r := walkFrom s ⟨[], s.seq.stuck, [], false⟩ 0 s.seq.chain
    let s := s.updSeq fun q => { q with onSet := r.1.joined, stuck := r.1.stuck, chain := r.2 }
    let s := commandChanges old r.1.joined s
    r.1.ended.foldl (fun s b => postFinding b .currentEnded s) s

/-! ## Round boundaries (R84) -/

/-- R84, steps 1 and 2: the old round is closed and the planned entries are cleared. -/
def closeRound (s : State) : State :=
  let missed : List Entry := s.seq.chain.map fun e => if e.status = .waiting then { e with status := .missed } else e
  let count := fun (b : BayNo) => missed.countP fun e => e.status == .missed && e.bay == b
  s.updSeq fun q =>
    { q with
      missed := Vector.ofFn fun b => if s.fitted b then count b else q.missed[b]
      chain := (missed.filter (·.pinned)).map fun e => { e with status := .waiting } }

/-- R57, R79: the slot length in force takes the setting; slot 0 begins with the timer loaded. -/
def beginRound (s : State) : State :=
  let s := s.updPlanner fun p => { p with inForce := p.slotLength }
  s.updSeq fun q => { q with index := 0, timer := secondsMs s.planner.inForce }

/-- R84. -/
def roundBoundary (s : State) : State := slotWalk (fullPass (beginRound (closeRound s)))

/-- R79: the slot timer expires. -/
def nextSlot (s : State) : State :=
  if s.seq.index < 15 then
    slotWalk (s.updSeq fun q => { q with index := q.index + 1, timer := secondsMs s.planner.inForce })
  else roundBoundary s

/-! ## Heater current checks (R97 to R99) -/

/-- R31, R98: the units a stuck heater is counted with; 8 with no class data. -/
def State.stuckUnitsOf (s : State) (b : BayNo) : Nat :=
  match s.classOf b with
  | some c => c.units
  | none => 8

/-- R99: a bay's stuck units end at a sense record. -/
def endStuck (b : BayNo) (s : State) : State :=
  postFinding b .currentEnded (s.updSeq fun q => { q with stuck := q.stuck.set b none })

/-- R98: HEATER_STUCK. -/
def raiseStuck (b : BayNo) (s : State) : State :=
  let s := s.updSeq fun q => { q with stuck := q.stuck.set b (some ⟨s.stuckUnitsOf b, (s.bay b).feeder⟩) }
  postFinding b .stuck (shed s)

/-- R97: HEATER_NO_CURRENT. -/
def raiseNoCurrent (b : BayNo) (s : State) : State := leaveOnSet b (postFinding b .noCurrent s)

/-- R97 to R99, R142: a sense record's heater current against the commanded state. Whether stuck units stand is judged as the record
finds them (log 19). -/
def checkCurrent (b : BayNo) (present : Bool) (s : State) : State :=
  let on := s.seq.commanded[b].on
  let stuck := s.seq.stuck[b].isSome
  let settled := s.commandSettled b
  if present then
    if !on && settled && !stuck then raiseStuck b s
    else if on && settled then clearPostMark b s
    else s
  else
    let s := if stuck then endStuck b s else s
    if on && settled then raiseNoCurrent b s
    else if !on && settled && !stuck then clearPostMark b s
    else s

/-- R99, R100, R16: CLOSE BAY ends the bay's stuck units, with no report, and removes its pins. -/
def closeHeating (b : BayNo) (s : State) : State :=
  s.updSeq fun q => { q.removePins b with stuck := q.stuck.set b none }

/-- R102: what a DEPOT RESTART does at the sequencer after the teardowns. -/
def restartHeating (s : State) : State :=
  s.updSeq fun q =>
    { q with
      chain := []
      onSet := []
      commanded := Vector.replicate 24 ⟨false, s.now⟩
      missed := Vector.replicate 24 0 }

/-- R94: the feed alarm line is asserted. -/
def assertAlarm (s : State) : State := shedAll (s.updSeq fun q => { q with feedAlarm := true })

end Sys2Proof.Machine
end

