-- ==== Sys2Proof/Machine/Bays.lean ====
section
/-! DEFINITION. The bay table (01): identification and binding, teardown and exit, sense records and occupancy. -/

namespace Sys2Proof.Machine

/-! ## Timers -/

/-- R9: the ident retry time. -/
def retryTime : Nat := 30000

/-- R4: the sense countdown. -/
def senseTime : Nat := 5000

/-- Starts a bay's ident retry timer (R10, R12). -/
def startRetry (b : BayNo) (s : State) : State := s.updBay b fun r => { r with retry := some retryTime }

/-- Stops a bay's ident retry timer (R9). -/
def stopRetry (b : BayNo) (s : State) : State := s.updBay b fun r => { r with retry := none }

/-! ## Sense and ident requests -/

/-- R4: a SENSE request, unless the bay is CLOSED, its post SILENT, or one is outstanding. -/
def requestSense (b : BayNo) (s : State) : State :=
  if (s.bay b).state = .closed ∨ s.silent b ∨ s.outstanding (Job.isSenseFor b) then s else placeJob (.sense b) s

/-- R4: at the restoration of the post, a SENSE request and a reload of the countdown; nothing for a CLOSED bay. -/
def restoreSense (b : BayNo) (s : State) : State :=
  if (s.bay b).state = .closed then s
  else requestSense b (s.updBay b fun r => { r with sense := some senseTime })

/-- R9: the conditions of an ident request. -/
def Bay.wantsIdent (r : Bay) : Bool :=
  r.plug && (r.state == .arrived || (r.state == .bound && r.unconfirmed))

/-- R9, R10, R12, R175: an ident request; on a SILENT post it fails at once, and the retry timer is started as for a failed ident. -/
def requestIdent (b : BayNo) (s : State) : State :=
  if !(s.bay b).wantsIdent || s.outstanding (Job.isIdentFor b) then s
  else if s.silent b then startRetry b s
  else placeJob (.ident b) s

/-! ## Teardown (R20) -/

/-- R20: the bay table's own part. -/
def clearCoach (b : BayNo) (s : State) : State :=
  (withdrawIdent b s).updBay b fun r =>
    { r with coach := none, cls := none, cabin := none, cabinAtUnplug := none, unconfirmed := false, retry := none }

/-- R20: each owner's part, then the bay table's. The takes of R106 follow at the caller. HEAT and SIGNAL requests are not withdrawn: one that
waits takes the value OFF or RED, and one in flight keeps its result (log 42). -/
def tearDown (b : BayNo) (s : State) : State :=
  let s := tearDownHeating b s
  let s := tearDownStore b s
  let s := tearDownLamp b s
  let s := tearDownReader b s
  let s := setSignal b .red s
  clearCoach b s

/-! ## Binding (R11) -/

/-- R25: a class number as the bay record takes it; none outside 0..15. -/
def classNumber (n : Byte) : Option (Fin 16) := if h : n.toNat < 16 then some ⟨n.toNat, h⟩ else none

/-- R11: the class asks for a lamp test at a binding. -/
def State.autoTests (s : State) (b : BayNo) : Bool :=
  match s.classOf b with
  | some c => c.autoTest
  | none => false

/-- R11, R130: the read and the scan countdown of a binding. -/
def startScanning (b : BayNo) (s : State) : State := (requestFaultReading b (reloadScan b s)).1

/-- R11: the bay table's own part of a binding. -/
def bindBay (b : BayNo) (coach : Nat) (cls : Option (Fin 16)) (s : State) : State :=
  let s := s.updBay b fun r => { r with coach := some coach, cls := cls, unconfirmed := false, retry := none }
  setConflict b false (setBayState b .bound s)

/-- R11: a binding, handed on to the departure book, the planner, the lamp unit and the fault reader. -/
def bindCoach (b : BayNo) (coach : Nat) (cls : Option (Fin 16)) (s : State) : State :=
  let s := bindBay b coach cls s
  let s := bindFirst b s
  let s := latePass b s
  let s := if s.autoTests b then requestAutoTest b s else s
  startScanning b s

/-! ## Ident results (R10, R12) -/

/-- An ident result: a coach id and class number, or no coach (NO_COACH, HARNESS_FAULT, id 0 or 65535, or a failed transaction). -/
inductive IdentResult where
  | coach (id : Nat) (cls : Option (Fin 16))
  | noCoach
deriving DecidableEq, Repr

/-- The result of a good IDENT response with OK (Identification and binding, 01). -/
def identOf (id : Half) (cls : Byte) : IdentResult :=
  if id = 0#16 ∨ id = 0xFFFF#16 then .noCoach else .coach id.toNat (classNumber cls)

/-- R10: a result taken in ARRIVED. -/
def identArrived (b : BayNo) (x : IdentResult) (s : State) : State :=
  match x with
  | .noCoach => startRetry b s
  | .coach id cls =>
    match s.bayOfCoach id with
    | none => bindCoach b id cls s
    | some _ => startRetry b (setConflict b true s)

/-- R19, BOUND: an unscheduled exit at the book and the clearance unit. -/
def leaveBook (b : BayNo) (s : State) : State :=
  match s.book.boundTo b with
  | none => s
  | some d =>
    let s := unbind d.ref b s
    if d.state = .clearing then dropPending d.ref b s else s

/-- R12: the coach was replaced under the plug; the old one leaves as from BOUND, and the bay goes to ARRIVED. -/
def replaceCoach (b : BayNo) (s : State) : State :=
  setBayState b .arrived (takeAll (tearDown b (leaveBook b s)))

/-- R12: a result taken in BOUND with identity unconfirmed. -/
def identUnconfirmed (b : BayNo) (x : IdentResult) (s : State) : State :=
  match x with
  | .noCoach => startRetry b s
  | .coach id cls =>
    if (s.bay b).coach = some id then
      let had := (s.classOf b).isSome
      let s := s.updBay b fun r => { r with unconfirmed := false, cls := cls }
      if had && (s.classOf b).isNone then leaveOnSet b s else s
    else identArrived b x (replaceCoach b s)

/-- R10, R12: an ident result is taken, or discarded when the bay has left the state it was asked in. -/
def takeIdent (b : BayNo) (x : IdentResult) (s : State) : State :=
  if (s.bay b).wantsIdent then
    if (s.bay b).state = .arrived then identArrived b x s else identUnconfirmed b x s
  else s

/-! ## Exit (R19) -/

/-- R19: the bay ends in EMPTY with its hold cleared. -/
def enterEmpty (b : BayNo) (s : State) : State :=
  setBayState b .empty (setConflict b false (s.updBay b fun r => { r with hold := false }))

/-- R19, CLEARED and LEAVING: the bound departure is GONE. -/
def departGone (b : BayNo) (anomaly : Bool) (s : State) : State :=
  match s.book.boundTo b with
  | none => s
  | some d => removeAndNotify d .gone anomaly s

/-- R19. -/
def takeExit (b : BayNo) (s : State) : State :=
  match (s.bay b).state with
  | .closed | .empty => s
  | .arrived => enterEmpty b (stopRetry b (withdrawIdent b s))
  | .bound => enterEmpty b (takeAll (tearDown b (leaveBook b s)))
  | .cleared => enterEmpty b (takeAll (tearDown b (departGone b true s)))
  | .leaving => enterEmpty b (takeAll (tearDown b (departGone b false s)))

/-! ## Sense records (R5 to R8) -/

/-- R5, step 1. -/
def takeCabin (b : BayNo) (t : Option Int) (s : State) : State :=
  match t with
  | none => s
  | some t => s.updBay b fun r => { r with cabin := some ⟨clampInt (-960) 1600 t, 0⟩ }

/-- R5, step 2. -/
def takeCurrent (b : BayNo) (present : Bool) (s : State) : State :=
  checkCurrent b present (s.updBay b fun r => { r with current := present })

/-- R7: what the plug's loss does at the sequencer, the lamp unit and the fault reader (R22, R113, R128). A test and a read that both run
end in this order, the test first, which no rule gives (log 40). -/
def losePlug (b : BayNo) (s : State) : State :=
  failRead b .plugRemoved (abortTestOn b .plugRemoved (leaveOnSet b s))

/-- R7: the cabin at unplug is recorded. -/
def recordUnplug (b : BayNo) (s : State) : State :=
  s.updBay b fun r => { r with cabinAtUnplug := r.cabin.map (·.temperature) }

/-- R7, left column: the plug field has become ABSENT. -/
def plugOut (b : BayNo) (s : State) : State :=
  match (s.bay b).state with
  | .closed | .empty => s
  | .arrived => setConflict b false (stopRetry b (withdrawIdent b s))
  | .bound => losePlug b (recordUnplug b (stopRetry b (withdrawIdent b s)))
  | .cleared => losePlug b (stopRetry b (withdrawIdent b (setBayState b .leaving (recordUnplug b s))))
  | .leaving => losePlug b s

/-- R7, right column: the plug field has become PRESENT. -/
def plugIn (b : BayNo) (s : State) : State :=
  match (s.bay b).state with
  | .closed | .empty | .cleared => s
  | .arrived => requestIdent b s
  | .bound => requestIdent b (s.updBay b fun r => { r with cabinAtUnplug := none, unconfirmed := true })
  | .leaving => setBayState b .cleared (s.updBay b fun r => { r with cabinAtUnplug := none })

/-- R5, step 3. -/
def takePlug (b : BayNo) (present : Bool) (s : State) : State :=
  let was := (s.bay b).plug
  let s := s.updBay b fun r => { r with plug := present }
  if was = present then s else if present then plugIn b s else plugOut b s

/-- R5, step 4, R8. -/
def takeLink (b : BayNo) (up : Bool) (s : State) : State :=
  let was := (s.bay b).link
  let s := s.updBay b fun r => { r with link := up }
  if up && !was && (s.bay b).retry.isSome && (s.bay b).wantsIdent then requestIdent b (stopRetry b s) else s

/-- R6: an accepted change of occupancy. -/
def acceptOccupancy (b : BayNo) (occupied : Bool) (s : State) : State :=
  let s := s.updBay b fun r => { r with occupied := occupied, candidate := none }
  if occupied then
    if (s.bay b).state = .empty then requestIdent b (setBayState b .arrived s) else s
  else takeExit b s

/-- R5, step 5, R6. -/
def takeOccupancy (b : BayNo) (occupied : Bool) (s : State) : State :=
  let r := s.bay b
  if occupied = r.occupied then s.updBay b fun r => { r with candidate := none }
  else if r.candidate = some occupied then acceptOccupancy b occupied s
  else s.updBay b fun r => { r with candidate := some occupied }

/-- R5: a sense record, field by field; one for a bay that has been closed is discarded (R4). -/
def takeSense (b : BayNo) (x : SenseRecord) (s : State) : State :=
  if (s.bay b).state = .closed then s
  else takeOccupancy b x.occupied (takeLink b x.link (takePlug b x.plug (takeCurrent b x.current (takeCabin b x.cabin s))))

/-! ## Opening and closing (R15, R16) -/

/-- R15. -/
def openBay (b : BayNo) (s : State) : State :=
  setBayState b .empty (s.updBay b fun r => { r with occupied := false, candidate := none, sense := some senseTime })

/-- R16. -/
def closeBay (b : BayNo) (s : State) : State :=
  let s := withdraw (Job.isSenseFor b) s
  let s := s.updBay b fun r =>
    { r with sense := none, candidate := none, plug := false, link := false, current := false, cabin := none }
  closeHeating b (setBayState b .closed s)

/-! ## DEPOT RESTART at the bay table (R21) -/

/-- R21: one bay. -/
def restartBay (s : State) (b : BayNo) : State :=
  if s.boundAt b then requestIdent b (setBayState b .arrived (setConflict b false (tearDown b s))) else s

end Sys2Proof.Machine
end

