-- ==== Sys2Proof/Machine/PostBus.lean ====
section
/-! DEFINITION. The post bus controller (10): responses, retries and failures, silence and restoration, probes, broadcasts, the idle
bus, and the meanings of the table's post-bus events. -/

namespace Sys2Proof.Machine

/-- Changes the bus. -/
def State.updBus (s : State) (f : Bus → Bus) : State := { s with bus := f s.bus }

/-- R178: the idle timer's length. -/
def idleTime : Nat := 1000

/-- R174, R177: the probe timer's length. -/
def probeTime : Nat := 2000

/-- R173, R178: the transaction in flight ends; the idle timer restarts. -/
def freeWire (s : State) : State := s.updBus fun u => { u with wire := .free, idle := idleTime }

/-! ## The check of a post-bus frame (R171) -/

/-- One bit of the 8-bit check: shift left, exclusive-or with 0x07 when the bit shifted out differs from the message bit. -/
def crc8Bit (r : BitVec 8) (bit : Bool) : BitVec 8 :=
  if (r.msb != bit) = true then (r <<< 1) ^^^ 0x07#8 else r <<< 1

/-- The bits of a byte, most significant first. -/
def byteBits (b : Byte) : List Bool := (List.range 8).map fun i => b.getMsbD i

/-- R171: the check of a post-bus frame over its address, kind, length and payload bytes. -/
def crc8 (bytes : List Byte) : Byte := (bytes.flatMap byteBits).foldl crc8Bit 0x00#8

/-! ## Good responses (R171, R172) -/

/-- R172: the kind of a transaction. -/
def Job.kind : Job → PostKind
  | .allOff => .allOff
  | .heat .. => .heat
  | .signal .. => .signal
  | .lampStep .. => .lampStep
  | .lampRead .. => .lampRead
  | .lampEnd .. => .lampEnd
  | .sense _ => .sense
  | .ident _ => .ident
  | .faultPage .. => .faultPage
  | .ping _ => .ping

/-- R172: the payload a good response of this kind has with this post status. -/
def formOf (k : PostKind) (st : PostStatus) (p : PostPayload) : Bool :=
  match k, st, p with
  | .heat, _, .empty | .signal, _, .empty | .lampStep, _, .empty | .lampEnd, _, .empty | .ping, _, .empty => true
  | .lampRead, .ok, .current _ => true
  | .lampRead, .noCoach, .empty | .lampRead, .harnessFault, .empty => true
  | .sense, _, .sense _ => true
  | .ident, .ok, .coach .. => true
  | .ident, .noCoach, .empty | .ident, .harnessFault, .empty => true
  | .faultPage, .ok, .page _ rs _ => rs.length ≤ 4
  | .faultPage, .noCoach, .empty | .faultPage, .harnessFault, .empty => true
  | _, _, _ => false

/-- R171: what a good frame of this kind and post status has, whatever was asked: its check, its length and the payload's form. -/
def soundFrame (r : PostReply) (k : PostKind) (st : PostStatus) : Bool :=
  r.check == crc8 (r.address :: r.kindCode :: r.length :: r.body) && r.length.toNat == r.body.length && formOf k st r.payload

/-- R171: the post status of a response that is good for the request; none for one that breaks a condition. -/
def goodStatus (r : PostReply) (j : Job) : Option PostStatus :=
  match j.bay, r.status with
  | some b, some st =>
    if r.address.toNat = b.val ∧ r.kind = some j.kind ∧ soundFrame r j.kind st then some st else none
  | _, _ => none

/-! ## Handing on a success (R172, R173) -/

/-- R168, R177: the post is restored to RESPONDING. -/
def restorePost (b : BayNo) (s : State) : State :=
  let s := s.updPost b fun _ => ⟨false, 0, none⟩
  notifyBay .post b (restoreSignal b (restoreHeating b (restoreSense b s)))

/-- R122, R128: a FAULT PAGE response. -/
def takePageResponse (b : BayNo) (st : PostStatus) (p : PostPayload) (s : State) : State :=
  match st, p with
  | .ok, .page v rs more => takePage b v rs more s
  | .noCoach, _ => refusePage b .noCoach s
  | .harnessFault, _ => refusePage b .harnessFault s
  | .ok, .empty | .ok, .sense _ | .ok, .current _ | .ok, .coach .. => s

/-- R172: what a good response hands back to the requester. -/
def handSuccess (j : Job) (st : PostStatus) (p : PostPayload) (s : State) : State :=
  match j with
  | .allOff | .heat .. | .signal .. => s
  | .lampStep e _ _ => takeStepResponse e st s
  | .lampRead e _ _ => takeReadResponse e st (match p with
      | .current i => i.toNat
      | .empty | .sense _ | .coach .. | .page .. => 0) s
  | .lampEnd e _ => finishRelease e s
  | .sense b => match p with
    | .sense x => takeSense b x s
    | .empty | .current _ | .coach .. | .page .. => s
  | .ident b => takeIdent b (match p with
      | .coach id cls => identOf id cls
      | .empty | .sense _ | .current _ | .page .. => .noCoach) s
  | .faultPage b _ => takePageResponse b st p s
  | .ping b => if s.silent b then restorePost b s else s

/-- R173: a success resets the count; a PING's restoration does so itself. -/
def clearFailures (b : BayNo) (s : State) : State :=
  s.updPost b fun p => if p.silent then p else { p with failures := 0 }

/-- R173: a success. -/
def succeed (t : InFlight) (b : BayNo) (st : PostStatus) (p : PostPayload) (s : State) : State :=
  let s := clearFailures b (freeWire s)
  if t.discarded then s else handSuccess t.job st p s

/-! ## Failures and silence (R173 to R175) -/

/-- R110, R112, R128, R166, R173: a final failure handed to its requester. -/
def handFailure (j : Job) (s : State) : State :=
  match j with
  | .allOff | .heat .. | .sense _ | .ping _ => s
  | .signal b _ => if s.waits (Job.isSignalFor b) then s else requestSignal b s.clearance.signals[b] s
  | .lampStep e _ _ | .lampRead e _ _ => failStep e s
  | .lampEnd e _ => finishRelease e s
  | .ident b => takeIdent b .noCoach s
  | .faultPage b _ => failRead b .busFailed s

/-- R174, step 2: the waiting requests of the post, other than a PING, fail. R174 gives several of them no order: here they fail in the order
they were placed (log 38). -/
def failWaiting (b : BayNo) (s : State) : State :=
  let doomed := fun (j : Job) => j.bay == some b && !j.isPingFor b
  let jobs := (s.bus.waiting.filter fun r => doomed r.job).map (·.job)
  jobs.foldl (fun s j => handFailure j s) (withdrawWaiting doomed s)

/-- R174: the post is declared SILENT. -/
def declareSilent (b : BayNo) (s : State) : State :=
  let s := s.updPost b fun p => { p with silent := true, probe := some probeTime }
  let s := failWaiting b s
  let s := s.updBay b fun r => { r with candidate := none }
  let s := silenceHeating b s
  let s := abortTestOn b .postSilent s
  let s := failRead b .postSilent s
  let s := reportToClearance b s
  notifyBay .post b s

/-- The failure of the transaction in flight, unless its result has been discarded (R179). -/
def handFlying (s : State) : State :=
  match s.bus.wire with
  | .busy t => if t.discarded then freeWire s else handFailure t.job (freeWire s)
  | .free | .quiet => s

/-- R173, R174, R177: a final failure. A PING's changes nothing. The third of a post declares it SILENT, and the failure and the
silence reach the requester in the order the event carries (log 3). -/
def finalFailure (t : InFlight) (b : BayNo) (order : FailureOrder) (s : State) : State :=
  if t.job.isPingFor b then freeWire s
  else
    let s := s.updPost b fun p => { p with failures := min 3 (p.failures + 1) }
    if s.bus.posts[b].failures < 3 ∨ s.silent b then handFlying s
    else match order with
      | .failureFirst => declareSilent b (handFlying s)
      | .silenceFirst => handFlying (declareSilent b s)

/-- R173: a bad or missing response: the frame is sent again once, and then the failure is final. -/
def noGoodResponse (order : FailureOrder) (s : State) : State :=
  match s.bus.wire with
  | .free | .quiet => s
  | .busy t =>
    match t.job.bay with
    | none => s
    | some b =>
      arbitrate <|
        if t.isRetry then finalFailure t b order s
        else s.updBus fun u => { u with wire := .busy { t with isRetry := true, timer := some responseWindow } }

/-! ## Meanings -/

/-- POST_RESPONSE (R173). A response that is not good for the transaction in flight is a bad one (R171). -/
def takeResponse (r : PostReply) (order : FailureOrder) (s : State) : State :=
  match s.bus.wire with
  | .free | .quiet => s
  | .busy t =>
    match t.job.bay with
    | none => s
    | some b =>
      match goodStatus r t.job with
      | some st => arbitrate (succeed t b st r.payload s)
      | none => noGoodResponse order s

/-- POST_RESPONSE: see takeResponse; with nothing awaited the event does not occur (log 7). -/
def execPostResponse (r : PostReply) (order : FailureOrder) (s : State) : Host.Outcome State Fault Refusal :=
  event (takeResponse r order) s

/-- RESPONSE_TIMEOUT (R171, R173): no frame is complete within the 20 ms. -/
def execResponseTimeout (order : FailureOrder) (s : State) : Host.Outcome State Fault Refusal := event (noGoodResponse order) s

/-- BAD_RESPONSE (R171, R173): a frame that breaks a condition of R171; all are handled alike. -/
def execBadResponse (_cause : BadCause) (order : FailureOrder) (s : State) : Host.Outcome State Fault Refusal :=
  event (noGoodResponse order) s

/-- R177: the probe timer of a SILENT post expires. -/
def probeExpiry (b : BayNo) (s : State) : State :=
  match s.bus.posts[b].probe with
  | none => s
  | some _ =>
    let s := s.updPost b fun p => { p with probe := some probeTime }
    arbitrate (if s.outstanding (Job.isPingFor b) then s else placeJob (.ping b) s)

/-- PROBE_TIMER_EXPIRY (R177). -/
def execProbeTimerExpiry (b : BayNo) (s : State) : Host.Outcome State Fault Refusal := event (probeExpiry b) s

/-- The bus after a grant that is still to be made: right after reset ALL OFF waits (R170, log 10). -/
def grantWaiting (s : State) : State :=
  match s.bus.wire with
  | .free => if s.bus.waiting.isEmpty then s else arbitrate s
  | .busy _ | .quiet => s

/-- R178: the ALL OFF frame has been sent. -/
def allOffEnd (s : State) : State :=
  let g := grantWaiting s
  match g.bus.wire with
  | .busy t => if t.job = .allOff then arbitrate (freeWire g) else s
  | .free | .quiet => s

/-- ALL_OFF_SENT (R178). -/
def execAllOffSent (s : State) : Host.Outcome State Fault Refusal := event allOffEnd s

/-- R178: the idle timer expires; the quiet frame is sent when nothing is in flight and nothing waits. -/
def idleExpiry (s : State) : State :=
  match s.bus.wire with
  | .free => if s.bus.waiting.isEmpty then s.updBus fun u => { u with wire := .quiet, idle := 0 } else s.updBus fun u => { u with idle := 0 }
  | .busy _ => s.updBus fun u => { u with idle := 0 }
  | .quiet => s

/-- IDLE_TIMER_EXPIRY (R178). -/
def execIdleTimerExpiry (s : State) : Host.Outcome State Fault Refusal := event idleExpiry s

/-- R178: the quiet frame has been sent. -/
def quietEnd (s : State) : State :=
  match s.bus.wire with
  | .quiet => arbitrate (freeWire s)
  | .free | .busy _ => s

/-- QUIET_FRAME_SENT (R178). -/
def execQuietFrameSent (s : State) : Host.Outcome State Fault Refusal := event quietEnd s

/-- R4: a bay's sense countdown expires; it is reloaded at once. -/
def senseExpiry (b : BayNo) (s : State) : State :=
  match (s.bay b).sense with
  | none => s
  | some _ => arbitrate (requestSense b (s.updBay b fun r => { r with sense := some senseTime }))

/-- SENSE_COUNTDOWN_EXPIRY (R4). -/
def execSenseCountdownExpiry (b : BayNo) (s : State) : Host.Outcome State Fault Refusal := event (senseExpiry b) s

/-- R9: a bay's ident retry timer expires; an ident is requested when the conditions still hold, else the timer lapses. -/
def retryExpiry (b : BayNo) (s : State) : State :=
  match (s.bay b).retry with
  | none => s
  | some _ => arbitrate (requestIdent b (stopRetry b s))

/-- IDENT_RETRY_EXPIRY (R9). -/
def execIdentRetryExpiry (b : BayNo) (s : State) : Host.Outcome State Fault Refusal := event (retryExpiry b) s

end Sys2Proof.Machine
end

