-- ==== Sys2Proof/Machine/Timed.lean ====
section
/-! DEFINITION. The timed events of the part and its lines: the clock and overdue records (03), slots and the feed alarm (05), settle
timers (06), scan countdowns (07), deferrals (08), pending and ALERT timers (09), ages, reset. -/

namespace Sys2Proof.Machine

/-! ## Reset and the feed alarm line -/

/-- POWER_ON_RESET (R190): every block takes its power-on values. The feed alarm line is an input and keeps its level (R95); the queue
is the sender's, and the free values' counter goes on. -/
def execPowerOnReset (baysStrap feedStrap : BitVec 2) (s : State) : Host.Outcome State Fault Refusal :=
  .next { State.powerOn baysStrap feedStrap s.seq.feedAlarm s.pending with choices := s.choices }

/-- R190: the reset line is held: no frame is taken, nothing is sent on a link or on the bus (log 21). -/
def holdReset (s : State) : State :=
  let quiet : Port → Port := fun p => { p with receiver := .idle, gap := 0, responder := .free }
  { (s.updPort .dispatch quiet).updPort .workshop quiet with resetHeld := true, bus := { s.bus with wire := .free } }

/-- RESET_LINE_HELD (R190). -/
def execResetLineHeld (s : State) : Host.Outcome State Fault Refusal := .next (holdReset s)

/-- FEED_ALARM_ASSERTED (R94). While the reset line is held only the level of the line is seen (R95). -/
def execFeedAlarmAsserted (s : State) : Host.Outcome State Fault Refusal :=
  .next (if s.resetHeld then s.updSeq fun q => { q with feedAlarm := true } else arbitrate (assertAlarm s))

/-- FEED_ALARM_RELEASED (R95): nothing is switched on. -/
def execFeedAlarmReleased (s : State) : Host.Outcome State Fault Refusal :=
  .next (s.updSeq fun q => { q with feedAlarm := false })

/-! ## The clock (R34, R36) -/

/-- R35, R36: a record becomes overdue, with its DEPARTURE notice. -/
def becomeOverdue (d : Departure) (minutes : Nat) (s : State) : State :=
  notify .departure (BaySet.ofOption d.bay) (updRecord d.ref (fun d => { d with overdue := some ⟨minutes, minuteMs⟩ }) s)

/-- R36: a minute change: records whose minutes ahead were 0 become overdue, and the clock shows the next minute. -/
def minuteChange (s : State) : State :=
  let passed := s.book.records.filter fun d => d.overdue.isNone && minutesAheadOf d.minute s.clock.minute == 0
  let s := { s with clock := { s.clock with second := 0, minute := if 1439 ≤ s.clock.minute then 0 else s.clock.minute + 1 } }
  reorder (passed.foldl (fun s d => becomeOverdue d 1 s) s)

/-- R34: the set clock advances one second. -/
def clockTick (s : State) : State :=
  if !s.clock.isSet then s
  else
    let s := { s with clock := { s.clock with phase := secondMs } }
    if s.clock.second < 59 then { s with clock := { s.clock with second := s.clock.second + 1 } } else minuteChange s

/-- CLOCK_SECOND (R34, R36). -/
def execClockSecond (s : State) : Host.Outcome State Fault Refusal := event clockTick s

/-- R37: the overdue minutes of a record rise, held at 1440. -/
def riseOverdue (ref : Nat) (s : State) : State :=
  match (s.book.find ref).bind (·.overdue) with
  | none => s
  | some o => autoCancel ref (reorder (updRecord ref (fun d => { d with overdue := some ⟨min 1440 (o.minutes + 1), minuteMs⟩ }) s))

/-- OVERDUE_RISE (R37, R47). -/
def execOverdueRise (ref : Half) (s : State) : Host.Outcome State Fault Refusal := event (riseOverdue ref.toNat) s

/-! ## Heating, lamps, reads -/

/-- SLOT_TIMER_EXPIRY (R79, R84, R88). -/
def execSlotTimerExpiry (s : State) : Host.Outcome State Fault Refusal := event (fun s => arbitrate (nextSlot s)) s

/-- R109, step 3: an engine's settle timer expires. -/
def settleExpiry (e : EngineNo) (s : State) : State :=
  match s.lamp.engines[e] with
  | .free | .releasing _ => s
  | .running t =>
    match t.settling with
    | none => s
    | some _ => arbitrate (takeAll (requestRead e t.bay t.circuit (setEngine e (.running { t with settling := none }) s)))

/-- SETTLE_TIMER_EXPIRY (R109). -/
def execSettleTimerExpiry (e : EngineNo) (s : State) : Host.Outcome State Fault Refusal := event (settleExpiry e) s

/-- R130: a bay's scan countdown expires: it is reloaded and a read request is made. -/
def scanExpiry (b : BayNo) (s : State) : State :=
  match s.reader.scan[b] with
  | none => s
  | some _ => arbitrate (requestFaultReading b (reloadScan b s)).1

/-- SCAN_COUNTDOWN_EXPIRY (R130). -/
def execScanCountdownExpiry (b : BayNo) (s : State) : Host.Outcome State Fault Refusal := event (scanExpiry b) s

/-! ## Deferrals (R145) -/

/-- R145: the deferral of an entry expires. -/
def expireDeferral (id : Nat) (s : State) : State :=
  match s.store.find id with
  | none => s
  | some (b, d) =>
    match d.state with
    | .opened | .acknowledged => s
    | .deferred _ =>
      let s := s.updStore (·.updateWhere b (·.id == id) fun d => { d with state := .opened })
      let s := notifyBay .defect b s
      arbitrate <| match d.action with
        | .block => reportToClearance b s
        | .inhibit => leaveOnSet b s
        | .note => s

/-- DEFERRAL_EXPIRY (R145). -/
def execDeferralExpiry (id : Half) (s : State) : Host.Outcome State Fault Refusal := event (expireDeferral id.toNat) s

/-! ## Clearance timers (R162, R167) -/

/-- R162: a pending clearance's timer reaches zero. -/
def pendingExpiry (ref : Nat) (s : State) : State :=
  match s.clearance.find ref with
  | none => s
  | some p =>
    refuse ref p.bay
      (reasonTimeout ||| reasonIf (s.testActive p.bay) reasonLamp ||| reasonIf (s.isReading p.bay) reasonFaultRead) s

/-- PENDING_TIMER_EXPIRY (R162). -/
def execPendingTimerExpiry (ref : Half) (s : State) : Host.Outcome State Fault Refusal := event (pendingExpiry ref.toNat) s

/-- R167: a bay's ALERT timer reaches zero with the signal still ALERT. -/
def alertExpiry (b : BayNo) (s : State) : State :=
  match s.clearance.alerts[b] with
  | none => s
  | some _ =>
    if s.clearance.signals[b] = .alert then arbitrate (setSignal b .red s)
    else s.updClearance fun c => { c with alerts := c.alerts.set b none }

/-- ALERT_TIMER_EXPIRY (R167). -/
def execAlertTimerExpiry (b : BayNo) (s : State) : Host.Outcome State Fault Refusal := event (alertExpiry b) s

/-! ## Ages (R3, R58, R116, R121, R138) -/

/-- The cabin temperatures grow older, counted in seconds from the record that carried them (R3). -/
def ageCabins (ms : Nat) (s : State) : State :=
  { s with bays := s.bays.map fun r => { r with cabin := r.cabin.map fun c => { c with age := olderBy secondMs ms c.age } } }

/-- The outdoor temperature (R58), lamp results (R116), defect entries (R138) and last reads (R121) grow older, each counted in minutes
from its own command or end. -/
def ageRecords (ms : Nat) (s : State) : State :=
  let older := olderBy minuteMs ms
  let s := s.updPlanner fun p => { p with outdoorAge := p.outdoorAge.map older }
  let s := s.updLamp fun u => { u with results := u.results.map (·.map fun r => { r with age := older r.age }) }
  let s := s.updStore fun st => { st with lists := st.lists.map (·.map fun d => { d with age := older d.age }) }
  s.updReader fun x => { x with last := x.last.map (·.map fun r => { r with age := older r.age }) }

/-- A second or a minute passes for every age counted in it. -/
def raiseAges (u : TimeUnit) (s : State) : State :=
  match u with
  | .second => ageCabins secondMs s
  | .minute => ageRecords minuteMs s

/-- AGE_RISE (R58, R116, R121, R138; log 5). -/
def execAgeRise (u : TimeUnit) (s : State) : Host.Outcome State Fault Refusal := event (raiseAges u) s

end Sys2Proof.Machine
end

