-- ==== Sys2Proof/Machine/Operands.lean ====
section
/-! DEFINITION. Taking a command (R184, R185): its code, the links that may give it, the bay it names, its answer; and the payload
layouts of 11, Layouts, read from bytes and written to bytes. -/

namespace Sys2Proof.Machine

/-! ## Codes and rights (R185) -/

/-- R185: the commands of dispatch alone. -/
def dispatchCode (c : Byte) : Bool := (0x10#8 ≤ c && c ≤ 0x15#8) || (0x18#8 ≤ c && c ≤ 0x1F#8)

/-- R185: the commands of the workshop alone. -/
def workshopCode (c : Byte) : Bool := 0x20#8 ≤ c && c ≤ 0x2E#8

/-- R185: the commands of either link. -/
def sharedCode (c : Byte) : Bool := 0x30#8 ≤ c && c ≤ 0x3D#8

/-- R184, check 1: one of the command codes. -/
def knownCode (c : Byte) : Bool := dispatchCode c || workshopCode c || sharedCode c

/-- R184, check 2. -/
def permitted (l : Link) (c : Byte) : Bool :=
  sharedCode c || match l with
    | .dispatch => dispatchCode c
    | .workshop => workshopCode c

/-! ## Answers (R184) -/

/-- A refused command's response has an empty payload. -/
def refusal (st : Status) : Response := ⟨st, .empty⟩

/-- The responder sends the response; the receiver is IDLE after the frame's last byte (R182). -/
def answer (l : Link) (r : Response) (s : State) : State :=
  s.updPort l fun p => { p with responder := .sending r, receiver := .idle, gap := 0 }

/-- R182: the responder is SENDING. -/
def Port.sending (p : Port) : Bool := p.responder != .free

/-- R182: a frame that finds the responder SENDING is an overrun. -/
def countOverrun (l : Link) (s : State) : State := s.updPort l fun p => { p with overruns := sat16 (p.overruns + 1) }

/-- R182, R184: a good frame of a known code and a right length is taken; checks 2 and 4 are made here. refused gives the response
of a refusal. The row of a command is its whole frame, whatever the receiver was at: when it is taken the receiver ends IDLE, and when it
finds the responder SENDING it is one more overrun and the receiver stays (log 15). -/
def takeFrameWith (refused : Status → Response) (l : Link) (code : Byte) (bay : Option Byte) (rule : State → State × Response)
    (s : State) : State :=
  if (s.port l).sending then countOverrun l s
  else if !permitted l code then answer l (refused .notPermitted) s
  else if (bay.map fun b => decide (s.bayCount ≤ b.toNat)).getD false then answer l (refused .noBay) s
  else
    let r := rule s
    answer l r.2 r.1

/-- R184 for every command but REQUEST CLEARANCE. -/
def takeCommand (l : Link) (code : Byte) (bay : Option Byte) (rule : State → State × Response) (s : State) : State :=
  takeFrameWith refusal l code bay rule s

/-- The bay a byte below the strapped count names. -/
def bayOf (b : Byte) : BayNo := Fin.ofNat 24 b.toNat

/-- 11, Command payloads: an action byte; any other value is an action outside the set. -/
def actionOf (b : Byte) : Option Action :=
  if b = 0#8 then some .block else if b = 1#8 then some .inhibit else if b = 2#8 then some .note else none

/-! ## Payloads as bytes (11, Command payloads) -/

/-- A two-byte field, most significant byte first. -/
def half (hi lo : Byte) : Half := hi ++ lo

/-- The bytes of a two-byte field. -/
def halfBytes (h : Half) : List Byte := [h.extractLsb' 8 8, h.extractLsb' 0 8]

/-- A field a flags bit says is carried. -/
def carried {α : Type} (flags : Byte) (bit : Nat) (v : α) : Option α := if flags.getLsbD bit then some v else none

/-- The bit of a flags byte for a field that may be carried. -/
def flagBit {α : Type} (bit : Nat) (v : Option α) : Byte := if v.isSome then 1#8 <<< bit else 0#8

/-- The circuit descriptions of WRITE CLASS, six bytes each. -/
def parseCircuits : List Byte → Option (List CircuitArgs)
  | [] => some []
  | c :: n1 :: n0 :: x1 :: x0 :: a :: rest => (parseCircuits rest).map fun cs => ⟨c, half n1 n0, half x1 x0, a⟩ :: cs
  | _ => none

/-- The bytes of the circuit descriptions. -/
def circuitBytes (cs : List CircuitArgs) : List Byte :=
  cs.flatMap fun c => c.circuit :: halfBytes c.minimum ++ halfBytes c.maximum ++ [c.action]

/-- R184, check 3: the command a code and a payload spell on a link, for a known code; none when the payload's length is not one given
for the command. -/
def parsePayload (l : Link) (code : Byte) (p : List Byte) : Option Instr :=
  match code.toNat, p with
  | 0x10, [m1, m0, s] => some (.setClock l (half m1 m0) s)
  | 0x11, [t1, t0] => some (.setWeather l (half t1 t0))
  | 0x12, [f, t, a, b, c, d] =>
    some (.setFeedLimits l ⟨carried f 0 t, carried f 1 a, carried f 2 b, carried f 3 c, carried f 4 d⟩)
  | 0x13, [f, sl, rm, f1, f0, t1, t0, d1, d0] =>
    some (.setPlanner l ⟨carried f 0 sl, carried f 1 rm, carried f 2 (half f1 f0), carried f 3 (half t1 t0), carried f 4 (half d1 d0)⟩)
  | 0x14, [m1, m0] => some (.setLampFreshness l (half m1 m0))
  | 0x15, [m] => some (.setClearanceWindow l m)
  | 0x18, [r1, r0, m1, m0, f, c1, c0, t1, t0, ld] =>
    some (.book l ⟨half r1 r0, half m1 m0, carried f 0 (half c1 c0), carried f 1 (half t1 t0), carried f 2 ld⟩)
  | 0x19, [r1, r0, f, m1, m0, t1, t0, ld, _, _] => parseAmend l r1 r0 f m1 m0 t1 t0 ld
  | 0x1A, [r1, r0, c1, c0] => some (.assignCoach l (half r1 r0) (half c1 c0))
  | 0x1B, [r1, r0] => some (.cancel l (half r1 r0))
  | 0x1C, [r1, r0, c] => some (.requestClearance l (half r1 r0) (c != 0#8))
  | 0x1D, [r1, r0] => some (.withdrawClearance l (half r1 r0))
  | 0x1E, [i] => some (.readDepartureLog l i)
  | 0x1F, [] => some (.depotRestart l)
  | 0x20, [b] => some (.openBay l b)
  | 0x21, [b] => some (.closeBay l b)
  | 0x22, [b] => some (.hold l b)
  | 0x23, [b] => some (.unhold l b)
  | 0x24, [b, f] => some (.assignFeeder l b f)
  | 0x25, [c] => some (.classRemove l c)
  | 0x25, c :: u :: k1 :: k0 :: g1 :: g0 :: t1 :: t0 :: a :: rest =>
    (parseCircuits rest).map fun cs => .writeClass l ⟨c, u, half k1 k0, half g1 g0, half t1 t0, a != 0#8, cs⟩
  | 0x26, [i] => some (.writeRule l i .unused)
  | 0x26, [i, l1, l0, h1, h0, a] => some (.writeRule l i (.use (half l1 l0) (half h1 h0) a))
  | 0x27, [m] => some (.setScanPeriod l m)
  | 0x28, [b] => some (.pin l b)
  | 0x29, [p] => some (.unpin l p)
  | 0x2A, [i1, i0] => some (.acknowledge l (half i1 i0))
  | 0x2B, [i1, i0, m1, m0] => some (.defer l (half i1 i0) (half m1 m0))
  | 0x2C, [i1, i0] => some (.closeDefect l (half i1 i0))
  | 0x2D, [b, c1, c0, a] => some (.enterDefect l b (half c1 c0) a)
  | 0x2E, [b] => some (.abortLampTest l b)
  | 0x30, [] => some (.readStatus l)
  | 0x31, [b] => some (.readBay l b)
  | 0x32, [sel, x1, x0] => some (.readDeparture l (if sel = 0#8 then .byRef (half x1 x0) else .byPosition (half x1 x0)))
  | 0x33, [b, p] => some (.readDefects l b p)
  | 0x34, [b] => some (.readLampResult l b)
  | 0x35, [p] => some (.readChain l (if p = 255#8 then .summary else .fromPosition p))
  | 0x36, [c] => some (.readClass l c)
  | 0x37, [i] => some (.readRule l i)
  | 0x38, [b] => some (.requestLampTest l b)
  | 0x39, [b] => some (.requestFaultRead l b)
  | 0x3A, [] => some (.readNotices l)
  | 0x3B, [k] => some (.setNoticeMask l k)
  | 0x3C, [c] => some (.setPlannerEnables l c)
  | 0x3D, [] => some (.clearPlannerFlags l)
  | _, _ => none
where
  /-- AMEND's fields fill eight of the ten bytes the table of 11 gives it; the last two are ignored (log 33). -/
  parseAmend (l : Link) (r1 r0 f m1 m0 t1 t0 ld : Byte) : Option Instr :=
    some (.amend l ⟨half r1 r0, carried f 0 (half m1 m0),
      if f.getLsbD 2 then .remove else if f.getLsbD 1 then .set (half t1 t0) else .keep, carried f 3 ld⟩)

end Sys2Proof.Machine
end

