-- ==== Sys2Proof/Machine/Bookings.lean ====
section
/-! DEFINITION. The commands of the departure book (03): BOOK, AMEND, ASSIGN COACH, CANCEL, READ DEPARTURE LOG and READ DEPARTURE. -/

namespace Sys2Proof.Machine

/-! ## Fields as a command carries them -/

/-- R41, R43: 0 and 65535 stand for no coach. -/
def coachOf (id : Half) : Option Nat := if id = 0#16 ∨ id = 0xFFFF#16 then none else some id.toNat

/-- R41, R42: a target as taken. -/
def targetTaken (h : Half) : Int := clampInt 160 384 (signed h)

/-- R41, R42: a start lead as taken. -/
def leadTaken (b : Byte) : Nat := clampNat 10 240 b.toNat

/-- R41, R42: a minute of day as taken. -/
def minuteTaken (h : Half) : Nat := min 1439 h.toNat

/-- Whether a minute, a target or a lead carried was clamped. -/
def minuteClamped (h : Half) : Bool := minuteTaken h != h.toNat
def targetClamped (h : Half) : Bool := targetTaken h != signed h
def leadClamped (b : Byte) : Bool := leadTaken b != b.toNat

/-- Whether an optional field satisfies a test. -/
def carriedAnd {α : Type} (f : α → Bool) : Option α → Bool
  | some a => f a
  | none => false

/-- The departure reply of a record that is in the book; an empty one when it is not. -/
def State.departureReply (s : State) (ref : Nat) : Reply :=
  match s.book.find ref with
  | some d => .departure (s.departureView d)
  | none => .empty

/-! ## BOOK (R41) -/

/-- The most records the book holds (R38). -/
def bookRoom : Nat := 48

/-- R41: the first case that applies; none when the command is taken. -/
def State.bookRefusal (s : State) (a : BookArgs) : Option Status :=
  if !s.clock.isSet then some .clockUnset
  else if a.ref = 0#16 then some .badCommand
  else if (s.book.find a.ref.toNat).isSome then some .exists
  else if bookRoom ≤ s.book.records.length then some .full
  else if 720 < minutesAheadOf (minuteTaken a.minute) s.clock.minute then some .outOfRange
  else none

/-- R41: the record booked, with its booking number. -/
def newRecord (a : BookArgs) (booking : Nat) : Departure where
  ref := a.ref.toNat
  minute := minuteTaken a.minute
  coach := a.coach.bind coachOf
  target := a.target.map targetTaken
  lead := match a.lead with
    | some b => leadTaken b
    | none => 90
  state := .booked
  bay := none
  overdue := none
  booking := booking
  reasons := none

/-- R38, R40: the record enters the book at its place in book order, with the next booking number. -/
def addRecord (a : BookArgs) (s : State) : State :=
  reorder <| s.updBook fun k =>
    let k := k.readyNumber
    { k with records := k.records ++ [newRecord a k.nextBooking], nextBooking := k.nextBooking + 1 }

/-- R41: a value was clamped. -/
def bookClamped (a : BookArgs) : Bool :=
  minuteClamped a.minute || carriedAnd targetClamped a.target || carriedAnd leadClamped a.lead

/-- BOOK's rule (R41). The reply echoes the record as taken, before the binding of R44 is tried. -/
def ruleBook (a : BookArgs) (s : State) : State × Response :=
  match s.bookRefusal a with
  | some st => (s, refusal st)
  | none =>
    let s := addRecord a s
    (bindRecord a.ref.toNat s, ⟨takenStatus (bookClamped a), s.departureReply a.ref.toNat⟩)

def takeBook (l : Link) (a : BookArgs) : State → State := takeCommand l 0x18#8 none (ruleBook a)

/-- BOOK (R41, R44). -/
def execBook (l : Link) (a : BookArgs) (s : State) : Host.Outcome State Fault Refusal := event (takeBook l a) s

/-! ## AMEND (R42) -/

/-- R42: the first case that applies. -/
def State.amendRefusal (s : State) (a : AmendArgs) : Option Status :=
  match s.book.find a.ref.toNat with
  | none => some .notFound
  | some d =>
    if d.state = .clearing ∨ d.state = .cleared then some .wrongState
    else if carriedAnd (fun m => decide (720 < minutesAheadOf (minuteTaken m) s.clock.minute)) a.minute then some .outOfRange
    else none

/-- R42: the target after the command. -/
def targetAfter (c : TargetChange) (old : Option Int) : Option Int :=
  match c with
  | .keep => old
  | .set h => some (targetTaken h)
  | .remove => none

/-- R42: the record after the command; a new minute ends its overdue state. -/
def amended (a : AmendArgs) (d : Departure) : Departure :=
  { d with
    minute := match a.minute with
      | some m => minuteTaken m
      | none => d.minute
    overdue := if a.minute.isSome then none else d.overdue
    target := targetAfter a.target d.target
    lead := match a.lead with
      | some b => leadTaken b
      | none => d.lead }

/-- R42: a value was clamped. -/
def amendClamped (a : AmendArgs) : Bool :=
  carriedAnd minuteClamped a.minute || (match a.target with
    | .set h => targetClamped h
    | .keep | .remove => false) || carriedAnd leadClamped a.lead

/-- AMEND's rule (R42). -/
def ruleAmend (a : AmendArgs) (s : State) : State × Response :=
  match s.amendRefusal a with
  | some st => (s, refusal st)
  | none =>
    let s := reorder (updRecord a.ref.toNat (amended a) s)
    (s, ⟨takenStatus (amendClamped a), s.departureReply a.ref.toNat⟩)

def takeAmend (l : Link) (a : AmendArgs) : State → State := takeCommand l 0x19#8 none (ruleAmend a)

/-- AMEND (R42). -/
def execAmend (l : Link) (a : AmendArgs) (s : State) : Host.Outcome State Fault Refusal := event (takeAmend l a) s

/-! ## ASSIGN COACH (R43) -/

/-- ASSIGN COACH's rule (R43). -/
def ruleAssignCoach (ref coach : Half) (s : State) : State × Response :=
  match s.book.find ref.toNat with
  | none => (s, refusal .notFound)
  | some d =>
    if d.state = .booked then
      (bindRecord ref.toNat (updRecord ref.toNat (fun d => { d with coach := coachOf coach }) s), ⟨.ok, .empty⟩)
    else (s, refusal .wrongState)

def takeAssignCoach (l : Link) (ref coach : Half) : State → State := takeCommand l 0x1A#8 none (ruleAssignCoach ref coach)

/-- ASSIGN_COACH (R43, R44). -/
def execAssignCoach (l : Link) (ref coach : Half) (s : State) : Host.Outcome State Fault Refusal :=
  event (takeAssignCoach l ref coach) s

/-! ## CANCEL (R46) -/

/-- CANCEL's rule (R46). -/
def ruleCancel (ref : Half) (s : State) : State × Response :=
  match s.book.find ref.toNat with
  | none => (s, refusal .notFound)
  | some d => (arbitrate (cancelRecord d .cancelled s), ⟨.ok, .empty⟩)

def takeCancel (l : Link) (ref : Half) : State → State := takeCommand l 0x1B#8 none (ruleCancel ref)

/-- CANCEL (R46). -/
def execCancel (l : Link) (ref : Half) (s : State) : Host.Outcome State Fault Refusal := event (takeCancel l ref) s

/-! ## Reading the book and the log (R51, R52) -/

/-- READ DEPARTURE LOG's rule (R51). -/
def ruleReadDepartureLog (index : Byte) (s : State) : State × Response :=
  (s, if 15 < index.toNat then refusal .notFound
    else ⟨.ok, .log s.book.log.length ((s.book.log.drop index.toNat).take 4)⟩)

def takeReadDepartureLog (l : Link) (index : Byte) : State → State := takeCommand l 0x1E#8 none (ruleReadDepartureLog index)

/-- READ_DEPARTURE_LOG (R51). -/
def execReadDepartureLog (l : Link) (index : Byte) (s : State) : Host.Outcome State Fault Refusal :=
  event (takeReadDepartureLog l index) s

/-- R52: the record named. -/
def Book.select (k : Book) (sel : DepartureSelector) : Option Departure :=
  match sel with
  | .byRef ref => k.find ref.toNat
  | .byPosition p => k.records[p.toNat]?

/-- READ DEPARTURE's rule (R52). -/
def ruleReadDeparture (sel : DepartureSelector) (s : State) : State × Response :=
  (s, match s.book.select sel with
    | some d => ⟨.ok, .departure (s.departureView d)⟩
    | none => refusal .notFound)

def takeReadDeparture (l : Link) (sel : DepartureSelector) : State → State := takeCommand l 0x32#8 none (ruleReadDeparture sel)

/-- READ_DEPARTURE (R52). -/
def execReadDeparture (l : Link) (sel : DepartureSelector) (s : State) : Host.Outcome State Fault Refusal :=
  event (takeReadDeparture l sel) s

end Sys2Proof.Machine
end

