-- ==== Sys2Proof/Machine/ClearanceCommands.lean ====
section
/-! DEFINITION. The commands of the clearance unit (09): REQUEST CLEARANCE and WITHDRAW CLEARANCE. -/

namespace Sys2Proof.Machine

/-- R159, step 1: the record becomes CLEARING and its pending clearance is created, with the CLEARANCE notice of R48. -/
def createPending (ref : Nat) (b : BayNo) (cold : Bool) (s : State) : State :=
  notifyBay .clearance b <| (updRecord ref (fun d => { d with state := .clearing }) s).updClearance fun c =>
    { c with pending := c.pending ++ [⟨ref, b, cold, pendingTime⟩] }

/-- The record is CLEARING. -/
def State.isClearing (s : State) (ref : Nat) : Bool :=
  match s.book.find ref with
  | some d => d.state == .clearing
  | none => false

/-- R159, step 2: the URGENT test, or the refusal when the queue is full. -/
def askTest (ref : Nat) (b : BayNo) (rs : ReasonSet) (s : State) : State :=
  if rs.holds reasonLamp then
    let r := requestTest b .urgent s
    if r.2 = .queueFull then refuse ref b rs r.1 else r.1
  else s

/-- R159, step 3: the read, when the request is still pending. -/
def askRead (ref : Nat) (b : BayNo) (rs : ReasonSet) (s : State) : State :=
  if rs.holds reasonFaultRead && s.isClearing ref then (requestFaultReading b s).1 else s

/-- R159: the reply gives the outcome that stands at the end of the event. free is the reason set of a PENDING answer (log 16). -/
def State.clearanceOutcome (s : State) (ref : Nat) (free : ReasonSet) : Status × ReasonSet :=
  match s.book.find ref with
  | some d => match d.state with
    | .clearing => (.pending, free)
    | .cleared => (.ok, 0#12)
    | .booked | .bound => (.ok, d.reasons.getD 0#12)
  | none => (.ok, 0#12)

/-- R159: a request for a BOUND record. -/
def decideRequest (ref : Nat) (b : BayNo) (cold : Bool) (rs : ReasonSet) (free : ReasonSet) (s : State) :
    State × (Status × ReasonSet) :=
  if rs = 0#12 then (arbitrate (grant ref b s), (.ok, 0#12))
  else if !rs.remediable then (refuse ref b rs s, (.ok, rs))
  else
    let s := arbitrate (askRead ref b rs (askTest ref b rs (createPending ref b cold s)))
    (s, s.clearanceOutcome ref free)

/-- R158: a request for a record with no bay to judge. -/
def refuseUnbound (s : State) : State × (Status × ReasonSet) := (notify .clearance 0#24 s, (.ok, reasonNotBound))

/-- R158: a request for a CLEARING record joins the pending clearance. -/
def mergeRequest (ref : Nat) (cold : Bool) (s : State) : State :=
  s.updClearance fun c =>
    { c with pending := c.pending.map fun p => if p.ref = ref then { p with cold := p.cold || cold } else p }

/-- REQUEST CLEARANCE's rule (R158): the status and the reason set; free is the reason set where the spec states none (log 16). -/
def ruleRequestClearance (ref : Nat) (cold : Bool) (free : ReasonSet) (s : State) : State × (Status × ReasonSet) :=
  match s.book.find ref with
  | none => (s, (.notFound, free))
  | some d =>
    match d.state, d.bay with
    | .booked, _ | .bound, none => refuseUnbound s
    | .bound, some b => decideRequest ref b cold (s.evaluate d cold) free s
    | .clearing, _ => (mergeRequest ref cold s, (.merged, free))
    | .cleared, _ => (s, (.already, free))

/-- R184: a REQUEST CLEARANCE response carries its ref and reason set whatever its status. -/
def clearanceReply (ref : Half) (st : Status) (rs : ReasonSet) : Response := ⟨st, .clearance ref.toNat rs⟩

/-- Takes the free value of this command (log 16) and counts it. -/
def withFreeReasons (f : ReasonSet → State → State) (s : State) : State :=
  f (Config.openReasons s.choices) { s with choices := s.choices + 1 }

def takeRequestClearance (l : Link) (ref : Half) (cold : Bool) : State → State :=
  withFreeReasons fun free =>
    takeFrameWith (fun st => clearanceReply ref st free) l 0x1C#8 none fun s =>
      let r := ruleRequestClearance ref.toNat cold free s
      (r.1, clearanceReply ref r.2.1 r.2.2)

/-- REQUEST_CLEARANCE (R158 to R160). -/
def execRequestClearance (l : Link) (ref : Half) (cold : Bool) (s : State) : Host.Outcome State Fault Refusal :=
  event (takeRequestClearance l ref cold) s

/-- WITHDRAW CLEARANCE's rule (R164). -/
def ruleWithdrawClearance (ref : Half) (s : State) : State × Response :=
  match s.book.find ref.toNat with
  | none => (s, refusal .notFound)
  | some d =>
    match d.state, d.bay with
    | .cleared, some b => (arbitrate (revoke ref.toNat b s), ⟨.ok, .empty⟩)
    | .clearing, some b => (refuse ref.toNat b reasonWithdrawn s, ⟨.ok, .empty⟩)
    | .booked, _ | .bound, _ | .clearing, none | .cleared, none => (s, refusal .wrongState)

def takeWithdrawClearance (l : Link) (ref : Half) : State → State := takeCommand l 0x1D#8 none (ruleWithdrawClearance ref)

/-- WITHDRAW_CLEARANCE (R164, R165). -/
def execWithdrawClearance (l : Link) (ref : Half) (s : State) : Host.Outcome State Fault Refusal :=
  event (takeWithdrawClearance l ref) s

end Sys2Proof.Machine
end

