-- ==== Sys2Proof/Machine/Depot.lean ====
section
/-! DEFINITION. DEPOT RESTART: each block's part of it (R21, R54, R78, R102, R114, R135, R152, R169, R178, R179, R191). -/

namespace Sys2Proof.Machine

/-- R54: every record leaves the book in book order, logged CANCELLED; one DEPARTURE notice names the bays of all of them. -/
def restartBook (s : State) : State :=
  let records := s.book.records
  let s := records.foldl (fun s d => removeRecord d .cancelled false s) s
  let s := s.updBook fun k => { k with nextBooking := 1 }
  notify .departure (BaySet.ofList (records.filterMap (·.bay))) s

/-- R163, R169: every pending clearance is dropped, with one CLEARANCE notice. -/
def restartPending (s : State) : State :=
  let bays := s.clearance.pending.map (·.bay)
  notify .clearance (BaySet.ofList bays) (s.updClearance fun c => { c with pending := [] })

/-- R21: the fitted bays. -/
def State.fittedBays (s : State) : List BayNo := allBays.filter s.fitted

/-- R178: ALL OFF is placed, unless one waits. -/
def placeAllOff (s : State) : State := if s.waits (· == .allOff) then s else placeJob .allOff s

/-- DEPOT RESTART at every block. Takes of R106 that the teardowns bring follow all of them (log 28). A HEAT or SIGNAL in flight is not
discarded: its requester has not withdrawn it (log 42). -/
def restart (s : State) : State :=
  let s := restartPending (restartBook s)
  let s := s.fittedBays.foldl restartBay s
  let s := takeAll s
  let s := withdrawWaiting Job.isHeatOrSignal (restartHeating s)
  let s := restartStore (restartPlanner s)
  arbitrate (placeAllOff s)

/-- DEPOT RESTART's rule (R185): answered OK. -/
def ruleDepotRestart (s : State) : State × Response := (restart s, ⟨.ok, .empty⟩)

def takeDepotRestart (l : Link) : State → State := takeCommand l 0x1F#8 none ruleDepotRestart

/-- DEPOT_RESTART (R21, R54, R78, R102, R152, R169, R178). -/
def execDepotRestart (l : Link) (s : State) : Host.Outcome State Fault Refusal := event (takeDepotRestart l) s

end Sys2Proof.Machine
end

