-- ==== Sys2Proof/Machine/Reads.lean ====
section
/-! DEFINITION. The commands of either link that read the part (R186, R3, R153, R117, R101, R29, R132, R189), and the two that ask for
work: REQUEST LAMP TEST (R104) and REQUEST FAULT READ (R123). -/

namespace Sys2Proof.Machine

/-! ## READ STATUS (R186) -/

/-- R186: what the status reply carries. -/
def State.statusView (s : State) : StatusView where
  bayCount := s.bayCount
  feedStrap := s.feedStrap
  clockSet := s.clock.isSet
  minute := s.clock.minute
  second := s.clock.second
  planner := ⟨s.planner.slotLength, s.planner.rounding, s.planner.frostFloor, s.planner.tolerance, s.planner.defaultTarget,
    s.planner.inForce⟩
  outdoor := s.planner.outdoor
  outdoorAge := s.planner.outdoorAge.map ageMinutes
  sticky := s.planner.sticky
  scanPeriod := s.reader.period
  window := s.clearance.window
  freshness := s.lamp.freshness
  freeSlots := s.store.free.length
  starvation := s.store.starvation
  feedAlarm := s.seq.feedAlarm
  dispatchErrors := s.dispatch.frameErrors
  dispatchOverruns := s.dispatch.overruns
  workshopErrors := s.workshop.frameErrors
  workshopOverruns := s.workshop.overruns

/-- READ STATUS' rule (R186). -/
def ruleReadStatus (s : State) : State × Response := (s, ⟨.ok, .status s.statusView⟩)

def takeReadStatus (l : Link) : State → State := takeCommand l 0x30#8 none ruleReadStatus

/-- READ_STATUS (R186). -/
def execReadStatus (l : Link) (s : State) : Host.Outcome State Fault Refusal := event (takeReadStatus l) s

/-! ## READ BAY (R3) -/

/-- R3: a cabin reading as a reply shows it, its age in seconds. -/
def Cabin.shown (c : Cabin) : Cabin := { c with age := ageSeconds c.age }

/-- R3 and 11, Bay reply: what the bay reply carries. -/
def State.bayView (s : State) (b : BayNo) : BayView where
  bay := b
  state := (s.bay b).state
  occupied := (s.bay b).occupied
  plug := (s.bay b).plug
  link := (s.bay b).link
  current := (s.bay b).current
  hold := (s.bay b).hold
  conflict := (s.bay b).conflict
  unconfirmed := (s.bay b).unconfirmed
  heatingOn := (s.seq.member b).isSome
  coach := (s.bay b).coach
  cls := (s.bay b).cls
  cabin := (s.bay b).cabin.map Cabin.shown
  cabinAtUnplug := (s.bay b).cabinAtUnplug
  feeder := (s.bay b).feeder
  silent := s.silent b
  underTest := s.underTest b
  readSince := s.reader.readSince[b]
  marks := s.store.marks[b]
  signal := s.clearance.signals[b]
  boundRef := (s.book.boundTo b).map (·.ref)
  lamp := s.lamp.results[b].map fun r => (r.outcome, ageMinutes r.age)
  plan := s.planner.results[b]
  missed := s.seq.missed[b]
  dropped := (s.bay b).dropped

/-- READ BAY's rule (R3). -/
def ruleReadBay (b : BayNo) (s : State) : State × Response := (s, ⟨.ok, .bay (s.bayView b)⟩)

def takeReadBay (l : Link) (bay : Byte) : State → State := takeCommand l 0x31#8 (some bay) (ruleReadBay (bayOf bay))

/-- READ_BAY (R3). -/
def execReadBay (l : Link) (bay : Byte) (s : State) : Host.Outcome State Fault Refusal := event (takeReadBay l bay) s

/-! ## READ DEFECTS (R153) -/

/-- READ DEFECTS' rule (R136, R153). -/
def ruleReadDefects (b : BayNo) (position : Byte) (s : State) : State × Response :=
  (s, if 15 < position.toNat then refusal .notFound
    else ⟨.ok, .defects b s.store.lists[b].length s.store.marks[b] (s.readView b)
      (((s.store.lists[b].drop position.toNat).take 4).map Defect.shown)⟩)

def takeReadDefects (l : Link) (bay position : Byte) : State → State :=
  takeCommand l 0x33#8 (some bay) (ruleReadDefects (bayOf bay) position)

/-- READ_DEFECTS (R153). -/
def execReadDefects (l : Link) (bay position : Byte) (s : State) : Host.Outcome State Fault Refusal :=
  event (takeReadDefects l bay position) s

/-! ## READ LAMP RESULT (R117) -/

/-- The engine that releases a bay's harness. -/
def State.engineReleasing (s : State) (b : BayNo) : Option EngineNo :=
  (List.finRange 2).find? fun e => s.lamp.engines[e] == .releasing b

/-- R117: the bay's test. A test queued or running is shown before a release of the same bay's harness (R104). -/
def State.testView (s : State) (b : BayNo) : TestView :=
  match s.lamp.queue.find? (·.bay == b) with
  | some q => .queued q.level (s.lamp.queue.findIdx (·.bay == b))
  | none =>
    match s.engineTesting b with
    | some e =>
      match s.lamp.engines[e] with
      | .running t => .running e t.circuit
      | .free | .releasing _ => .absent
    | none =>
      match s.engineReleasing b with
      | some e => .releasing e
      | none => .absent

/-- READ LAMP RESULT's rule (R117). -/
def ruleReadLampResult (b : BayNo) (s : State) : State × Response :=
  (s, ⟨.ok, .lamp (s.lamp.results[b].map LampResult.shown) (s.lampFresh b) (s.testView b) s.lamp.queue (s.lamp.engines.map Engine.view)⟩)

def takeReadLampResult (l : Link) (bay : Byte) : State → State :=
  takeCommand l 0x34#8 (some bay) (ruleReadLampResult (bayOf bay))

/-- READ_LAMP_RESULT (R117). -/
def execReadLampResult (l : Link) (bay : Byte) (s : State) : Host.Outcome State Fault Refusal :=
  event (takeReadLampResult l bay) s

/-! ## READ CHAIN (R101) -/

/-- The bays that hold units, with them; R101 gives them no order, and they stand here in ascending bay number (log 43). -/
def holders (v : Vector (Option UnitsOn) 24) : List (BayNo × UnitsOn) := allBays.filterMap fun b => v[b].map fun u => (b, u)

/-- R101: the summary. -/
def State.chainSummary (s : State) : ChainSummary where
  inForce := s.planner.inForce
  index := s.seq.index
  remaining := secondsLeft s.seq.timer
  feedAlarm := s.seq.feedAlarm
  total := s.seq.total
  feeders := s.seq.feeders
  load := s.seq.load
  feederLoads := Vector.ofFn fun f => s.seq.loadOn f
  entries := s.seq.chain.length
  pinned := s.seq.pinned
  onSet := s.seq.onSet
  held := holders s.seq.held
  stuck := holders s.seq.stuck

/-- R101: up to 16 entries from a position, each with its position. -/
def Sequencer.entriesFrom (q : Sequencer) (p : Nat) : List (Nat × Entry) :=
  ((q.chain.drop p).take 16).mapIdx fun i e => (p + i, e)

/-- READ CHAIN's rule (R101). -/
def ruleReadChain (sel : ChainSelector) (s : State) : State × Response :=
  (s, match sel with
    | .summary => ⟨.ok, .chainSummary s.chainSummary⟩
    | .fromPosition p =>
      if 63 < p.toNat then refusal .notFound else ⟨.ok, .chain s.seq.chain.length (s.seq.entriesFrom p.toNat)⟩)

def takeReadChain (l : Link) (sel : ChainSelector) : State → State := takeCommand l 0x35#8 none (ruleReadChain sel)

/-- READ_CHAIN (R101). -/
def execReadChain (l : Link) (sel : ChainSelector) (s : State) : Host.Outcome State Fault Refusal :=
  event (takeReadChain l sel) s

/-! ## READ CLASS (R29) and READ RULE (R132) -/

/-- READ CLASS' rule (R29). -/
def ruleReadClass (cls : Byte) (s : State) : State × Response :=
  (s, if h : cls.toNat < 16 then ⟨.ok, .classRecord s.classes[cls.toNat]⟩ else refusal .notFound)

def takeReadClass (l : Link) (cls : Byte) : State → State := takeCommand l 0x36#8 none (ruleReadClass cls)

/-- READ_CLASS (R29). -/
def execReadClass (l : Link) (cls : Byte) (s : State) : Host.Outcome State Fault Refusal := event (takeReadClass l cls) s

/-- READ RULE's rule (R132). -/
def ruleReadRule (index : Byte) (s : State) : State × Response :=
  (s, if h : index.toNat < 32 then ⟨.ok, .rule s.reader.rules[index.toNat]⟩ else refusal .notFound)

def takeReadRule (l : Link) (index : Byte) : State → State := takeCommand l 0x37#8 none (ruleReadRule index)

/-- READ_RULE (R132). -/
def execReadRule (l : Link) (index : Byte) (s : State) : Host.Outcome State Fault Refusal := event (takeReadRule l index) s

/-! ## REQUEST LAMP TEST (R104) and REQUEST FAULT READ (R123) -/

/-- The status of an answer to a lamp test request. -/
def RequestAnswer.status : RequestAnswer → Status
  | .ok => .ok
  | .merged => .merged
  | .queueFull => .queueFull
  | .wrongState => .wrongState

/-- REQUEST LAMP TEST's rule (R104): a ROUTINE request. -/
def ruleRequestLampTest (b : BayNo) (s : State) : State × Response :=
  let r := requestTest b .routine s
  (if r.2 = .ok then arbitrate r.1 else r.1, ⟨r.2.status, .empty⟩)

def takeRequestLampTest (l : Link) (bay : Byte) : State → State :=
  takeCommand l 0x38#8 (some bay) (ruleRequestLampTest (bayOf bay))

/-- REQUEST_LAMP_TEST (R104). -/
def execRequestLampTest (l : Link) (bay : Byte) (s : State) : Host.Outcome State Fault Refusal :=
  event (takeRequestLampTest l bay) s

/-- The status of an answer to a read request. -/
def ReadAnswer.status : ReadAnswer → Status
  | .ok => .ok
  | .merged => .merged
  | .wrongState => .wrongState

/-- REQUEST FAULT READ's rule (R123). -/
def ruleRequestFaultRead (b : BayNo) (s : State) : State × Response :=
  let r := requestFaultReading b s
  (if r.2 = .ok then arbitrate r.1 else r.1, ⟨r.2.status, .empty⟩)

def takeRequestFaultRead (l : Link) (bay : Byte) : State → State :=
  takeCommand l 0x39#8 (some bay) (ruleRequestFaultRead (bayOf bay))

/-- REQUEST_FAULT_READ (R123). -/
def execRequestFaultRead (l : Link) (bay : Byte) (s : State) : Host.Outcome State Fault Refusal :=
  event (takeRequestFaultRead l bay) s

/-! ## READ NOTICES (R189) -/

/-- READ NOTICES' rule (R189): the link's whole pending set, emptied. -/
def ruleReadNotices (l : Link) (s : State) : State × Response :=
  (s.updPort l fun p => { p with notices := Notices.empty }, ⟨.ok, .notices (s.port l).notices⟩)

def takeReadNotices (l : Link) : State → State := takeCommand l 0x3A#8 none (ruleReadNotices l)

/-- READ_NOTICES (R189). -/
def execReadNotices (l : Link) (s : State) : Host.Outcome State Fault Refusal := event (takeReadNotices l) s

end Sys2Proof.Machine
end

