-- ==== Sys2Proof/Machine/Layouts.lean ====
section
/-! DEFINITION. The frame of a link and its 16-bit check, and the reply layouts that 11, Layouts, gives, as bytes. Replies to which it
gives no layout hold their content only (log 23). -/

namespace Sys2Proof.Machine

/-! ## The frame (11, Layouts) -/

/-- The sync byte. -/
def syncByte : Byte := 0xC3#8

/-- One bit of the 16-bit check. -/
def crc16Bit (r : BitVec 16) (bit : Bool) : BitVec 16 :=
  if (r.msb != bit) = true then (r <<< 1) ^^^ 0x1021#16 else r <<< 1

/-- The check over the length, code and payload bytes. -/
def crc16 (bytes : List Byte) : Half := (bytes.flatMap byteBits).foldl crc16Bit 0xFFFF#16

/-- A frame: sync, payload length, code, payload, check. -/
def frameBytes (code : Byte) (payload : List Byte) : List Byte :=
  let body := BitVec.ofNat 8 payload.length :: code :: payload
  syncByte :: body ++ halfBytes (crc16 body)

/-! ## Fields -/

def byteOf (n : Nat) : Byte := BitVec.ofNat 8 n
def wordOf (n : Nat) : List Byte := halfBytes (BitVec.ofNat 16 n)
def signedOf (i : Int) : List Byte := halfBytes (BitVec.ofInt 16 i)

/-- A byte of eight flags, the first at bit 0. -/
def flagsByte (bits : List Bool) : Byte :=
  byteOf ((bits.zipIdx.map fun p => if p.1 then 2 ^ p.2 else 0).sum)

/-- An optional temperature: 0x8000 when absent. -/
def temperatureBytes : Option Int → List Byte
  | some t => signedOf t
  | none => [0x80#8, 0x00#8]

/-- An optional number: d when absent. -/
def optionalByte (d : Nat) (v : Option Nat) : Byte := byteOf (v.getD d)

def BayState.byte : BayState → Byte
  | .closed => 0#8 | .empty => 1#8 | .arrived => 2#8 | .bound => 3#8 | .cleared => 4#8 | .leaving => 5#8

def Aspect.byte : Aspect → Byte
  | .red => 0#8 | .green => 1#8 | .alert => 2#8

def LampOutcome.byte : LampOutcome → Byte
  | .passed => 1#8 | .passedWithNotes => 2#8 | .failed => 3#8 | .incomplete _ => 4#8

def DepartureState.byte : DepartureState → Byte
  | .booked => 0#8 | .bound => 1#8 | .clearing => 2#8 | .cleared => 3#8

def Source.byte : Source → Byte
  | .fault => 0#8 | .lamp => 1#8 | .post => 2#8 | .manual => 3#8

def Action.byte : Action → Byte
  | .block => 0#8 | .inhibit => 1#8 | .note => 2#8

def ReadReason.byte : ReadReason → Byte
  | .noPlug => 1#8 | .postSilent => 2#8 | .noCoach => 3#8 | .harnessFault => 4#8 | .busFailed => 5#8 | .plugRemoved => 6#8

/-- The outcome and the reason of a last read. -/
def ReadOutcome.bytes : ReadOutcome → List Byte
  | .complete => [1#8, 0#8]
  | .truncated => [2#8, 0#8]
  | .unstable => [3#8, 0#8]
  | .failed r => [4#8, r.byte]

/-- The status codes' values (11, Status codes). -/
def Status.byte : Status → Byte
  | .ok => 0x00#8 | .okClamped => 0x01#8 | .pending => 0x02#8 | .merged => 0x03#8 | .already => 0x04#8
  | .notPermitted => 0x05#8 | .badCommand => 0x06#8 | .noBay => 0x07#8 | .notFound => 0x08#8 | .exists => 0x09#8
  | .full => 0x0A#8 | .queueFull => 0x0B#8 | .wrongState => 0x0C#8 | .occupied => 0x0D#8 | .stillPresent => 0x0E#8
  | .clockUnset => 0x0F#8 | .outOfRange => 0x10#8

/-! ## Replies -/

/-- The bay reply, 23 bytes (READ BAY). -/
def BayView.bytes (v : BayView) : List Byte :=
  [byteOf v.bay.val, v.state.byte,
    flagsByte [v.occupied, v.plug, v.link, v.current, v.hold, v.conflict, v.unconfirmed, v.heatingOn]]
  ++ wordOf (v.coach.getD 0)
  ++ [optionalByte 255 (v.cls.map (·.val))]
  ++ temperatureBytes (v.cabin.map (·.temperature))
  ++ (match v.cabin with
    | some c => wordOf c.age
    | none => halfBytes (Config.openField 0))
  ++ temperatureBytes v.cabinAtUnplug
  ++ [byteOf v.feeder.val ||| flagsByte [false, false, v.silent, v.underTest, v.readSince, v.marks.fault, v.marks.lamp, v.marks.post],
    v.signal.byte]
  ++ wordOf (v.boundRef.getD 0)
  ++ (match v.lamp with
    | some x => x.1.byte :: wordOf x.2
    | none => [0#8, 0#8, 0#8])
  ++ [v.plan.causes.setWidth 8, byteOf v.plan.turns, byteOf v.missed, byteOf v.dropped]

/-- The departure reply, 20 bytes (READ DEPARTURE). The echoes of BOOK and AMEND, which 11 gives no layout, are sent in it (log 23). -/
def DepartureView.bytes (v : DepartureView) : List Byte :=
  wordOf v.ref ++ wordOf v.minute ++ wordOf (v.coach.getD 0) ++ temperatureBytes v.target
  ++ [byteOf v.lead, v.state.byte, optionalByte 255 (v.bay.map (·.val))]
  ++ wordOf (v.overdue.getD 0)
  ++ wordOf v.ahead
  ++ [byteOf v.position]
  ++ (match v.reasons with
    | some rs => halfBytes (0x8000#16 ||| rs.setWidth 16)
    | none => [0#8, 0#8])
  ++ [if v.cold then 1#8 else 0#8, byteOf v.timer]

/-- A defect entry, 17 bytes. -/
def DefectView.bytes (d : DefectView) : List Byte :=
  wordOf d.id ++ [d.source.byte] ++ wordOf d.code
  ++ [d.action.byte,
    match d.state with
    | .opened => 0#8
    | .acknowledged => 1#8
    | .deferred _ => 2#8,
    match d.present with
    | some false => 0#8
    | some true => 1#8
    | none => 255#8,
    byteOf d.count, optionalByte 255 d.severity]
  ++ (match d.detail with
    | some x => (if x.high then 2#8 else 1#8) :: wordOf x.current
    | none => [0#8, 0#8, 0#8])
  ++ wordOf d.age
  ++ wordOf (match d.state with
    | .deferred minutes => minutes
    | .opened | .acknowledged => 0)

/-- The read record, 12 bytes. -/
def ReadView.bytes (v : ReadView) : List Byte :=
  (match v.reading with
    | some r => [1#8, byteOf r.1, byteOf r.2]
    | none => [0#8, 0#8, 0#8])
  ++ (match v.last with
    | some x =>
      x.outcome.bytes
      ++ [optionalByte 0 (x.pageZero.map (·.1)), optionalByte 255 (x.pageZero.map (·.2)), byteOf x.transactions]
      ++ wordOf x.age
    | none => [0#8, 0#8, 0#8, 255#8, (Config.openField 1).setWidth 8, 0#8, 0#8])
  ++ wordOf (v.countdown.getD 0)

/-- The marks byte of the READ DEFECTS reply. -/
def Marks.byte (m : Marks) : Byte := flagsByte [m.fault, m.lamp, m.post]

/-- A bay set, three bytes; bay b is bit b from the least significant bit of the last. -/
def baySetBytes (b : BaySet) : List Byte := [b.extractLsb' 16 8, b.extractLsb' 8 8, b.extractLsb' 0 8]

/-- The notices reply, 23 bytes. -/
def Notices.bytes (n : Notices) : List Byte :=
  [n.kinds] ++ baySetBytes n.bay ++ baySetBytes n.departure ++ baySetBytes n.clearance ++ baySetBytes n.defect
  ++ baySetBytes n.lamp ++ baySetBytes n.post ++ baySetBytes n.planner ++ [if n.anomaly then 1#8 else 0#8]

/-- The payload bytes of the replies whose layout 11, Layouts, gives; none for the others. -/
def Reply.bytes : Reply → Option (List Byte)
  | .empty => some []
  | .bay v => some v.bytes
  | .departure v => some v.bytes
  | .clearance ref rs => some (wordOf ref ++ halfBytes (rs.setWidth 16))
  | .defects b n m v ds => some ([byteOf b.val, byteOf n, m.byte] ++ v.bytes ++ ds.flatMap DefectView.bytes)
  | .defect _ d => some d.bytes
  | .notices n => some n.bytes
  | .noticeMask m => some [m]
  | .causes c => some [c.setWidth 8]
  | _ => none

/-- R184: the response frame, when its payload's layout is given. -/
def Response.frame (r : Response) : Option (List Byte) := r.reply.bytes.map (frameBytes r.status.byte)

end Sys2Proof.Machine
end

