-- ==== Sys2Proof/Machine/Settings.lean ====
section
/-! DEFINITION. The settings commands: SET CLOCK (03), SET PLANNER and SET WEATHER (04), SET FEED LIMITS (05), SET LAMP FRESHNESS (06),
SET SCAN PERIOD (07), SET CLEARANCE WINDOW (09), the two masks of a link (04, 11) and CLEAR PLANNER FLAGS (04). -/

namespace Sys2Proof.Machine

/-! ## SET CLOCK (R35) -/

/-- R35: the clock takes the time; its next second falls one second later. -/
def setTime (minute second : Nat) (s : State) : State := { s with clock := ⟨true, minute, second, secondMs⟩ }

/-- R35: the records, not overdue, whose minute lies behind the clock: m above 720. -/
def State.behindClock (s : State) : List Departure :=
  s.book.records.filter fun d => d.overdue.isNone && 720 < minutesAheadOf d.minute s.clock.minute

/-- R35: every record behind the clock becomes overdue with overdue minutes 1440 - m, the book is put back into its order, and R47 acts
on those made overdue with 240 or more: one after another in book order, each with its own try of R44, an order R35 and R47 leave open
(log 36). -/
def judgeBook (s : State) : State :=
  let late := s.behindClock
  let s := reorder (late.foldl (fun s d => becomeOverdue d (1440 - minutesAheadOf d.minute s.clock.minute) s) s)
  ((s.book.records.map (·.ref)).filter fun r => late.any (·.ref == r)).foldl (fun s r => autoCancel r s) s

/-- SET CLOCK's rule (R35). -/
def ruleSetClock (minute : Half) (second : Byte) (s : State) : State × Response :=
  let m := min 1439 minute.toNat
  let c := min 59 second.toNat
  (judgeBook (setTime m c s), ⟨takenStatus (m != minute.toNat || c != second.toNat), .clock m c⟩)

def takeSetClock (l : Link) (minute : Half) (second : Byte) : State → State :=
  takeCommand l 0x10#8 none (ruleSetClock minute second)

/-- SET_CLOCK (R35). -/
def execSetClock (l : Link) (minute : Half) (second : Byte) (s : State) : Host.Outcome State Fault Refusal :=
  event (takeSetClock l minute second) s

/-! ## SET WEATHER (R58) -/

/-- SET WEATHER's rule (R58). -/
def ruleSetWeather (temperature : Half) (s : State) : State × Response :=
  let t := clampInt (-960) 640 (signed temperature)
  (s.updPlanner fun p => { p with outdoor := t, outdoorAge := some 0 },
    ⟨takenStatus (t != signed temperature), .weather t⟩)

def takeSetWeather (l : Link) (temperature : Half) : State → State := takeCommand l 0x11#8 none (ruleSetWeather temperature)

/-- SET_WEATHER (R58). -/
def execSetWeather (l : Link) (temperature : Half) (s : State) : Host.Outcome State Fault Refusal :=
  event (takeSetWeather l temperature) s

/-! ## SET FEED LIMITS (R92) -/

/-- A limit as the command leaves it: the one carried, clamped, or the one that stood. -/
def limitTaken (most old : Nat) (v : Option Byte) : Nat :=
  match v with
  | some b => min most b.toNat
  | none => old

/-- Whether a limit carried was clamped. -/
def limitClamped (most : Nat) (v : Option Byte) : Bool :=
  match v with
  | some b => most < b.toNat
  | none => false

/-- R92: the limits after the command. -/
def setLimits (a : FeedLimitArgs) (s : State) : State :=
  s.updSeq fun q =>
    { q with
      total := limitTaken 96 q.total a.total
      feeders := #v[limitTaken 48 q.feeders[0] a.feeder0, limitTaken 48 q.feeders[1] a.feeder1,
        limitTaken 48 q.feeders[2] a.feeder2, limitTaken 48 q.feeders[3] a.feeder3] }

/-- SET FEED LIMITS' rule (R92): a lowered limit sheds at once. -/
def ruleSetFeedLimits (a : FeedLimitArgs) (s : State) : State × Response :=
  let s := setLimits a s
  (arbitrate (shed s),
    ⟨takenStatus (limitClamped 96 a.total || limitClamped 48 a.feeder0 || limitClamped 48 a.feeder1 || limitClamped 48 a.feeder2
        || limitClamped 48 a.feeder3), .feedLimits s.seq.total s.seq.feeders⟩)

def takeSetFeedLimits (l : Link) (a : FeedLimitArgs) : State → State := takeCommand l 0x12#8 none (ruleSetFeedLimits a)

/-- SET_FEED_LIMITS (R92, R93). -/
def execSetFeedLimits (l : Link) (a : FeedLimitArgs) (s : State) : Host.Outcome State Fault Refusal :=
  event (takeSetFeedLimits l a) s

/-! ## SET PLANNER (R56) -/

/-- R56: the nearest of the four slot lengths. -/
def nearestSlot (v : Nat) : Nat := if v < 23 then 15 else if v < 38 then 30 else if v < 53 then 45 else 60

/-- R55: the rounding mode a byte names; none for any other value. -/
def roundingOf (b : Byte) : Option Rounding :=
  if b = 0#8 then some .nearest else if b = 1#8 then some .towardZero else none

/-- A temperature setting carried, clamped, or the one that stood. -/
def settingTaken (low high old : Int) (v : Option Half) : Int :=
  match v with
  | some h => clampInt low high (signed h)
  | none => old

/-- Whether a temperature setting carried was clamped. -/
def settingClamped (low high : Int) (v : Option Half) : Bool :=
  match v with
  | some h => clampInt low high (signed h) != signed h
  | none => false

/-- R56: the settings after a command that passes; the rounding mode is the one it names, or the one that stood. -/
def setPlannerSettings (a : PlannerArgs) (mode : Rounding) (s : State) : State :=
  s.updPlanner fun p =>
    { p with
      slotLength := match a.slotLength with
        | some b => nearestSlot b.toNat
        | none => p.slotLength
      rounding := mode
      frostFloor := settingTaken 0 160 p.frostFloor a.frostFloor
      tolerance := settingTaken 8 80 p.tolerance a.tolerance
      defaultTarget := settingTaken 160 384 p.defaultTarget a.defaultTarget }

/-- R56: a value of the command was brought into its range. -/
def plannerClamped (a : PlannerArgs) : Bool :=
  (match a.slotLength with
    | some b => nearestSlot b.toNat != b.toNat
    | none => false)
    || settingClamped 0 160 a.frostFloor || settingClamped 8 80 a.tolerance || settingClamped 160 384 a.defaultTarget

/-- R55, R56: the five settings with the slot length in force. -/
def Planner.view (p : Planner) : PlannerView :=
  ⟨p.slotLength, p.rounding, p.frostFloor, p.tolerance, p.defaultTarget, p.inForce⟩

/-- The rounding mode in effect after the command; none when it names neither. -/
def roundingTaken (old : Rounding) (v : Option Byte) : Option Rounding :=
  match v with
  | some b => roundingOf b
  | none => some old

/-- SET PLANNER's rule (R56). -/
def ruleSetPlanner (a : PlannerArgs) (s : State) : State × Response :=
  match roundingTaken s.planner.rounding a.rounding with
  | none => (s, refusal .badCommand)
  | some mode =>
    let s := setPlannerSettings a mode s
    (s, ⟨takenStatus (plannerClamped a), .planner s.planner.view⟩)

def takeSetPlanner (l : Link) (a : PlannerArgs) : State → State := takeCommand l 0x13#8 none (ruleSetPlanner a)

/-- SET_PLANNER (R56). -/
def execSetPlanner (l : Link) (a : PlannerArgs) (s : State) : Host.Outcome State Fault Refusal := event (takeSetPlanner l a) s

/-! ## SET LAMP FRESHNESS (R116), SET CLEARANCE WINDOW (R156), SET SCAN PERIOD (R130) -/

/-- SET LAMP FRESHNESS' rule (R116). -/
def ruleSetLampFreshness (minutes : Half) (s : State) : State × Response :=
  let m := clampNat 15 480 minutes.toNat
  (s.updLamp fun u => { u with freshness := m }, ⟨takenStatus (m != minutes.toNat), .minutes m⟩)

def takeSetLampFreshness (l : Link) (minutes : Half) : State → State :=
  takeCommand l 0x14#8 none (ruleSetLampFreshness minutes)

/-- SET_LAMP_FRESHNESS (R116). -/
def execSetLampFreshness (l : Link) (minutes : Half) (s : State) : Host.Outcome State Fault Refusal :=
  event (takeSetLampFreshness l minutes) s

/-- SET CLEARANCE WINDOW's rule (R156). -/
def ruleSetClearanceWindow (minutes : Byte) (s : State) : State × Response :=
  let m := clampNat 5 60 minutes.toNat
  (s.updClearance fun c => { c with window := m }, ⟨takenStatus (m != minutes.toNat), .minutes m⟩)

def takeSetClearanceWindow (l : Link) (minutes : Byte) : State → State :=
  takeCommand l 0x15#8 none (ruleSetClearanceWindow minutes)

/-- SET_CLEARANCE_WINDOW (R156). -/
def execSetClearanceWindow (l : Link) (minutes : Byte) (s : State) : Host.Outcome State Fault Refusal :=
  event (takeSetClearanceWindow l minutes) s

/-- SET SCAN PERIOD's rule (R130): countdowns above the new period are cut to it. -/
def ruleSetScanPeriod (minutes : Byte) (s : State) : State × Response :=
  let m := clampNat 1 60 minutes.toNat
  (s.updReader fun x => { x with period := m, scan := x.scan.map (·.map (min (minutesMs m))) },
    ⟨takenStatus (m != minutes.toNat), .minutes m⟩)

def takeSetScanPeriod (l : Link) (minutes : Byte) : State → State := takeCommand l 0x27#8 none (ruleSetScanPeriod minutes)

/-- SET_SCAN_PERIOD (R130). -/
def execSetScanPeriod (l : Link) (minutes : Byte) (s : State) : Host.Outcome State Fault Refusal :=
  event (takeSetScanPeriod l minutes) s

/-! ## The masks of a link (R77, R188) and the sticky flags (R76) -/

/-- SET NOTICE MASK's rule (R188): the byte's eight bits are the eight kinds. -/
def ruleSetNoticeMask (l : Link) (kinds : Byte) (s : State) : State × Response :=
  (s.updPort l fun p => { p with noticeMask := kinds }, ⟨.ok, .noticeMask kinds⟩)

def takeSetNoticeMask (l : Link) (kinds : Byte) : State → State := takeCommand l 0x3B#8 none (ruleSetNoticeMask l kinds)

/-- SET_NOTICE_MASK (R188). -/
def execSetNoticeMask (l : Link) (kinds : Byte) (s : State) : Host.Outcome State Fault Refusal :=
  event (takeSetNoticeMask l kinds) s

/-- SET PLANNER ENABLES' rule (R77): bits 6 and 7 name something other than the six causes. -/
def ruleSetPlannerEnables (l : Link) (causes : Byte) (s : State) : State × Response :=
  if causes.getLsbD 6 || causes.getLsbD 7 then (s, refusal .badCommand)
  else
    let c : CauseSet := causes.setWidth 6
    (s.updPort l fun p => { p with plannerMask := c }, ⟨.ok, .causes c⟩)

def takeSetPlannerEnables (l : Link) (causes : Byte) : State → State :=
  takeCommand l 0x3C#8 none (ruleSetPlannerEnables l causes)

/-- SET_PLANNER_ENABLES (R77). -/
def execSetPlannerEnables (l : Link) (causes : Byte) (s : State) : Host.Outcome State Fault Refusal :=
  event (takeSetPlannerEnables l causes) s

/-- CLEAR PLANNER FLAGS' rule (R76). -/
def ruleClearPlannerFlags (s : State) : State × Response :=
  (s.updPlanner fun p => { p with sticky := CauseSet.none }, ⟨.ok, .empty⟩)

def takeClearPlannerFlags (l : Link) : State → State := takeCommand l 0x3D#8 none ruleClearPlannerFlags

/-- CLEAR_PLANNER_FLAGS (R76). -/
def execClearPlannerFlags (l : Link) (s : State) : Host.Outcome State Fault Refusal := event (takeClearPlannerFlags l) s

end Sys2Proof.Machine
end

