-- ==== Sys2Proof/Machine/Workshop.lean ====
section
/-! DEFINITION. The workshop's commands: bays (01), the class table (02), pins (05), the rule table (07), defects (08), and ABORT LAMP
TEST (06). -/

namespace Sys2Proof.Machine

/-! ## Bays (R15 to R18) -/

/-- OPEN BAY's rule (R15). -/
def ruleOpenBay (b : BayNo) (s : State) : State × Response :=
  if (s.bay b).state = .closed then (openBay b s, ⟨.ok, .empty⟩) else (s, refusal .wrongState)

def takeOpenBay (l : Link) (bay : Byte) : State → State := takeCommand l 0x20#8 (some bay) (ruleOpenBay (bayOf bay))

/-- OPEN_BAY (R15). -/
def execOpenBay (l : Link) (bay : Byte) (s : State) : Host.Outcome State Fault Refusal := event (takeOpenBay l bay) s

/-- CLOSE BAY's rule (R16). -/
def ruleCloseBay (b : BayNo) (s : State) : State × Response :=
  match (s.bay b).state with
  | .empty => (closeBay b s, ⟨.ok, .empty⟩)
  | .arrived | .bound | .cleared | .leaving => (s, refusal .occupied)
  | .closed => (s, refusal .already)

def takeCloseBay (l : Link) (bay : Byte) : State → State := takeCommand l 0x21#8 (some bay) (ruleCloseBay (bayOf bay))

/-- CLOSE_BAY (R16). -/
def execCloseBay (l : Link) (bay : Byte) (s : State) : Host.Outcome State Fault Refusal := event (takeCloseBay l bay) s

/-- R17: the states in which HOLD and UNHOLD are taken. -/
def BayState.holdable : BayState → Bool
  | .arrived | .bound | .cleared | .leaving => true
  | .closed | .empty => false

/-- R17, R22, R165: the hold is set; heating loses the bay, and a clearance is revoked. -/
def placeHold (b : BayNo) (s : State) : State :=
  let st := (s.bay b).state
  let s := setHold b true s
  let s := if st = .bound ∨ st = .cleared then leaveOnSet b s else s
  arbitrate (if st = .cleared ∨ st = .leaving then reportToClearance b s else s)

/-- HOLD's rule (R17). -/
def ruleHold (b : BayNo) (s : State) : State × Response :=
  if !(s.bay b).state.holdable then (s, refusal .wrongState)
  else if (s.bay b).hold then (s, refusal .already)
  else (placeHold b s, ⟨.ok, .empty⟩)

def takeHold (l : Link) (bay : Byte) : State → State := takeCommand l 0x22#8 (some bay) (ruleHold (bayOf bay))

/-- HOLD (R17, R165). -/
def execHold (l : Link) (bay : Byte) (s : State) : Host.Outcome State Fault Refusal := event (takeHold l bay) s

/-- UNHOLD's rule (R17). -/
def ruleUnhold (b : BayNo) (s : State) : State × Response :=
  if !(s.bay b).state.holdable then (s, refusal .wrongState)
  else if (s.bay b).hold then (setHold b false s, ⟨.ok, .empty⟩)
  else (s, refusal .already)

def takeUnhold (l : Link) (bay : Byte) : State → State := takeCommand l 0x23#8 (some bay) (ruleUnhold (bayOf bay))

/-- UNHOLD (R17). -/
def execUnhold (l : Link) (bay : Byte) (s : State) : Host.Outcome State Fault Refusal := event (takeUnhold l bay) s

/-- R18: a BAY notice is posted when the field changes. -/
def setFeeder (b : BayNo) (f : Fin 4) (s : State) : State :=
  if (s.bay b).feeder = f then s else notifyBay .bay b (s.updBay b fun r => { r with feeder := f })

/-- ASSIGN FEEDER's rule (R18). -/
def ruleAssignFeeder (b : BayNo) (feeder : Byte) (s : State) : State × Response :=
  if h : feeder.toNat < 4 then (setFeeder b ⟨feeder.toNat, h⟩ s, ⟨.ok, .empty⟩) else (s, refusal .notFound)

def takeAssignFeeder (l : Link) (bay feeder : Byte) : State → State :=
  takeCommand l 0x24#8 (some bay) (ruleAssignFeeder (bayOf bay) feeder)

/-- ASSIGN_FEEDER (R18). -/
def execAssignFeeder (l : Link) (bay feeder : Byte) (s : State) : Host.Outcome State Fault Refusal :=
  event (takeAssignFeeder l bay feeder) s

/-! ## The class table (R26 to R28) -/

/-- R24: the action of a circuit; none for one other than BLOCK or NOTE. -/
def lampActionOf (b : Byte) : Option LampAction :=
  match actionOf b with
  | some .block => some .block
  | some .note => some .note
  | some .inhibit | none => none

/-- A circuit number is named twice. -/
def hasDuplicate : List Nat → Bool
  | [] => false
  | x :: xs => xs.contains x || hasDuplicate xs

/-- R26: the first case that applies. -/
def classRefusal (a : ClassArgs) : Option Status :=
  if 15 < a.cls.toNat then some .notFound
  else if a.circuits.any fun c => 15 < c.circuit.toNat then some .notFound
  else if 16 < a.circuits.length || hasDuplicate (a.circuits.map (·.circuit.toNat)) then some .badCommand
  else if a.circuits.any fun c => (lampActionOf c.action).isNone then some .badCommand
  else none

/-- R27: the settle time, clamped, and set to the nearest multiple of 50 ms, halves to the larger. -/
def settleTaken (h : Half) : Nat := (clampNat 100 1000 h.toNat + 25) / 50 * 50

/-- R27: a circuit's window, each end clamped and the two in order. -/
def circuitTaken (c : CircuitArgs) : Circuit :=
  let low := min 4000 c.minimum.toNat
  let high := min 4000 c.maximum.toNat
  ⟨min low high, max low high, (lampActionOf c.action).getD .note⟩

/-- R26: the lamp set written; a circuit not named is undefined. -/
def lampSetOf (cs : List CircuitArgs) : LampSet :=
  Vector.ofFn fun i => (cs.find? fun c => c.circuit.toNat == i.val).map circuitTaken

/-- R27: the record as taken. -/
def classTaken (a : ClassArgs) : ClassRecord where
  units := clampNat 1 8 a.units.toNat
  loss := min 8191 a.loss.toNat
  gain := min 4095 a.gain.toNat
  lamps := lampSetOf a.circuits
  settle := settleTaken a.settle
  autoTest := a.autoTest

/-- R27: a value was brought into its range. -/
def classClamped (a : ClassArgs) : Bool :=
  let r := classTaken a
  r.units != a.units.toNat || r.loss != a.loss.toNat || r.gain != a.gain.toNat || r.settle != a.settle.toNat
    || a.circuits.any fun c => (circuitTaken c).minimum != c.minimum.toNat || (circuitTaken c).maximum != c.maximum.toNat

/-- The class a byte below 16 names. -/
def classIndex (b : Byte) : Fin 16 := Fin.ofNat 16 b.toNat

/-- Writes a class (R26, R28). -/
def setClass (c : Fin 16) (r : Option ClassRecord) (s : State) : State := { s with classes := s.classes.set c r }

/-- WRITE CLASS' rule for a whole record (R26, R27). -/
def ruleWriteClass (a : ClassArgs) (s : State) : State × Response :=
  match classRefusal a with
  | some st => (s, refusal st)
  | none =>
    (setClass (classIndex a.cls) (some (classTaken a)) s,
      ⟨takenStatus (classClamped a), .classRecord (some (classTaken a))⟩)

def takeWriteClass (l : Link) (a : ClassArgs) : State → State := takeCommand l 0x25#8 none (ruleWriteClass a)

/-- WRITE_CLASS (R26, R27). -/
def execWriteClass (l : Link) (a : ClassArgs) (s : State) : Host.Outcome State Fault Refusal := event (takeWriteClass l a) s

/-- R28: every bay of the on-set with that class number leaves it. -/
def dropClass (c : Fin 16) (s : State) : State :=
  (s.seq.onSet.filter fun m => (s.bay m.bay).cls == some c).foldl (fun s m => leaveOnSet m.bay s) s

/-- WRITE CLASS' rule with the remove indication (R26, R28). -/
def ruleClassRemove (cls : Byte) (s : State) : State × Response :=
  if 15 < cls.toNat then (s, refusal .notFound)
  else if (s.classes[classIndex cls]).isNone then (s, refusal .already)
  else (arbitrate (dropClass (classIndex cls) (setClass (classIndex cls) none s)), ⟨.ok, .empty⟩)

def takeClassRemove (l : Link) (cls : Byte) : State → State := takeCommand l 0x25#8 none (ruleClassRemove cls)

/-- CLASS_REMOVE (R28). -/
def execClassRemove (l : Link) (cls : Byte) (s : State) : Host.Outcome State Fault Refusal := event (takeClassRemove l cls) s

/-! ## The fault rule table (R132) -/

/-- R132: a code, clamped to 1..65534. -/
def codeTaken (h : Half) : Nat := clampNat 1 65534 h.toNat

/-- R132: the entry as taken, the codes in order. -/
def ruleTaken (low high : Half) (x : Action) : Rule :=
  ⟨min (codeTaken low) (codeTaken high), max (codeTaken low) (codeTaken high), x⟩

/-- R132: a code was clamped, or the two were exchanged. -/
def ruleClamped (low high : Half) : Bool :=
  codeTaken low != low.toNat || codeTaken high != high.toNat || codeTaken high < codeTaken low

/-- The entry an index below 32 names. -/
def ruleIndex (b : Byte) : Fin 32 := Fin.ofNat 32 b.toNat

/-- Writes an entry of the rule table. -/
def setRule (i : Fin 32) (r : Option Rule) (s : State) : State := s.updReader fun x => { x with rules := x.rules.set i r }

/-- WRITE RULE's rule (R132). An index above 31 with an action outside the set is NOT_FOUND: R132 gives the two refusals no order (log 35). -/
def ruleWriteRule (index : Byte) (a : RuleArgs) (s : State) : State × Response :=
  if 31 < index.toNat then (s, refusal .notFound)
  else
    match a with
    | .unused => (setRule (ruleIndex index) none s, ⟨.ok, .rule none⟩)
    | .use low high action =>
      match actionOf action with
      | none => (s, refusal .badCommand)
      | some x =>
        (setRule (ruleIndex index) (some (ruleTaken low high x)) s,
          ⟨takenStatus (ruleClamped low high), .rule (some (ruleTaken low high x))⟩)

def takeWriteRule (l : Link) (index : Byte) (a : RuleArgs) : State → State := takeCommand l 0x26#8 none (ruleWriteRule index a)

/-- WRITE_RULE (R132). -/
def execWriteRule (l : Link) (index : Byte) (a : RuleArgs) (s : State) : Host.Outcome State Fault Refusal :=
  event (takeWriteRule l index a) s

/-! ## Pins (R82, R83) -/

/-- The most pinned entries (R81). -/
def pinRoom : Nat := 16

/-- PIN's rule (R82). -/
def rulePin (b : BayNo) (s : State) : State × Response :=
  if (s.bay b).state = .closed then (s, refusal .wrongState)
  else if pinRoom ≤ s.seq.pinned ∨ chainRoom ≤ s.seq.chain.length then (s, refusal .full)
  else (s.updSeq (·.addPin b), ⟨.ok, .position s.seq.pinned⟩)

def takePin (l : Link) (bay : Byte) : State → State := takeCommand l 0x28#8 (some bay) (rulePin (bayOf bay))

/-- PIN (R82). -/
def execPin (l : Link) (bay : Byte) (s : State) : Host.Outcome State Fault Refusal := event (takePin l bay) s

/-- UNPIN's rule (R83). -/
def ruleUnpin (position : Byte) (s : State) : State × Response :=
  if s.seq.pinned ≤ position.toNat then (s, refusal .notFound)
  else (s.updSeq (·.removeEntry position.toNat), ⟨.ok, .empty⟩)

def takeUnpin (l : Link) (position : Byte) : State → State := takeCommand l 0x29#8 none (ruleUnpin position)

/-- UNPIN (R83). -/
def execUnpin (l : Link) (position : Byte) (s : State) : Host.Outcome State Fault Refusal := event (takeUnpin l position) s

/-! ## Defects (R143 to R148) -/

/-- The entry with an id changes where it stands, with the DEFECT notice of a taken command (R154). -/
def changeDefect (b : BayNo) (id : Nat) (f : Defect → Defect) (s : State) : State :=
  notifyBay .defect b (s.updStore (·.updateWhere b (·.id == id) f))

/-- ACKNOWLEDGE's rule (R143). -/
def ruleAcknowledge (id : Half) (s : State) : State × Response :=
  match s.store.find id.toNat with
  | none => (s, refusal .notFound)
  | some (b, d) =>
    match d.state with
    | .opened =>
      (changeDefect b id.toNat (fun d => { d with state := .acknowledged }) s,
        ⟨.ok, .defect b ({ d with state := .acknowledged } : Defect).shown⟩)
    | .acknowledged | .deferred _ => (s, refusal .wrongState)

def takeAcknowledge (l : Link) (id : Half) : State → State := takeCommand l 0x2A#8 none (ruleAcknowledge id)

/-- ACKNOWLEDGE (R143). -/
def execAcknowledge (l : Link) (id : Half) (s : State) : Host.Outcome State Fault Refusal := event (takeAcknowledge l id) s

/-- DEFER's rule (R144): every state of an entry is deferred, or its deferral replaced. -/
def ruleDefer (id minutes : Half) (s : State) : State × Response :=
  match s.store.find id.toNat with
  | none => (s, refusal .notFound)
  | some (b, d) =>
    let m := clampNat 1 1440 minutes.toNat
    (changeDefect b id.toNat (fun d => { d with state := .deferred (minutesMs m) }) s,
      ⟨takenStatus (m != minutes.toNat), .defect b ({ d with state := .deferred (minutesMs m) } : Defect).shown⟩)

def takeDefer (l : Link) (id minutes : Half) : State → State := takeCommand l 0x2B#8 none (ruleDefer id minutes)

/-- DEFER (R144). -/
def execDefer (l : Link) (id minutes : Half) (s : State) : Host.Outcome State Fault Refusal := event (takeDefer l id minutes) s

/-- CLOSE DEFECT's rule (R147): a MANUAL entry carries no present flag. -/
def ruleCloseDefect (id : Half) (s : State) : State × Response :=
  match s.store.find id.toNat with
  | none => (s, refusal .notFound)
  | some (b, d) =>
    if d.source = .manual ∨ d.present = some false then
      (notifyBay .defect b (s.updStore (·.removeWhere b (·.id == id.toNat))), ⟨.ok, .defect b d.shown⟩)
    else (s, refusal .stillPresent)

def takeCloseDefect (l : Link) (id : Half) : State → State := takeCommand l 0x2C#8 none (ruleCloseDefect id)

/-- CLOSE_DEFECT (R147). -/
def execCloseDefect (l : Link) (id : Half) (s : State) : Host.Outcome State Fault Refusal := event (takeCloseDefect l id) s

/-- R148: the MANUAL entry a command creates. -/
def manualDefect (code : Nat) (x : Action) : NewDefect := ⟨.manual, code, x, none, 1, none, none⟩

/-- R148: a MANUAL entry with this code stands on the bay's list. -/
def State.hasManual (s : State) (b : BayNo) (code : Nat) : Bool :=
  s.store.lists[b].any fun d => d.source == .manual && d.code == code

/-- R148, R149, R150: the entry has been created; its notice and its reports. -/
def reportManual (b : BayNo) (x : Action) (s : State) : State :=
  let s := notifyBay .defect b s
  match x with
  | .block => reportToClearance b s
  | .inhibit => leaveOnSet b s
  | .note => s

/-- The reply that echoes the entry last created on the bay's list. -/
def Store.newest (st : Store) (b : BayNo) : Reply :=
  match st.lists[b].getLast? with
  | some d => .defect b d.shown
  | none => .empty

/-- ENTER DEFECT's rule (R148). -/
def ruleEnterDefect (b : BayNo) (code : Half) (action : Byte) (s : State) : State × Response :=
  match actionOf action with
  | none => (s, refusal .badCommand)
  | some x =>
    if !s.boundAt b then (s, refusal .wrongState)
    else if s.hasManual b (codeTaken code) then (s, refusal .exists)
    else
      match s.store.create b (manualDefect (codeTaken code) x) with
      | none => (s, refusal .full)
      | some st =>
        (arbitrate (reportManual b x { s with store := st }), ⟨takenStatus (codeTaken code != code.toNat), st.newest b⟩)

def takeEnterDefect (l : Link) (bay : Byte) (code : Half) (action : Byte) : State → State :=
  takeCommand l 0x2D#8 (some bay) (ruleEnterDefect (bayOf bay) code action)

/-- ENTER_DEFECT (R148). -/
def execEnterDefect (l : Link) (bay : Byte) (code : Half) (action : Byte) (s : State) : Host.Outcome State Fault Refusal :=
  event (takeEnterDefect l bay code action) s

/-! ## ABORT LAMP TEST (R115) -/

/-- R115: a queued test is withdrawn, with its result and its end. -/
def abortQueued (b : BayNo) (s : State) : State :=
  endTest b (writeResult b (.incomplete .aborted) none (s.updLamp fun u => { u with queue := u.queue.filter (·.bay != b) }))

/-- ABORT LAMP TEST's rule (R115). -/
def ruleAbortLampTest (b : BayNo) (s : State) : State × Response :=
  match s.engineTesting b with
  | some e => (arbitrate (takeAll (abortTest e .aborted s)), ⟨.ok, .empty⟩)
  | none =>
    if s.lamp.queue.any (·.bay == b) then (arbitrate (abortQueued b s), ⟨.ok, .empty⟩)
    else (s, refusal .notFound)

def takeAbortLampTest (l : Link) (bay : Byte) : State → State := takeCommand l 0x2E#8 (some bay) (ruleAbortLampTest (bayOf bay))

/-- ABORT_LAMP_TEST (R115). -/
def execAbortLampTest (l : Link) (bay : Byte) (s : State) : Host.Outcome State Fault Refusal := event (takeAbortLampTest l bay) s

end Sys2Proof.Machine
end

