-- ==== Sys2Proof/Machine/Links.lean ====
section
/-! DEFINITION. The receivers of the links (R181 to R183), byte by byte, and the frame that a last byte completes (R184). -/

namespace Sys2Proof.Machine

/-! ## The command of a complete frame -/

/-- The command a link's frame spells, taken; an event that no frame spells does nothing. -/
def runCommand (c : Instr) (s : State) : State :=
  match c with
  | .setClock l m sec => takeSetClock l m sec s
  | .setWeather l t => takeSetWeather l t s
  | .setFeedLimits l a => takeSetFeedLimits l a s
  | .setPlanner l a => takeSetPlanner l a s
  | .setLampFreshness l m => takeSetLampFreshness l m s
  | .setClearanceWindow l m => takeSetClearanceWindow l m s
  | .book l a => takeBook l a s
  | .amend l a => takeAmend l a s
  | .assignCoach l r c => takeAssignCoach l r c s
  | .cancel l r => takeCancel l r s
  | .requestClearance l r cold => takeRequestClearance l r cold s
  | .withdrawClearance l r => takeWithdrawClearance l r s
  | .readDepartureLog l i => takeReadDepartureLog l i s
  | .depotRestart l => takeDepotRestart l s
  | .openBay l b => takeOpenBay l b s
  | .closeBay l b => takeCloseBay l b s
  | .hold l b => takeHold l b s
  | .unhold l b => takeUnhold l b s
  | .assignFeeder l b f => takeAssignFeeder l b f s
  | .writeClass l a => takeWriteClass l a s
  | .classRemove l c => takeClassRemove l c s
  | .writeRule l i a => takeWriteRule l i a s
  | .setScanPeriod l m => takeSetScanPeriod l m s
  | .pin l b => takePin l b s
  | .unpin l p => takeUnpin l p s
  | .acknowledge l i => takeAcknowledge l i s
  | .defer l i m => takeDefer l i m s
  | .closeDefect l i => takeCloseDefect l i s
  | .enterDefect l b c x => takeEnterDefect l b c x s
  | .abortLampTest l b => takeAbortLampTest l b s
  | .readStatus l => takeReadStatus l s
  | .readBay l b => takeReadBay l b s
  | .readDeparture l sel => takeReadDeparture l sel s
  | .readDefects l b p => takeReadDefects l b p s
  | .readLampResult l b => takeReadLampResult l b s
  | .readChain l sel => takeReadChain l sel s
  | .readClass l c => takeReadClass l c s
  | .readRule l i => takeReadRule l i s
  | .requestLampTest l b => takeRequestLampTest l b s
  | .requestFaultRead l b => takeRequestFaultRead l b s
  | .readNotices l => takeReadNotices l s
  | .setNoticeMask l k => takeSetNoticeMask l k s
  | .setPlannerEnables l x => takeSetPlannerEnables l x s
  | .clearPlannerFlags l => takeClearPlannerFlags l s
  | _ => s

/-- The code of REQUEST CLEARANCE. -/
def clearanceCode : Byte := 0x1C#8

/-- 11, Command payloads: the ref of a REQUEST CLEARANCE payload stands in its first two bytes; free is the ref of one too short to hold
them (log 16). -/
def clearanceRef (payload : List Byte) (free : Half) : Half :=
  match payload with
  | hi :: lo :: _ => half hi lo
  | _ => free

/-- R184: the refusal of a frame whose payload length is wrong: one of REQUEST CLEARANCE carries its ref and a reason set (log 16). -/
def refuseFrame (l : Link) (code : Byte) (payload : List Byte) (st : Status) (s : State) : State :=
  if code = clearanceCode then
    withFreeReasons (fun free s => answer l (clearanceReply (clearanceRef payload (Config.openRef s.choices)) st free) s) s
  else answer l (refusal st) s

/-- R184: a good frame, its code known or not, is taken. -/
def takeFrame (l : Link) (code : Byte) (payload : List Byte) (s : State) : State :=
  if !knownCode code then answer l (refusal .badCommand) s
  else
    match parsePayload l code payload with
    | some c => runCommand c s
    | none => refuseFrame l code payload (if permitted l code then .badCommand else .notPermitted) s

/-! ## The receiver (R182) -/

/-- R182: the gap timer; the gap exceeds 1 s when it runs out. -/
def gapTime : Nat := 1001

/-- Puts a link's receiver into a state; the gap timer starts afresh. -/
def setReceiver (l : Link) (r : Receiver) (s : State) : State :=
  s.updPort l fun p => { p with receiver := r, gap := if r = .idle then 0 else gapTime }

/-- R182: a frame in RECEIVING is discarded: the frame error count rises and the receiver is IDLE. -/
def discardFrame (l : Link) (s : State) : State :=
  setReceiver l .idle (s.updPort l fun p => { p with frameErrors := sat16 (p.frameErrors + 1) })

/-- R182: a sync byte that arrives while the responder is SENDING. -/
def startOverrun (l : Link) (s : State) : State := setReceiver l (.discarding none) (countOverrun l s)

/-- R182: the bytes after the sync byte, split into length, code, payload and check. -/
def splitFrame : List Byte → Option (Byte × Byte × List Byte × List Byte)
  | n :: code :: rest => some (n, code, rest.take n.toNat, rest.drop n.toNat)
  | _ => none

/-- R182: the frame's last check byte has arrived. -/
def completeFrame (l : Link) (bytes : List Byte) (s : State) : State :=
  match splitFrame bytes with
  | none => discardFrame l s
  | some (n, code, payload, check) =>
    if check = halfBytes (crc16 (n :: code :: payload)) then takeFrame l code payload (setReceiver l .idle s)
    else discardFrame l s

/-- The most bytes a payload has (11, Layouts). -/
def mostPayload : Nat := 120

/-- R182, RECEIVING: the bytes with the one that arrives; the length byte is judged as it arrives. -/
def receiveNext (l : Link) (bytes : List Byte) (s : State) : State :=
  match bytes with
  | [] => s
  | n :: _ =>
    if mostPayload < n.toNat then discardFrame l s
    else if bytes.length = n.toNat + 4 then completeFrame l bytes s
    else setReceiver l (.receiving bytes) s

/-- R182, DISCARDING: the length byte tells how many bytes remain; after the last the receiver is IDLE. -/
def skipNext (l : Link) (left : Option Nat) (byte : Byte) (s : State) : State :=
  match left with
  | none => if mostPayload < byte.toNat then setReceiver l .idle s else setReceiver l (.discarding (some (byte.toNat + 3))) s
  | some k => if k ≤ 1 then setReceiver l .idle s else setReceiver l (.discarding (some (k - 1))) s

/-- R182: one byte. -/
def receiveByte (l : Link) (byte : Byte) (stopGood : Bool) (s : State) : State :=
  match (s.port l).receiver with
  | .idle =>
    if stopGood && byte == syncByte then
      if (s.port l).sending then startOverrun l s else setReceiver l (.receiving []) s
    else s
  | .receiving bytes => if stopGood then receiveNext l (bytes ++ [byte]) s else discardFrame l s
  | .discarding left => if stopGood then skipNext l left byte s else setReceiver l .idle s

/-! ## Meanings -/

/-- LINK_BYTE_RECEIVED (R182, R184). -/
def execLinkByteReceived (l : Link) (byte : Byte) (stopGood : Bool) (s : State) : Host.Outcome State Fault Refusal :=
  event (receiveByte l byte stopGood) s

/-- R184, check 1: a good frame whose code is no command code; a code that is one is not this event (log 7). -/
def takeUnknownCode (l : Link) (code : Byte) (s : State) : State :=
  if knownCode code then s
  else if (s.port l).sending then countOverrun l s
  else answer l (refusal .badCommand) s

/-- UNKNOWN_COMMAND_CODE (R184). -/
def execUnknownCommandCode (l : Link) (code : Byte) (s : State) : Host.Outcome State Fault Refusal :=
  event (takeUnknownCode l code) s

/-- R182: a discard. In DISCARDING a length above 120 or a bad stop bit ends the skipping with no count; an IDLE receiver has no frame to
discard (log 7). -/
def frameDiscarded (l : Link) (cause : DiscardCause) (s : State) : State :=
  match (s.port l).receiver, cause with
  | .idle, _ => s
  | .receiving _, _ => discardFrame l s
  | .discarding none, .lengthAbove120 | .discarding _, .badStopBit => setReceiver l .idle s
  | .discarding _, _ => s

/-- FRAME_DISCARD (R182). -/
def execFrameDiscard (l : Link) (cause : DiscardCause) (s : State) : Host.Outcome State Fault Refusal :=
  event (frameDiscarded l cause) s

/-- R182: an overrun, when the receiver is IDLE and the responder is SENDING (log 7). -/
def overrunStarts (l : Link) (s : State) : State :=
  if (s.port l).sending && (s.port l).receiver == .idle then startOverrun l s else s

/-- OVERRUN (R182). -/
def execOverrun (l : Link) (s : State) : Host.Outcome State Fault Refusal := event (overrunStarts l) s

/-- R182: a gap of more than 1 s discards the frame being received, or ends the skipping. -/
def gapExceeded (l : Link) (s : State) : State :=
  match (s.port l).receiver with
  | .idle => s
  | .receiving _ => discardFrame l s
  | .discarding _ => setReceiver l .idle s

/-- BYTE_GAP_TIMEOUT (R182). -/
def execByteGapTimeout (l : Link) (s : State) : Host.Outcome State Fault Refusal := event (gapExceeded l) s

/-- R183: the receiver is IDLE and every pending notice is cleared; nothing else is touched. -/
def breakLine (l : Link) (s : State) : State :=
  (setReceiver l .idle s).updPort l fun p => { p with notices := Notices.empty }

/-- LINE_BREAK (R183). -/
def execLineBreak (l : Link) (s : State) : Host.Outcome State Fault Refusal := event (breakLine l) s

/-- R182: the responder is FREE after the last byte of its response. -/
def responseEnd (l : Link) (s : State) : State := s.updPort l fun p => { p with responder := .free }

/-- RESPONSE_SENT (R182). -/
def execResponseSent (l : Link) (s : State) : Host.Outcome State Fault Refusal := event (responseEnd l) s

end Sys2Proof.Machine
end

