-- ==== Sys2Proof/Machine/TimeBase.lean ====
section
/-! DEFINITION. The part's own time base, which moves the machine while no command waits (log 1): the events that are due, the choice
among them (log 2), and one elapsed millisecond. -/

namespace Sys2Proof.Machine

/-! ## Due events -/

/-- The event when the condition holds. -/
def dueIf (c : Bool) (e : Instr) : List Instr := if c then [e] else []

/-- The events due at a bay's own timers. -/
def State.dueAtBay (s : State) (b : BayNo) : List Instr :=
  dueIf ((s.bay b).sense == some 0) (.senseCountdownExpiry b)
    ++ dueIf ((s.bay b).retry == some 0) (.identRetryExpiry b)
    ++ dueIf (s.reader.scan[b] == some 0) (.scanCountdownExpiry b)
    ++ dueIf (s.clearance.alerts[b] == some 0) (.alertTimerExpiry b)
    ++ dueIf (s.bus.posts[b].probe == some 0) (.probeTimerExpiry b)

/-- The settle timers that have run out. -/
def State.dueSettles (s : State) : List Instr :=
  (List.finRange 2).flatMap fun e =>
    match s.lamp.engines[e] with
    | .running t => dueIf (t.settling == some 0) (.settleTimerExpiry e)
    | .free | .releasing _ => []

/-- The records whose overdue minutes rise. -/
def State.dueRises (s : State) : List Instr :=
  (s.book.records.filter fun d => d.overdue.any (·.rise == 0)).map fun d => .overdueRise (BitVec.ofNat 16 d.ref)

/-- The deferrals that have run out. -/
def State.dueDeferrals (s : State) : List Instr :=
  (s.store.entries.filter fun d => d.state == .deferred 0).map fun d => .deferralExpiry (BitVec.ofNat 16 d.id)

/-- The pending clearances whose timer has run out. -/
def State.duePending (s : State) : List Instr :=
  (s.clearance.pending.filter (·.timer == 0)).map fun p => .pendingTimerExpiry (BitVec.ofNat 16 p.ref)

/-- A response window that has ended, with the order of a third failure a free choice (log 3); and the idle timer on an idle bus. -/
def State.dueOnBus (s : State) : List Instr :=
  match s.bus.wire with
  | .busy t =>
    dueIf (t.timer == some 0) (.responseTimeout (if Config.silenceFirst s.choices then .silenceFirst else .failureFirst))
  | .free => dueIf (s.bus.idle == 0 && s.bus.waiting.isEmpty) .idleTimerExpiry
  | .quiet => []

/-- A gap of more than 1 s on a link. -/
def State.dueOnLink (s : State) (l : Link) : List Instr :=
  dueIf ((s.port l).receiver != .idle && (s.port l).gap == 0) (.byteGapTimeout l)

/-- Every event due now. -/
def State.dueEvents (s : State) : List Instr :=
  dueIf (s.clock.isSet && s.clock.phase == 0) .clockSecond ++ dueIf (s.seq.timer == 0) .slotTimerExpiry
    ++ allBays.flatMap s.dueAtBay ++ s.dueSettles ++ s.dueRises ++ s.dueDeferrals ++ s.duePending ++ s.dueOnBus
    ++ s.dueOnLink .dispatch ++ s.dueOnLink .workshop

/-- The due event that is taken next; which of several is a free choice (log 2). None while the reset line is held. -/
def State.nextDue (s : State) : Option Instr :=
  if s.resetHeld then none else s.dueEvents[Config.duePick s.choices % s.dueEvents.length]?

/-- The choice of this event is spent. -/
def State.chosen (s : State) : State := { s with choices := s.choices + 1 }

/-! ## One millisecond -/

/-- A running timer falls by one. -/
def fall (t : Option Nat) : Option Nat := t.map (· - 1)

def Bay.elapse (r : Bay) : Bay := { r with retry := fall r.retry, sense := fall r.sense }

def Departure.elapse (d : Departure) : Departure :=
  { d with overdue := d.overdue.map fun o => { o with rise := o.rise - 1 } }

def Engine.elapse : Engine → Engine
  | .running t => .running { t with settling := fall t.settling }
  | .free => .free
  | .releasing b => .releasing b

def Defect.elapse (d : Defect) : Defect :=
  match d.state with
  | .deferred ms => { d with state := .deferred (ms - 1) }
  | .opened | .acknowledged => d

def Wire.elapse : Wire → Wire
  | .busy t => .busy { t with timer := fall t.timer }
  | .free => .free
  | .quiet => .quiet

def Bus.elapse (u : Bus) : Bus :=
  { u with wire := u.wire.elapse, idle := u.idle - 1, posts := u.posts.map fun p => { p with probe := fall p.probe } }

def Port.elapse (p : Port) : Port := { p with gap := p.gap - 1 }

/-- Every timer of the part falls by one millisecond. -/
def State.runTimers (s : State) : State :=
  { s with
    now := s.now + 1
    clock := { s.clock with phase := s.clock.phase - 1 }
    bays := s.bays.map Bay.elapse
    book := { s.book with records := s.book.records.map Departure.elapse }
    seq := { s.seq with timer := s.seq.timer - 1 }
    lamp := { s.lamp with engines := s.lamp.engines.map Engine.elapse }
    reader := { s.reader with scan := s.reader.scan.map fall }
    store := { s.store with lists := s.store.lists.map (·.map Defect.elapse) }
    clearance := { s.clearance with
      pending := s.clearance.pending.map fun p => { p with timer := p.timer - 1 }
      alerts := s.clearance.alerts.map fall }
    bus := s.bus.elapse
    dispatch := s.dispatch.elapse
    workshop := s.workshop.elapse }

/-- One millisecond of the time base: timers run and ages grow (log 5). -/
def passMillisecond (s : State) : State := ageRecords 1 (ageCabins 1 s.runTimers)

/-- What the time base does when no event is due: the arbiter grants a request that waits at a free bus (log 10), else a millisecond
passes; nothing while the reset line is held. -/
def timePasses (s : State) : State :=
  if s.resetHeld then s
  else match s.bus.wire with
    | .free => if s.bus.waiting.isEmpty then passMillisecond s else arbitrate s
    | .busy _ | .quiet => passMillisecond s

end Sys2Proof.Machine
end

