-- ==== Sys2Proof/Machine/Dispatch.lean ====
section
/-! DEFINITION. The meaning of every command and event: one arm for each constructor of Instr, in the order of the opcode table. -/

namespace Sys2Proof.Machine

def exec (i : Instr) (s : State) : Host.Outcome State Fault Refusal :=
  match i with
  | .powerOnReset baysStrap feedStrap => Sys2Proof.Machine.execPowerOnReset baysStrap feedStrap s
  | .feedAlarmAsserted => Sys2Proof.Machine.execFeedAlarmAsserted s
  | .feedAlarmReleased => Sys2Proof.Machine.execFeedAlarmReleased s
  | .setClock l minute second => Sys2Proof.Machine.execSetClock l minute second s
  | .setWeather l temperature => Sys2Proof.Machine.execSetWeather l temperature s
  | .setFeedLimits l a => Sys2Proof.Machine.execSetFeedLimits l a s
  | .setPlanner l a => Sys2Proof.Machine.execSetPlanner l a s
  | .setLampFreshness l minutes => Sys2Proof.Machine.execSetLampFreshness l minutes s
  | .setClearanceWindow l minutes => Sys2Proof.Machine.execSetClearanceWindow l minutes s
  | .book l a => Sys2Proof.Machine.execBook l a s
  | .amend l a => Sys2Proof.Machine.execAmend l a s
  | .assignCoach l ref coach => Sys2Proof.Machine.execAssignCoach l ref coach s
  | .cancel l ref => Sys2Proof.Machine.execCancel l ref s
  | .requestClearance l ref cold => Sys2Proof.Machine.execRequestClearance l ref cold s
  | .withdrawClearance l ref => Sys2Proof.Machine.execWithdrawClearance l ref s
  | .readDepartureLog l index => Sys2Proof.Machine.execReadDepartureLog l index s
  | .depotRestart l => Sys2Proof.Machine.execDepotRestart l s
  | .openBay l bay => Sys2Proof.Machine.execOpenBay l bay s
  | .closeBay l bay => Sys2Proof.Machine.execCloseBay l bay s
  | .hold l bay => Sys2Proof.Machine.execHold l bay s
  | .unhold l bay => Sys2Proof.Machine.execUnhold l bay s
  | .assignFeeder l bay feeder => Sys2Proof.Machine.execAssignFeeder l bay feeder s
  | .writeClass l a => Sys2Proof.Machine.execWriteClass l a s
  | .classRemove l cls => Sys2Proof.Machine.execClassRemove l cls s
  | .writeRule l index a => Sys2Proof.Machine.execWriteRule l index a s
  | .setScanPeriod l minutes => Sys2Proof.Machine.execSetScanPeriod l minutes s
  | .pin l bay => Sys2Proof.Machine.execPin l bay s
  | .unpin l position => Sys2Proof.Machine.execUnpin l position s
  | .acknowledge l id => Sys2Proof.Machine.execAcknowledge l id s
  | .defer l id minutes => Sys2Proof.Machine.execDefer l id minutes s
  | .closeDefect l id => Sys2Proof.Machine.execCloseDefect l id s
  | .enterDefect l bay code action => Sys2Proof.Machine.execEnterDefect l bay code action s
  | .abortLampTest l bay => Sys2Proof.Machine.execAbortLampTest l bay s
  | .readStatus l => Sys2Proof.Machine.execReadStatus l s
  | .readBay l bay => Sys2Proof.Machine.execReadBay l bay s
  | .readDeparture l sel => Sys2Proof.Machine.execReadDeparture l sel s
  | .readDefects l bay position => Sys2Proof.Machine.execReadDefects l bay position s
  | .readLampResult l bay => Sys2Proof.Machine.execReadLampResult l bay s
  | .readChain l sel => Sys2Proof.Machine.execReadChain l sel s
  | .readClass l cls => Sys2Proof.Machine.execReadClass l cls s
  | .readRule l index => Sys2Proof.Machine.execReadRule l index s
  | .requestLampTest l bay => Sys2Proof.Machine.execRequestLampTest l bay s
  | .requestFaultRead l bay => Sys2Proof.Machine.execRequestFaultRead l bay s
  | .readNotices l => Sys2Proof.Machine.execReadNotices l s
  | .setNoticeMask l kinds => Sys2Proof.Machine.execSetNoticeMask l kinds s
  | .setPlannerEnables l causes => Sys2Proof.Machine.execSetPlannerEnables l causes s
  | .clearPlannerFlags l => Sys2Proof.Machine.execClearPlannerFlags l s
  | .unknownCommandCode l code => Sys2Proof.Machine.execUnknownCommandCode l code s
  | .frameDiscard l cause => Sys2Proof.Machine.execFrameDiscard l cause s
  | .overrun l => Sys2Proof.Machine.execOverrun l s
  | .byteGapTimeout l => Sys2Proof.Machine.execByteGapTimeout l s
  | .lineBreak l => Sys2Proof.Machine.execLineBreak l s
  | .responseSent l => Sys2Proof.Machine.execResponseSent l s
  | .senseCountdownExpiry b => Sys2Proof.Machine.execSenseCountdownExpiry b s
  | .identRetryExpiry b => Sys2Proof.Machine.execIdentRetryExpiry b s
  | .postResponse r order => Sys2Proof.Machine.execPostResponse r order s
  | .responseTimeout order => Sys2Proof.Machine.execResponseTimeout order s
  | .probeTimerExpiry b => Sys2Proof.Machine.execProbeTimerExpiry b s
  | .allOffSent => Sys2Proof.Machine.execAllOffSent s
  | .idleTimerExpiry => Sys2Proof.Machine.execIdleTimerExpiry s
  | .clockSecond => Sys2Proof.Machine.execClockSecond s
  | .overdueRise ref => Sys2Proof.Machine.execOverdueRise ref s
  | .slotTimerExpiry => Sys2Proof.Machine.execSlotTimerExpiry s
  | .settleTimerExpiry e => Sys2Proof.Machine.execSettleTimerExpiry e s
  | .scanCountdownExpiry b => Sys2Proof.Machine.execScanCountdownExpiry b s
  | .deferralExpiry id => Sys2Proof.Machine.execDeferralExpiry id s
  | .pendingTimerExpiry ref => Sys2Proof.Machine.execPendingTimerExpiry ref s
  | .alertTimerExpiry b => Sys2Proof.Machine.execAlertTimerExpiry b s
  | .linkByteReceived l byte stopGood => Sys2Proof.Machine.execLinkByteReceived l byte stopGood s
  | .quietFrameSent => Sys2Proof.Machine.execQuietFrameSent s
  | .badResponse cause order => Sys2Proof.Machine.execBadResponse cause order s
  | .resetLineHeld => Sys2Proof.Machine.execResetLineHeld s
  | .ageRise unit => Sys2Proof.Machine.execAgeRise unit s

end Sys2Proof.Machine
end

