-- ==== Sys2Proof/Machine/Payloads.lean ====
section
/-! DEFINITION. The link commands as frames: the link, the code, the bay named and the payload of each, written from the tables of 11
(R185 and Command payloads). parsePayload reads what payloadOf writes. -/

namespace Sys2Proof.Machine

/-- The link a command arrives on; none for an event that is no link command. -/
def linkOf (c : Instr) : Option Link :=
  match c with
  | .setClock l .. | .setWeather l _ | .setFeedLimits l _ | .setPlanner l _ | .setLampFreshness l _ | .setClearanceWindow l _
  | .book l _ | .amend l _ | .assignCoach l .. | .cancel l _ | .requestClearance l .. | .withdrawClearance l _
  | .readDepartureLog l _ | .depotRestart l | .openBay l _ | .closeBay l _ | .hold l _ | .unhold l _ | .assignFeeder l ..
  | .writeClass l _ | .classRemove l _ | .writeRule l .. | .setScanPeriod l _ | .pin l _ | .unpin l _ | .acknowledge l _
  | .defer l .. | .closeDefect l _ | .enterDefect l .. | .abortLampTest l _ | .readStatus l | .readBay l _ | .readDeparture l _
  | .readDefects l .. | .readLampResult l _ | .readChain l _ | .readClass l _ | .readRule l _ | .requestLampTest l _
  | .requestFaultRead l _ | .readNotices l | .setNoticeMask l _ | .setPlannerEnables l _ | .clearPlannerFlags l => some l
  | _ => none

/-- R185: the code of a link command. -/
def codeOf (c : Instr) : Option Byte :=
  match c with
  | .setClock .. => some 0x10#8
  | .setWeather .. => some 0x11#8
  | .setFeedLimits .. => some 0x12#8
  | .setPlanner .. => some 0x13#8
  | .setLampFreshness .. => some 0x14#8
  | .setClearanceWindow .. => some 0x15#8
  | .book .. => some 0x18#8
  | .amend .. => some 0x19#8
  | .assignCoach .. => some 0x1A#8
  | .cancel .. => some 0x1B#8
  | .requestClearance .. => some 0x1C#8
  | .withdrawClearance .. => some 0x1D#8
  | .readDepartureLog .. => some 0x1E#8
  | .depotRestart .. => some 0x1F#8
  | .openBay .. => some 0x20#8
  | .closeBay .. => some 0x21#8
  | .hold .. => some 0x22#8
  | .unhold .. => some 0x23#8
  | .assignFeeder .. => some 0x24#8
  | .writeClass .. | .classRemove .. => some 0x25#8
  | .writeRule .. => some 0x26#8
  | .setScanPeriod .. => some 0x27#8
  | .pin .. => some 0x28#8
  | .unpin .. => some 0x29#8
  | .acknowledge .. => some 0x2A#8
  | .defer .. => some 0x2B#8
  | .closeDefect .. => some 0x2C#8
  | .enterDefect .. => some 0x2D#8
  | .abortLampTest .. => some 0x2E#8
  | .readStatus .. => some 0x30#8
  | .readBay .. => some 0x31#8
  | .readDeparture .. => some 0x32#8
  | .readDefects .. => some 0x33#8
  | .readLampResult .. => some 0x34#8
  | .readChain .. => some 0x35#8
  | .readClass .. => some 0x36#8
  | .readRule .. => some 0x37#8
  | .requestLampTest .. => some 0x38#8
  | .requestFaultRead .. => some 0x39#8
  | .readNotices .. => some 0x3A#8
  | .setNoticeMask .. => some 0x3B#8
  | .setPlannerEnables .. => some 0x3C#8
  | .clearPlannerFlags .. => some 0x3D#8
  | _ => none

/-- R184, check 4: the bay a link command names. -/
def bayNamed (c : Instr) : Option Byte :=
  match c with
  | .openBay _ b | .closeBay _ b | .hold _ b | .unhold _ b | .assignFeeder _ b _ | .pin _ b | .enterDefect _ b _ _
  | .abortLampTest _ b | .readBay _ b | .readDefects _ b _ | .readLampResult _ b | .requestLampTest _ b | .requestFaultRead _ b => some b
  | _ => none

/-- The bytes that stand for an optional field: its own, or zeros, which are ignored. -/
def optionalHalf (v : Option Half) : List Byte := halfBytes (v.getD 0#16)

/-- A yes or no as a byte. -/
def boolByte (b : Bool) : Byte := if b then 1#8 else 0#8

/-- AMEND's flags and target. -/
def targetFlags : TargetChange → Byte
  | .keep => 0b000#8
  | .set _ => 0b010#8
  | .remove => 0b100#8

def targetBytes : TargetChange → List Byte
  | .set t => halfBytes t
  | .keep | .remove => [0#8, 0#8]

/-- The payload of a link command (11, Command payloads); empty for an event that is none. -/
def payloadOf (c : Instr) : List Byte :=
  match c with
  | .setClock _ m s => halfBytes m ++ [s]
  | .setWeather _ t => halfBytes t
  | .setFeedLimits _ a =>
    [flagBit 0 a.total ||| flagBit 1 a.feeder0 ||| flagBit 2 a.feeder1 ||| flagBit 3 a.feeder2 ||| flagBit 4 a.feeder3,
      a.total.getD 0#8, a.feeder0.getD 0#8, a.feeder1.getD 0#8, a.feeder2.getD 0#8, a.feeder3.getD 0#8]
  | .setPlanner _ a =>
    [flagBit 0 a.slotLength ||| flagBit 1 a.rounding ||| flagBit 2 a.frostFloor ||| flagBit 3 a.tolerance ||| flagBit 4 a.defaultTarget,
      a.slotLength.getD 0#8, a.rounding.getD 0#8]
    ++ optionalHalf a.frostFloor ++ optionalHalf a.tolerance ++ optionalHalf a.defaultTarget
  | .setLampFreshness _ m => halfBytes m
  | .setClearanceWindow _ m => [m]
  | .book _ a =>
    halfBytes a.ref ++ halfBytes a.minute ++ [flagBit 0 a.coach ||| flagBit 1 a.target ||| flagBit 2 a.lead]
    ++ optionalHalf a.coach ++ optionalHalf a.target ++ [a.lead.getD 0#8]
  | .amend _ a =>
    halfBytes a.ref ++ [flagBit 0 a.minute ||| targetFlags a.target ||| flagBit 3 a.lead]
    ++ optionalHalf a.minute ++ targetBytes a.target ++ [a.lead.getD 0#8, 0#8, 0#8]
  | .assignCoach _ r c => halfBytes r ++ halfBytes c
  | .cancel _ r | .withdrawClearance _ r => halfBytes r
  | .requestClearance _ r cold => halfBytes r ++ [boolByte cold]
  | .readDepartureLog _ i => [i]
  | .openBay _ b | .closeBay _ b | .hold _ b | .unhold _ b | .pin _ b | .abortLampTest _ b | .readBay _ b | .readLampResult _ b
  | .requestLampTest _ b | .requestFaultRead _ b => [b]
  | .assignFeeder _ b f => [b, f]
  | .writeClass _ a =>
    [a.cls, a.units] ++ halfBytes a.loss ++ halfBytes a.gain ++ halfBytes a.settle ++ [boolByte a.autoTest] ++ circuitBytes a.circuits
  | .classRemove _ c | .readClass _ c => [c]
  | .writeRule _ i .unused => [i]
  | .writeRule _ i (.use low high x) => [i] ++ halfBytes low ++ halfBytes high ++ [x]
  | .setScanPeriod _ m => [m]
  | .unpin _ p => [p]
  | .acknowledge _ i | .closeDefect _ i => halfBytes i
  | .defer _ i m => halfBytes i ++ halfBytes m
  | .enterDefect _ b c x => [b] ++ halfBytes c ++ [x]
  | .readDeparture _ (.byRef r) => 0#8 :: halfBytes r
  | .readDeparture _ (.byPosition p) => 1#8 :: halfBytes p
  | .readDefects _ b p => [b, p]
  | .readChain _ .summary => [255#8]
  | .readChain _ (.fromPosition p) => [p]
  | .readRule _ i => [i]
  | .setNoticeMask _ k => [k]
  | .setPlannerEnables _ x => [x]
  | _ => []

/-- The bytes of a link, each with a good stop bit, one after the other. -/
def receiveBytes (l : Link) (bytes : List Byte) (s : State) : State := bytes.foldl (fun s b => receiveByte l b true s) s

end Sys2Proof.Machine
end

