-- ==== Sys2Proof/WellFormed.lean ====
section
/-! DEFINITION. The commands and events a sender can present: those a frame of a link or the part's surroundings can spell. The meanings
are total, and do not ask for it. -/

namespace Sys2Proof

/-- R171, R172: a response that is good for some request: an address of a post, a kind, and a sound frame of it. -/
def PostReply.wf (r : PostReply) : Bool :=
  match r.kind, r.status with
  | some k, some st => r.address.toNat < 24 && Machine.soundFrame r k st
  | _, _ => false

/-- Each check is one line; every other command is well formed whatever its operands. -/
def Instr.wf (c : Instr) : Bool :=
  match c with
  | .unknownCommandCode _ code => !Machine.knownCode code
  | .writeClass _ a => a.circuits.length ≤ 18
  | .readChain _ (.fromPosition p) => p != 255#8
  | .overdueRise ref => ref != 0#16
  | .deferralExpiry id => id != 0#16
  | .pendingTimerExpiry ref => ref != 0#16
  | .postResponse r _ => r.wf
  | _ => true

end Sys2Proof
end

