-- ==== Sys2Proof/Safety.lean ====
section
/-! DEFINITION. What statements say of a state: when a link can take a frame, what a response or a reply carries, what leaving the on-set, a
request, a withdrawal, the abort of a test and a record's removal change, and the laws of the device that the spec states as holding at all times
(R38, R81, R89, R104, R105, R137, R13). -/

namespace Sys2Proof.Machine

/-- A frame that arrives now on the link is taken: the reset line is released and the responder is FREE (R182, R190). -/
def State.ready (s : State) (l : Link) : Prop := s.resetHeld = false ∧ (s.port l).responder = .free

/-- The bay a byte names is fitted (R184, check 4). -/
def State.fits (s : State) (b : Byte) : Prop := b.toNat < s.bayCount

/-- Byte i of a payload, and the two-byte field at i, most significant byte first (11, Layouts). -/
def byteAt (bs : List Byte) (i : Nat) : Nat := (bs.getD i 0#8).toNat
def wordAt (bs : List Byte) (i : Nat) : Nat := 256 * byteAt bs i + byteAt bs (i + 1)

/-- R171: a response that is good for the request, with this post status and payload. -/
def answersTo (r : PostReply) (j : Job) (st : PostStatus) (p : PostPayload) : Prop := goodStatus r j = some st ∧ r.payload = p

/-- R52: the reply shows these fields of the record. -/
def DepartureView.shows (v : DepartureView) (d : Departure) : Prop :=
  v.ref = d.ref ∧ v.minute = d.minute ∧ v.coach = d.coach ∧ v.target = d.target ∧ v.lead = d.lead ∧ v.state = d.state ∧ v.bay = d.bay
    ∧ v.overdue = d.overdue.map (·.minutes) ∧ v.reasons = d.reasons

/-- R90, R91: from s to t the bays of the on-set that are gone leave it: their entries become MISSED, each that was commanded ON is commanded OFF
now, with a HEAT request unless its post is SILENT, and nothing else changes. The entries are said for an on-set that holds no bay twice. -/
def State.leaves (s t : State) (gone : BayNo → Bool) : Prop :=
  let off : BayNo → Bool := fun b => s.seq.onSet.any (·.bay == b) && gone b && s.seq.commanded[b].on
  let heats : Request → Bool := fun r => match r.job with
    | .heat b _ => off b
    | _ => false
  t.seq.onSet = s.seq.onSet.filter (fun m => !gone m.bay)
    ∧ t.seq.commanded = Vector.ofFn (fun b => if off b then ⟨false, s.now⟩ else s.seq.commanded[b])
    ∧ ((s.seq.onSet.map (·.bay)).Nodup → t.seq.chain = s.seq.chain.mapIdx fun i e =>
        if s.seq.onSet.any fun m => gone m.bay && m.entry == some i then { e with status := .missed } else e)
    ∧ (∀ b : BayNo, off b = true → s.silent b = false → t.waits (· == .heat b false) = true)
    ∧ t.bus.waiting.filter (fun r => !heats r) = s.bus.waiting.filter (fun r => !heats r)
    ∧ { t with
        seq := { t.seq with onSet := s.seq.onSet, commanded := s.seq.commanded, chain := s.seq.chain }
        bus := { t.bus with waiting := s.bus.waiting } } = s

/-- R90, R166: the bus after the request j, which takes the place of one that waits and is of its kind p, and else stands last. -/
def State.asked (s : State) (p : Job → Bool) (j : Job) : Bus :=
  { s.bus with waiting := if s.bus.waiting.any fun r => p r.job
      then s.bus.waiting.map fun r => if p r.job then { r with job := j } else r
      else s.bus.waiting ++ [⟨j, s.bus.event⟩] }

/-- R166: the bus after a SIGNAL request with this value, which takes the place of one that waits for the bay. -/
def State.signalled (s : State) (b : BayNo) (a : Aspect) : Bus := s.asked (Job.isSignalFor b) (.signal b a)

/-- R179: the bus after the requests p are withdrawn: none of them waits, and one in flight will have its result discarded. -/
def State.withdrawn (s : State) (p : Job → Bool) : Bus :=
  { s.bus with
    waiting := s.bus.waiting.filter fun r => !p r.job
    wire := match s.bus.wire with
      | .busy x => .busy { x with discarded := x.discarded || p x.job }
      | .free => .free
      | .quiet => .quiet }

/-- R113, R119, R120: the abort of the test x that runs on an engine, up to its release: its steps withdrawn, the engine RELEASING, the result,
the merge of the circuits judged, the LAMP notice and the hand-off to a pending clearance. -/
def State.testAborted (s : State) (e : EngineNo) (x : RunningTest) (reason : LampReason) : State :=
  pendingCompletion x.bay (notifyBay .lamp x.bay (mergeInto x.bay (fun st => st.mergePartial x.bay x.results) { s with
    bus := s.withdrawn (Job.isStepOf e)
    lamp := { s.lamp with
      engines := s.lamp.engines.set e (.releasing x.bay)
      results := s.lamp.results.set x.bay (some ⟨.incomplete reason, 0, some x.results⟩) } }))

/-- R50, R53: the state once the record d has left the book: its entry stands last in a log of at most 16, and its DEPARTURE notice is posted. -/
def State.loggedOut (s : State) (d : Departure) (o : LogOutcome) : State :=
  let entry : LogEntry := ⟨s.book.nextSequence, d.ref, o, false, d.bay, d.coach, s.clock.minute,
    d.bay.bind fun b => (s.bay b).cabinAtUnplug,
    d.bay.elim 0 fun b => s.store.lists[b].countP fun x => x.state != .opened && x.state != .acknowledged⟩
  notify .departure (BaySet.ofOption d.bay) { s with book := { s.book with
    records := s.book.records.filter (·.ref != d.ref)
    log := (if 16 ≤ s.book.log.length then s.book.log.drop (s.book.log.length - 15) else s.book.log) ++ [entry]
    nextSequence := (s.book.nextSequence + 1) % 65536 } }

/-- R38: at most 48 records; a ref is 1..65535 and unique in the book. -/
def Book.sound (k : Book) : Prop :=
  k.records.length ≤ 48 ∧ (k.records.map (·.ref)).Nodup ∧ ∀ d ∈ k.records, 1 ≤ d.ref ∧ d.ref ≤ 65535

/-- R137: every slot stands on exactly one of the free list and the bay lists, so that their lengths make 96; no bay list exceeds 16
entries, and none holds two entries with the same source and code. -/
def Store.sound (st : Store) : Prop :=
  (st.free ++ st.entries.map (·.slot)).Perm (List.finRange 96)
    ∧ ∀ b : BayNo, st.lists[b].length ≤ 16 ∧ (st.lists[b].map fun d => (d.source, d.code)).Nodup

/-- R104, R105: at most 8 tests are queued, and no bay appears twice among the tests queued and running; two engines run at most two; the
URGENT entries of the queue stand first. -/
def LampUnit.sound (u : LampUnit) : Prop :=
  u.queue.length ≤ 8 ∧ (u.queue.map (·.bay) ++ u.engines.toList.filterMap Engine.testing).Nodup
    ∧ u.queue.Pairwise fun x y => y.level = .urgent → x.level = .urgent

/-- R81: at most 64 entries, at most 16 of them pinned and those first, at most 16 planned entries of a bay, and no bay switched on
twice in one slot. -/
def Sequencer.chainSound (q : Sequencer) : Prop :=
  q.chain.length ≤ 64 ∧ q.pinned ≤ 16 ∧ ((q.chain.take q.pinned).all (·.pinned)) = true
    ∧ (∀ b : BayNo, q.plannedOf b ≤ 16) ∧ (q.onSet.map (·.bay)).Nodup

/-- R89: the counted load keeps within the total limit and each feeder's limit, unless held and stuck units alone exceed one; then the
on-set is empty. -/
def Sequencer.loadSound (q : Sequencer) : Prop :=
  (q.fixedExceed = false → q.load ≤ q.total ∧ ∀ f : Fin 4, q.loadOn f ≤ q.feeders[f])
    ∧ (q.fixedExceed = true → q.onSet = [])

/-- R13: CLEARED always has the plug present and LEAVING always has it absent. -/
def State.plugSound (s : State) : Prop :=
  ∀ b : BayNo, ((s.bay b).state = .cleared → (s.bay b).plug = true) ∧ ((s.bay b).state = .leaving → (s.bay b).plug = false)

end Sys2Proof.Machine
end

