-- ==== Sys2Proof/Certificates/Slice0/Obligations.lean ====
section
/-! DEFINITION. The statements for the provers, from the rules of spec/. Where a title names a log entry, that clause is the model's choice.
A frame is said by giving the next state whole, or by an equation that puts the changed blocks back. -/

section Statements

open Sys2Proof Sys2Proof.Machine

/-! ## Steps, reset, power-on -/

/-- A step with a command at the front of the queue is exec of that command on the state with the queue's rest. -/
def Obligations.StepRunsTheFront : Prop :=
  ∀ (c : Instr) (rest : List Instr) (s : State), s.pending = c :: rest → step s = exec c { s with pending := rest }

/-- With nothing in the queue the time base moves the part (log 1): a due event is taken; else the arbiter grants a waiting request at a
free bus (log 10); else one millisecond passes; and nothing while the reset line is held. -/
def Obligations.StepOnEmptyQueue : Prop :=
  ∀ s : State, s.pending = [] →
    (s.resetHeld = true → step s = .next s)
      ∧ (∀ e, s.nextDue = some e → step s = exec e { s with choices := s.choices + 1 })
      ∧ (s.resetHeld = false → s.nextDue = none → s.bus.wire = .free → s.bus.waiting ≠ [] → step s = .next (arbitrate s))
      ∧ (s.resetHeld = false → s.nextDue = none → (s.bus.wire ≠ .free ∨ s.bus.waiting = []) → step s = .next (passMillisecond s))

/-- The values of every block at the release of the reset line, for every strap combination (numbered by log 9) and from every state. ALL OFF
still waits at a free wire (log 10, DEDUCED), and the queue of commands and the feed alarm line stand (log 22, DESIGN CHOICE). -/
def Obligations.PowerOnValues : Prop :=
  ∀ (b f : BitVec 2) (s : State), ∃ t, exec (.powerOnReset b f) s = .next t
    ∧ t.resetHeld = false ∧ t.pending = s.pending ∧ t.seq.feedAlarm = s.seq.feedAlarm
    ∧ t.bayCount = (if b = 0#2 then 8 else if b = 1#2 then 16 else 24)
    ∧ t.feedStrap = 12 * (f.toNat + 1) ∧ t.seq.total = t.feedStrap
    ∧ (t.clock.isSet = false ∧ t.clock.minute = 0 ∧ t.clock.second = 0)
    ∧ (∀ x : BayNo, t.bay x = ⟨.closed, false, none, false, false, none, none, none, none, false, false, false, false, none, none, 0, 0⟩)
    ∧ (∀ k : Fin 16, t.classes[k] = none)
    ∧ t.book = ⟨[], 1, [], 0⟩
    ∧ t.planner.view = ⟨30, .nearest, 80, 32, 288, 30⟩ ∧ t.planner.outdoor = -320 ∧ t.planner.outdoorAge = none
    ∧ t.planner.sticky = 0#6 ∧ (∀ x : BayNo, t.planner.results[x] = ⟨0, 0#6⟩)
    ∧ (t.seq.timer = 30000 ∧ t.seq.index = 0 ∧ t.seq.chain = [] ∧ t.seq.onSet = [])
    ∧ (∀ g : Fin 4, t.seq.feeders[g] = 48)
    ∧ (∀ x : BayNo, t.seq.held[x] = none ∧ t.seq.stuck[x] = none ∧ t.seq.commanded[x] = ⟨false, t.now⟩ ∧ t.seq.missed[x] = 0)
    ∧ (t.lamp.queue = [] ∧ t.lamp.engines[0] = .free ∧ t.lamp.engines[1] = .free ∧ t.lamp.freshness = 120)
    ∧ (∀ x : BayNo, t.lamp.results[x] = none ∧ t.reader.reading[x] = none ∧ t.reader.last[x] = none
        ∧ t.reader.readSince[x] = false ∧ t.reader.scan[x] = none)
    ∧ (∀ i : Fin 32, t.reader.rules[i] = none) ∧ t.reader.period = 10
    ∧ (t.store.free = List.finRange 96 ∧ t.store.starvation = 0 ∧ t.store.nextId = 1)
    ∧ (∀ x : BayNo, t.store.lists[x] = [] ∧ t.store.marks[x] = ⟨false, false, false⟩)
    ∧ (t.clearance.pending = [] ∧ t.clearance.window = 20)
    ∧ (∀ x : BayNo, t.clearance.signals[x] = .red ∧ t.clearance.alerts[x] = none)
    ∧ (t.bus.waiting.map (·.job) = [.allOff] ∧ t.bus.wire = .free ∧ t.bus.lastEngine = 1 ∧ t.bus.idle = 1000)
    ∧ (t.bus.last1 = none ∧ t.bus.last3 = none ∧ t.bus.last4 = none ∧ t.bus.last5 = none)
    ∧ (∀ x : BayNo, t.bus.posts[x] = ⟨false, 0, none⟩)
    ∧ ∀ l : Link, t.attention l = true
        ∧ t.port l = ⟨.idle, 0, .free, { Notices.empty with kinds := 1#8 }, 0xFF#8, 0#6, 0, 0⟩

/-- RESET_LINE_HELD, and the part while the line is held: nothing is sent, both attention lines are released, and no command or event
but the release and the level of the feed alarm line changes anything (log 21). -/
def Obligations.ResetLineHeld : Prop :=
  (∀ s : State,
    let quiet : Port → Port := fun p => { p with receiver := .idle, gap := 0, responder := .free }
    exec .resetLineHeld s = .next
      { s with resetHeld := true, bus := { s.bus with wire := .free }, dispatch := quiet s.dispatch, workshop := quiet s.workshop })
  ∧ (∀ (s : State) (l : Link), s.resetHeld = true → s.attention l = false)
  ∧ (∀ s : State, s.resetHeld = true →
      exec .feedAlarmAsserted s = .next { s with seq := { s.seq with feedAlarm := true } }
        ∧ exec .feedAlarmReleased s = .next { s with seq := { s.seq with feedAlarm := false } })
  ∧ ∀ (c : Instr) (s : State), s.resetHeld = true → (∀ b f, c ≠ .powerOnReset b f) → c ≠ .resetLineHeld →
      c ≠ .feedAlarmAsserted → c ≠ .feedAlarmReleased → exec c s = .next s

/-! ## The links -/

/-- The checks of a frame: the codes each link may give and the refusal of another link's command, an unknown code (R184, check 1), the
payload lengths each code allows and the refusal of any other (check 3; AMEND's ten bytes are log 33's), a bay that is not fitted (check 4,
R1), and a frame that finds the responder SENDING (R182, log 15). A refused REQUEST CLEARANCE carries its ref, free when
its payload is too short to carry one, and a free reason set (log 16). -/
def Obligations.FrameChecks : Prop :=
  (∀ k : Byte,
    (permitted .dispatch k = true ↔
      k.toNat ∈ [0x10, 0x11, 0x12, 0x13, 0x14, 0x15, 0x18, 0x19, 0x1A, 0x1B, 0x1C, 0x1D, 0x1E, 0x1F, 0x30, 0x31, 0x32, 0x33, 0x34, 0x35,
        0x36, 0x37, 0x38, 0x39, 0x3A, 0x3B, 0x3C, 0x3D])
    ∧ (permitted .workshop k = true ↔
      k.toNat ∈ [0x20, 0x21, 0x22, 0x23, 0x24, 0x25, 0x26, 0x27, 0x28, 0x29, 0x2A, 0x2B, 0x2C, 0x2D, 0x2E, 0x30, 0x31, 0x32, 0x33, 0x34,
        0x35, 0x36, 0x37, 0x38, 0x39, 0x3A, 0x3B, 0x3C, 0x3D])
    ∧ (knownCode k = true ↔ permitted .dispatch k = true ∨ permitted .workshop k = true))
  ∧ (∀ (c : Instr) (l : Link) (code : Byte) (s : State), linkOf c = some l → codeOf c = some code → permitted l code = false →
      s.ready l → ∃ n r, exec c s = .next (answer l r { s with choices := n }) ∧ r.status = .notPermitted
        ∧ (r.reply = .empty ∨ ∃ ref cold rs, c = .requestClearance l ref cold ∧ r.reply = .clearance ref.toNat rs))
  ∧ (∀ (l : Link) (code : Byte) (s : State), knownCode code = false → s.ready l →
    exec (.unknownCommandCode l code) s = .next (answer l ⟨.badCommand, .empty⟩ s))
  ∧ (∀ (l : Link) (code : Byte) (payload : List Byte), knownCode code = true →
      ((parsePayload l code payload).isSome = true ↔
        (code.toNat, payload.length) ∈ [(0x10, 3), (0x11, 2), (0x12, 6), (0x13, 9), (0x14, 2), (0x15, 1), (0x18, 10), (0x19, 10), (0x1A, 4),
          (0x1B, 2), (0x1C, 3), (0x1D, 2), (0x1E, 1), (0x1F, 0), (0x20, 1), (0x21, 1), (0x22, 1), (0x23, 1), (0x24, 2), (0x25, 1), (0x26, 1),
          (0x26, 6), (0x27, 1), (0x28, 1), (0x29, 1), (0x2A, 2), (0x2B, 4), (0x2C, 2), (0x2D, 4), (0x2E, 1), (0x30, 0), (0x31, 1), (0x32, 3),
          (0x33, 2), (0x34, 1), (0x35, 1), (0x36, 1), (0x37, 1), (0x38, 1), (0x39, 1), (0x3A, 0), (0x3B, 1), (0x3C, 1), (0x3D, 0)]
        ∨ (code = 0x25#8 ∧ ∃ m, payload.length = 9 + 6 * m)))
  ∧ (∀ (l : Link) (n code hi lo : Byte) (payload : List Byte) (s : State), s.ready l →
      (s.port l).receiver = .receiving (n :: code :: payload ++ [hi]) → n.toNat = payload.length → payload.length ≤ 120 →
      [hi, lo] = halfBytes (crc16 (n :: code :: payload)) →
      let t := s.setPort l { s.port l with receiver := .idle, gap := 0 }
      let taken := exec (.linkByteReceived l lo true) s
      (knownCode code = false → taken = .next (answer l ⟨.badCommand, .empty⟩ t))
      ∧ (∀ c, knownCode code = true → parsePayload l code payload = some c → taken = exec c t)
      ∧ (knownCode code = true → parsePayload l code payload = none →
        let st : Status := if permitted l code then .badCommand else .notPermitted
        (code ≠ 0x1C#8 → taken = .next (answer l ⟨st, .empty⟩ t))
        ∧ (code = 0x1C#8 → ∃ ref rs, taken = .next (answer l ⟨st, .clearance ref rs⟩ { t with choices := s.choices + 1 })
            ∧ (2 ≤ payload.length → ref = wordAt payload 0))))
  ∧ (∀ (c : Instr) (l : Link) (code b : Byte) (s : State), linkOf c = some l → codeOf c = some code → permitted l code = true →
      bayNamed c = some b → s.ready l → s.bayCount ≤ b.toNat → exec c s = .next (answer l ⟨.noBay, .empty⟩ s))
  ∧ ∀ (c : Instr) (l : Link) (s : State), linkOf c = some l → s.resetHeld = false → (s.port l).responder ≠ .free →
      ∃ n, exec c s = .next
        (({ s with choices := n } : State).setPort l { s.port l with overruns := min 65535 ((s.port l).overruns + 1) })

/-- LINK_BYTE_RECEIVED at every state of the receiver, the last byte of a good frame apart. The gap timer restarts with each byte. -/
def Obligations.BytesReceived : Prop :=
  ∀ (l : Link) (x : Byte) (good : Bool) (s : State), s.resetHeld = false →
    let p := s.port l
    let goes : Port → Prop := fun q => exec (.linkByteReceived l x good) s = .next (s.setPort l q)
    let lost : Port := { p with receiver := .idle, gap := 0, frameErrors := min 65535 (p.frameErrors + 1) }
    (p.receiver = .idle → (x ≠ 0xC3#8 ∨ good = false) → exec (.linkByteReceived l x good) s = .next s)
    ∧ (p.receiver = .idle → x = 0xC3#8 → good = true → p.responder = .free →
        goes { p with receiver := .receiving [], gap := gapTime })
    ∧ (p.receiver = .idle → x = 0xC3#8 → good = true → p.responder ≠ .free →
        goes { p with receiver := .discarding none, gap := gapTime, overruns := min 65535 (p.overruns + 1) })
    ∧ (∀ bs, p.receiver = .receiving bs → good = false → goes lost)
    ∧ (p.receiver = .receiving [] → good = true → 120 < x.toNat → goes lost)
    ∧ (p.receiver = .receiving [] → good = true → x.toNat ≤ 120 → goes { p with receiver := .receiving [x], gap := gapTime })
    ∧ (∀ n bs, p.receiver = .receiving (n :: bs) → good = true → n.toNat ≤ 120 → bs.length + 2 < n.toNat + 4 →
        goes { p with receiver := .receiving (n :: bs ++ [x]), gap := gapTime })
    ∧ (∀ n code bs, p.receiver = .receiving (n :: code :: bs) → good = true → n.toNat ≤ 120 → bs.length = n.toNat + 1 →
        bs.drop n.toNat ++ [x] ≠ halfBytes (crc16 (n :: code :: bs.take n.toNat)) → goes lost)
    ∧ (∀ k, p.receiver = .discarding k → good = false → goes { p with receiver := .idle, gap := 0 })
    ∧ (p.receiver = .discarding none → good = true → 120 < x.toNat → goes { p with receiver := .idle, gap := 0 })
    ∧ (p.receiver = .discarding none → good = true → x.toNat ≤ 120 →
        goes { p with receiver := .discarding (some (x.toNat + 3)), gap := gapTime })
    ∧ (∀ k, p.receiver = .discarding (some k) → good = true →
        goes (if k ≤ 1 then { p with receiver := .idle, gap := 0 }
          else { p with receiver := .discarding (some (k - 1)), gap := gapTime }))

/-- The other events of a link: a frame discarded, the gap of 1 s, which ends whatever its timer has left (log 8, DESIGN CHOICE), an overrun, a
line break and the end of a response. -/
def Obligations.LinkEvents : Prop :=
  ∀ (l : Link) (s : State), s.resetHeld = false →
    let p := s.port l
    let lost : Port := { p with receiver := .idle, gap := 0, frameErrors := min 65535 (p.frameErrors + 1) }
    let broken : State := s.setPort l { p with receiver := .idle, gap := 0, notices := Notices.empty }
    (∀ cause bs, p.receiver = .receiving bs → exec (.frameDiscard l cause) s = .next (s.setPort l lost))
    ∧ (∀ bs, p.receiver = .receiving bs → exec (.byteGapTimeout l) s = .next (s.setPort l lost))
    ∧ (∀ k, p.receiver = .discarding k → exec (.byteGapTimeout l) s = .next (s.setPort l { p with receiver := .idle, gap := 0 }))
    ∧ (p.receiver = .idle → p.responder ≠ .free → exec (.overrun l) s = .next
        (s.setPort l { p with receiver := .discarding none, gap := gapTime, overruns := min 65535 (p.overruns + 1) }))
    ∧ exec (.lineBreak l) s = .next broken ∧ broken.attention l = false
    ∧ exec (.responseSent l) s = .next (s.setPort l { p with responder := .free })

/-- The payload written for a well-formed link command is read back as that command, with every operand, and is at most 120 bytes; AMEND's ten
bytes with two that are ignored are log 33's (DEDUCED). And the bytes of a response: its frame with the 16-bit check, the status codes, and the
reply layouts, field by field, a field taken modulo its width. Two fields whose content 11 does not state are free (log 34), and the echoes
of BOOK, AMEND, the masks and the defect commands are sent in the layouts of their kind (log 23). -/
def Obligations.PayloadsReadBack : Prop :=
  let temperature : Option Int → Nat := fun t => t.elim 0x8000 fun v => (v % 65536).toNat
  let number : Nat → Option Nat → Nat := fun none_ v => v.elim none_ (· % 256)
  (∀ (c : Instr) (l : Link) (code : Byte), linkOf c = some l → codeOf c = some code → c.wf = true →
    parsePayload l code (payloadOf c) = some c ∧ (payloadOf c).length ≤ 120)
  ∧ ((∀ (code : Byte) (payload : List Byte), payload.length ≤ 120 → ∃ n : Byte, n.toNat = payload.length
        ∧ frameBytes code payload = 0xC3#8 :: n :: code :: payload ++ halfBytes (crc16 (n :: code :: payload)))
    ∧ crc16 [] = 0xFFFF#16
    ∧ (∀ (bs : List Byte) (x : Byte), crc16 (bs ++ [x])
        = [x.getLsbD 7, x.getLsbD 6, x.getLsbD 5, x.getLsbD 4, x.getLsbD 3, x.getLsbD 2, x.getLsbD 1, x.getLsbD 0].foldl
            (fun (r : BitVec 16) (bit : Bool) => if r.msb = bit then r <<< 1 else (r <<< 1) ^^^ 0x1021#16) (crc16 bs))
    ∧ (∀ (r : Response) (bs : List Byte), r.reply.bytes = some bs → r.frame = some (frameBytes r.status.byte bs))
    ∧ (∀ x ∈ [(Status.ok, 0x00#8), (.okClamped, 0x01#8), (.pending, 0x02#8), (.merged, 0x03#8), (.already, 0x04#8), (.notPermitted, 0x05#8),
        (.badCommand, 0x06#8), (.noBay, 0x07#8), (.notFound, 0x08#8), (.exists, 0x09#8), (.full, 0x0A#8), (.queueFull, 0x0B#8),
        (.wrongState, 0x0C#8), (.occupied, 0x0D#8), (.stillPresent, 0x0E#8), (.clockUnset, 0x0F#8), (.outOfRange, 0x10#8)],
        x.1.byte = x.2)
    ∧ Reply.empty.bytes = some [])
  ∧ (∀ v : BayView, ∃ bs, (Reply.bay v).bytes = some bs ∧ bs.length = 23 ∧
    let at_ := byteAt bs
    let word := wordAt bs
    at_ 0 = v.bay.val
    ∧ (v.state, at_ 1) ∈ [(.closed, 0), (.empty, 1), (.arrived, 2), (.bound, 3), (.cleared, 4), (.leaving, 5)]
    ∧ at_ 2 = v.occupied.toNat + 2 * v.plug.toNat + 4 * v.link.toNat + 8 * v.current.toNat + 16 * v.hold.toNat + 32 * v.conflict.toNat
        + 64 * v.unconfirmed.toNat + 128 * v.heatingOn.toNat
    ∧ word 3 = v.coach.getD 0 % 65536 ∧ at_ 5 = v.cls.elim 255 (·.val)
    ∧ word 6 = temperature (v.cabin.map (·.temperature)) ∧ (∀ c, v.cabin = some c → word 8 = c.age % 65536)
    ∧ word 10 = temperature v.cabinAtUnplug
    ∧ at_ 12 = v.feeder.val + 4 * v.silent.toNat + 8 * v.underTest.toNat + 16 * v.readSince.toNat + 32 * v.marks.fault.toNat
        + 64 * v.marks.lamp.toNat + 128 * v.marks.post.toNat
    ∧ (v.signal, at_ 13) ∈ [(.red, 0), (.green, 1), (.alert, 2)] ∧ word 14 = v.boundRef.getD 0 % 65536
    ∧ (v.lamp = none → at_ 16 = 0 ∧ word 17 = 0)
    ∧ (∀ o age, v.lamp = some (o, age) → word 17 = age % 65536
        ∧ ((o, at_ 16) ∈ [(.passed, 1), (.passedWithNotes, 2), (.failed, 3)] ∨ ∃ reason, o = .incomplete reason ∧ at_ 16 = 4))
    ∧ at_ 19 = v.plan.causes.toNat ∧ at_ 20 = v.plan.turns % 256 ∧ at_ 21 = v.missed % 256 ∧ at_ 22 = v.dropped % 256)
  ∧ (∀ v : DepartureView, ∃ bs, (Reply.departure v).bytes = some bs ∧ bs.length = 20 ∧
    let at_ := byteAt bs
    let word := wordAt bs
    word 0 = v.ref % 65536 ∧ word 2 = v.minute % 65536 ∧ word 4 = v.coach.getD 0 % 65536 ∧ word 6 = temperature v.target
    ∧ at_ 8 = v.lead % 256 ∧ (v.state, at_ 9) ∈ [(.booked, 0), (.bound, 1), (.clearing, 2), (.cleared, 3)]
    ∧ at_ 10 = v.bay.elim 255 (·.val) ∧ word 11 = v.overdue.getD 0 % 65536 ∧ word 13 = v.ahead % 65536 ∧ at_ 15 = v.position % 256
    ∧ word 16 = v.reasons.elim 0 (fun rs => 0x8000 + rs.toNat) ∧ at_ 18 = v.cold.toNat ∧ at_ 19 = v.timer % 256)
  ∧ (∀ (ref : Nat) (rs : ReasonSet), ∃ bs, (Reply.clearance ref rs).bytes = some bs ∧ bs.length = 4
      ∧ wordAt bs 0 = ref % 65536 ∧ wordAt bs 2 = rs.toNat)
  ∧ (∀ (b : BayNo) (v : DefectView), ∃ bs, (Reply.defect b v).bytes = some bs ∧ bs = v.bytes ∧ bs.length = 17 ∧
    let at_ := byteAt bs
    let word := wordAt bs
    word 0 = v.id % 65536 ∧ (v.source, at_ 2) ∈ [(.fault, 0), (.lamp, 1), (.post, 2), (.manual, 3)] ∧ word 3 = v.code % 65536
    ∧ (v.action, at_ 5) ∈ [(.block, 0), (.inhibit, 1), (.note, 2)]
    ∧ ((v.state, at_ 6, word 15) ∈ [(.opened, 0, 0), (.acknowledged, 1, 0)]
        ∨ ∃ minutes, v.state = .deferred minutes ∧ at_ 6 = 2 ∧ word 15 = minutes % 65536)
    ∧ (v.present, at_ 7) ∈ [(some false, 0), (some true, 1), (none, 255)] ∧ at_ 8 = v.count % 256 ∧ at_ 9 = number 255 v.severity
    ∧ (v.detail = none → at_ 10 = 0 ∧ word 11 = 0)
    ∧ (∀ x, v.detail = some x → at_ 10 = (if x.high then 2 else 1) ∧ word 11 = x.current % 65536)
    ∧ word 13 = v.age % 65536)
  ∧ (∀ v : ReadView, v.bytes.length = 12 ∧
    let at_ := byteAt v.bytes
    (v.reading = none → at_ 0 = 0 ∧ at_ 1 = 0 ∧ at_ 2 = 0)
    ∧ (∀ page restarts, v.reading = some (page, restarts) → at_ 0 = 1 ∧ at_ 1 = page % 256 ∧ at_ 2 = restarts % 256)
    ∧ (v.last = none → at_ 3 = 0 ∧ at_ 4 = 0 ∧ at_ 5 = 0 ∧ at_ 6 = 255 ∧ wordAt v.bytes 8 = 0)
    ∧ (∀ x, v.last = some x →
        ((x.outcome, at_ 3, at_ 4) ∈ [(.complete, 1, 0), (.truncated, 2, 0), (.unstable, 3, 0), (.failed .noPlug, 4, 1),
          (.failed .postSilent, 4, 2), (.failed .noCoach, 4, 3), (.failed .harnessFault, 4, 4), (.failed .busFailed, 4, 5),
          (.failed .plugRemoved, 4, 6)])
        ∧ at_ 5 = number 0 (x.pageZero.map (·.1)) ∧ at_ 6 = number 255 (x.pageZero.map (·.2)) ∧ at_ 7 = x.transactions % 256
        ∧ wordAt v.bytes 8 = x.age % 65536)
    ∧ wordAt v.bytes 10 = v.countdown.getD 0 % 65536)
  ∧ (∀ (b : BayNo) (held : Nat) (m : Marks) (v : ReadView) (es : List DefectView), ∃ first second third,
      (Reply.defects b held m v es).bytes = some ([first, second, third] ++ v.bytes ++ es.flatMap DefectView.bytes)
      ∧ first.toNat = b.val ∧ second.toNat = held % 256 ∧ third.toNat = m.fault.toNat + 2 * m.lamp.toNat + 4 * m.post.toNat)
  ∧ (∀ n : Notices, ∃ bs, (Reply.notices n).bytes = some bs ∧ bs.length = 23 ∧ byteAt bs 0 = n.kinds.toNat
      ∧ (∀ p ∈ [(n.bay, 1), (n.departure, 4), (n.clearance, 7), (n.defect, 10), (n.lamp, 13), (n.post, 16), (n.planner, 19)],
          65536 * byteAt bs p.2 + wordAt bs (p.2 + 1) = p.1.toNat)
      ∧ byteAt bs 22 = n.anomaly.toNat)
  ∧ (∀ m : KindSet, (Reply.noticeMask m).bytes = some [m]) ∧ ∀ c : CauseSet, ∃ x, (Reply.causes c).bytes = some [x] ∧ x.toNat = c.toNat

/-- The bytes of a well-formed command's frame, arriving one by one at an IDLE receiver whose responder is FREE, do what the command
does: as many steps as the frame has bytes end where exec of the command ends. That a command's row is its whole good frame is log 15
(DEDUCED), AMEND's length log 33 (DEDUCED). -/
def Obligations.FrameRunsItsCommand : Prop :=
  ∀ (c : Instr) (l : Link) (code : Byte) (rest : List Instr) (s : State), linkOf c = some l → codeOf c = some code → c.wf = true →
    s.ready l → (s.port l).receiver = .idle →
    core.run (frameBytes code (payloadOf c)).length
        { s with pending := (frameBytes code (payloadOf c)).map (fun x => .linkByteReceived l x true) ++ rest }
      = exec c (setReceiver l .idle { s with pending := rest })

/-- READ NOTICES answers the whole pending set and empties it; a notice posted afterwards joins the emptied set and asserts the line if its
kind is enabled. -/
def Obligations.NoticesRead : Prop :=
  ∀ (l : Link) (s : State), s.ready l →
    let t := answer l ⟨.ok, .notices (s.port l).notices⟩ (s.setPort l { s.port l with notices := Notices.empty })
    exec (.readNotices l) s = .next t ∧ t.attention l = false
      ∧ ∀ (k : NoticeKind) (bs : BaySet),
          ((postTo l k bs t).port l).notices = Notices.empty.add k bs
            ∧ ((postTo l k bs t).attention l = true ↔ (s.port l).noticeMask &&& k.bit ≠ 0#8)

/-- The attention line, SET NOTICE MASK, SET PLANNER ENABLES and CLEAR PLANNER FLAGS. -/
def Obligations.MasksAndFlags : Prop :=
  ∀ (l : Link) (s : State),
    (s.attention l = true ↔ s.resetHeld = false
      ∧ ∃ k : NoticeKind, (s.port l).notices.kinds &&& k.bit ≠ 0#8 ∧ (s.port l).noticeMask &&& k.bit ≠ 0#8)
    ∧ (s.ready l →
      (∀ kinds, exec (.setNoticeMask l kinds) s
        = .next (answer l ⟨.ok, .noticeMask kinds⟩ (s.setPort l { s.port l with noticeMask := kinds })))
      ∧ (∀ causes : Byte, causes.toNat < 64 → exec (.setPlannerEnables l causes) s
        = .next (answer l ⟨.ok, .causes (causes.setWidth 6)⟩ (s.setPort l { s.port l with plannerMask := causes.setWidth 6 })))
      ∧ (∀ causes : Byte, 64 ≤ causes.toNat → exec (.setPlannerEnables l causes) s = .next (answer l ⟨.badCommand, .empty⟩ s))
      ∧ exec (.clearPlannerFlags l) s
        = .next (answer l ⟨.ok, .empty⟩ { s with planner := { s.planner with sticky := 0#6 } }))

/-! ## Reading the part -/

/-- READ STATUS, READ DEPARTURE LOG and READ CLASS. The age of the outdoor temperature is held in ms and shown in whole minutes (log 5, DESIGN
CHOICE). -/
def Obligations.StatusLogAndClassRead : Prop :=
  (∀ (l : Link) (s : State), s.ready l →
     exec (.readStatus l) s = .next (answer l
       ⟨.ok, .status
         { bayCount := s.bayCount
           feedStrap := s.feedStrap
           clockSet := s.clock.isSet
           minute := s.clock.minute
           second := s.clock.second
           planner := ⟨s.planner.slotLength, s.planner.rounding, s.planner.frostFloor, s.planner.tolerance, s.planner.defaultTarget,
             s.planner.inForce⟩
           outdoor := s.planner.outdoor
           outdoorAge := s.planner.outdoorAge.map (· / 60000)
           sticky := s.planner.sticky
           scanPeriod := s.reader.period
           window := s.clearance.window
           freshness := s.lamp.freshness
           freeSlots := s.store.free.length
           starvation := s.store.starvation
           feedAlarm := s.seq.feedAlarm
           dispatchErrors := s.dispatch.frameErrors
           dispatchOverruns := s.dispatch.overruns
           workshopErrors := s.workshop.frameErrors
           workshopOverruns := s.workshop.overruns }⟩ s))
  ∧ (∀ (index : Byte) (s : State), s.ready .dispatch →
     (15 < index.toNat → exec (.readDepartureLog .dispatch index) s = .next (answer .dispatch ⟨.notFound, .empty⟩ s))
     ∧ (index.toNat ≤ 15 → exec (.readDepartureLog .dispatch index) s
         = .next (answer .dispatch ⟨.ok, .log s.book.log.length ((s.book.log.drop index.toNat).take 4)⟩ s)))
  ∧ ∀ (l : Link) (cls : Byte) (s : State), s.ready l →
    (15 < cls.toNat → exec (.readClass l cls) s = .next (answer l ⟨.notFound, .empty⟩ s))
    ∧ ∀ h : cls.toNat < 16, exec (.readClass l cls) s = .next (answer l ⟨.ok, .classRecord s.classes[cls.toNat]⟩ s)

/-- READ BAY, READ DEPARTURE, READ DEFECTS, READ LAMP RESULT and READ CHAIN answer what stands and change nothing. Ages are shown in whole
seconds and minutes (log 5), remaining times with a part of a second counting as one (log 4) and of a minute as one (log 6); a departure's cold
release and timer are those of the pending clearance of its ref (log 32). -/
def Obligations.ReadsAnswer : Prop :=
  ∀ (l : Link) (s : State), s.ready l →
    let seconds : Nat → Nat := fun ms => (ms + 999) / 1000
    (∀ bay : Byte, s.fits bay → let b := bayOf bay
      let r := s.bay b
      ∃ tested heating : Bool, exec (.readBay l bay) s = .next (answer l
        ⟨.ok, .bay
          { bay := b, state := r.state, occupied := r.occupied, plug := r.plug, link := r.link, current := r.current, hold := r.hold
            conflict := r.conflict, unconfirmed := r.unconfirmed, heatingOn := heating, coach := r.coach, cls := r.cls
            cabin := r.cabin.map fun c => { c with age := c.age / 1000 }
            cabinAtUnplug := r.cabinAtUnplug, feeder := r.feeder, silent := s.bus.posts[b].silent, underTest := tested
            readSince := s.reader.readSince[b], marks := s.store.marks[b], signal := s.clearance.signals[b]
            boundRef := (s.book.records.find? (·.bay == some b)).map (·.ref)
            lamp := s.lamp.results[b].map fun x => (x.outcome, x.age / 60000)
            plan := s.planner.results[b], missed := s.seq.missed[b], dropped := r.dropped }⟩ s)
      ∧ (heating = true ↔ ∃ m ∈ s.seq.onSet, m.bay = b)
      ∧ (tested = true ↔ ∃ e : EngineNo, s.lamp.engines[e] = .releasing b ∨ ∃ x, s.lamp.engines[e] = .running x ∧ x.bay = b))
    ∧ (∀ bay position : Byte, s.fits bay → let b := bayOf bay
      (15 < position.toNat → exec (.readDefects l bay position) s = .next (answer l ⟨.notFound, .empty⟩ s))
      ∧ (position.toNat ≤ 15 → exec (.readDefects l bay position) s = .next (answer l
          ⟨.ok, .defects b s.store.lists[b].length s.store.marks[b]
            ⟨s.reader.reading[b].map fun x => (x.page, x.restarts),
              s.reader.last[b].map fun x => { x with age := x.age / 60000 },
              s.reader.scan[b].map seconds⟩
            (((s.store.lists[b].drop position.toNat).take 4).map Defect.shown)⟩ s)))
    ∧ (∀ d : Defect, ∃ x : DefectState, d.shown = ⟨d.id, d.source, d.code, d.action, x, d.present, d.count, d.severity, d.detail, d.age / 60000⟩
        ∧ (∀ ms, d.state = .deferred ms → x = .deferred ((ms + 59999) / 60000)) ∧ (d.state ∈ [.opened, .acknowledged] → x = d.state))
    ∧ (∀ bay : Byte, s.fits bay → let b := bayOf bay
      let runs : EngineNo → Prop := fun e => ∃ x, s.lamp.engines[e] = .running x ∧ x.bay = b
      ∃ (fresh : Bool) (v : TestView), exec (.readLampResult l bay) s = .next (answer l
        ⟨.ok, .lamp (s.lamp.results[b].map fun x => { x with age := x.age / 60000 }) fresh v s.lamp.queue
          (s.lamp.engines.map fun e => match e with
            | .free => .free
            | .running x => .running x.bay
            | .releasing x => .releasing x)⟩ s)
      ∧ (fresh = true ↔ ∃ x, s.lamp.results[b] = some x ∧ x.age / 60000 ≤ s.lamp.freshness)
      ∧ (∀ (i : Nat) (q : QueueEntry), s.lamp.queue[i]? = some q → q.bay = b → (∀ x ∈ s.lamp.queue.take i, x.bay ≠ b) →
          v = .queued q.level i)
      ∧ ((∀ q ∈ s.lamp.queue, q.bay ≠ b) →
        (∀ (e : EngineNo) (x : RunningTest), s.lamp.engines[e] = .running x → x.bay = b → (∀ f < e, ¬ runs f) → v = .running e x.circuit)
        ∧ ((∀ e, ¬ runs e) →
          (∀ e : EngineNo, s.lamp.engines[e] = .releasing b → (∀ f : EngineNo, f < e → s.lamp.engines[f] ≠ .releasing b) → v = .releasing e)
          ∧ ((∀ e : EngineNo, s.lamp.engines[e] ≠ .releasing b) → v = .absent))))
    ∧ (∃ held stuck : List (BayNo × UnitsOn), exec (.readChain l .summary) s = .next (answer l
        ⟨.ok, .chainSummary
          { inForce := s.planner.inForce, index := s.seq.index, remaining := seconds s.seq.timer, feedAlarm := s.seq.feedAlarm
            total := s.seq.total, feeders := s.seq.feeders
            load := (s.seq.onSet.map (·.units)).sum + (held.map (·.2.units)).sum + (stuck.map (·.2.units)).sum
            feederLoads := Vector.ofFn fun f => ((s.seq.onSet.filter (·.feeder == f)).map (·.units)).sum
              + ((held.filter (·.2.feeder == f)).map (·.2.units)).sum + ((stuck.filter (·.2.feeder == f)).map (·.2.units)).sum
            entries := s.seq.chain.length, pinned := s.seq.chain.countP (·.pinned)
            onSet := s.seq.onSet, held := held, stuck := stuck }⟩ s)
      ∧ (held.map (·.1)).Nodup ∧ (∀ x : BayNo × UnitsOn, x ∈ held ↔ s.seq.held[x.1] = some x.2)
      ∧ (stuck.map (·.1)).Nodup ∧ ∀ x : BayNo × UnitsOn, x ∈ stuck ↔ s.seq.stuck[x.1] = some x.2)
    ∧ (∀ p : Byte, 63 < p.toNat → exec (.readChain l (.fromPosition p)) s = .next (answer l ⟨.notFound, .empty⟩ s))
    ∧ (∀ p : Byte, p.toNat ≤ 63 → ∃ es, exec (.readChain l (.fromPosition p)) s
          = .next (answer l ⟨.ok, .chain s.seq.chain.length es⟩ s)
        ∧ es.length = min 16 (s.seq.chain.length - p.toNat)
        ∧ ∀ (i : Nat) (x : Nat × Entry), es[i]? = some x → x.1 = p.toNat + i ∧ s.seq.chain[x.1]? = some x.2)
    ∧ (∀ ref : Half, (∀ d ∈ s.book.records, d.ref ≠ ref.toNat) →
        exec (.readDeparture l (.byRef ref)) s = .next (answer l ⟨.notFound, .empty⟩ s))
    ∧ (∀ p : Half, s.book.records.length ≤ p.toNat →
        exec (.readDeparture l (.byPosition p)) s = .next (answer l ⟨.notFound, .empty⟩ s))
    ∧ (s.book.sound → ∀ (p : Nat) (d : Departure), s.book.records[p]? = some d → ∃ v : DepartureView,
        v.shows d ∧ v.position = p
        ∧ (∀ x, d.state = .clearing → s.clearance.find d.ref = some x → v.cold = x.cold ∧ v.timer = seconds x.timer)
        ∧ (d.state ≠ .clearing ∨ s.clearance.find d.ref = none → v.cold = false ∧ v.timer = 0)
        ∧ v.ahead = (if d.overdue.isSome then 0 else (d.minute + 1440 - s.clock.minute) % 1440)
        ∧ exec (.readDeparture l (.byRef (BitVec.ofNat 16 d.ref))) s = .next (answer l ⟨.ok, .departure v⟩ s)
        ∧ exec (.readDeparture l (.byPosition (BitVec.ofNat 16 p))) s = .next (answer l ⟨.ok, .departure v⟩ s))

/-! ## The class table, the rule table -/

/-- WRITE RULE and READ RULE. An index and an action both out of range are answered with one of the two refusals (log 35). -/
def Obligations.RuleTable : Prop :=
  ∀ (index : Byte) (s : State),
    let code : Half → Nat := fun h => max 1 (min 65534 h.toNat)
    (s.ready .workshop →
      (31 < index.toNat → exec (.writeRule .workshop index .unused) s = .next (answer .workshop ⟨.notFound, .empty⟩ s))
      ∧ (∀ low high (action : Byte), 31 < index.toNat → action.toNat ≤ 2 →
          exec (.writeRule .workshop index (.use low high action)) s = .next (answer .workshop ⟨.notFound, .empty⟩ s))
      ∧ (∀ low high (action : Byte), 31 < index.toNat → 2 < action.toNat → ∃ st,
          exec (.writeRule .workshop index (.use low high action)) s = .next (answer .workshop ⟨st, .empty⟩ s)
          ∧ (st = .notFound ∨ st = .badCommand))
      ∧ ∀ h : index.toNat < 32,
          exec (.writeRule .workshop index .unused) s = .next (answer .workshop ⟨.ok, .rule none⟩
            { s with reader := { s.reader with rules := s.reader.rules.set index.toNat none } })
          ∧ (∀ low high (action : Byte), 2 < action.toNat →
              exec (.writeRule .workshop index (.use low high action)) s = .next (answer .workshop ⟨.badCommand, .empty⟩ s))
          ∧ ∀ low high (action : Byte) (x : Action), (action, x) ∈ [(0#8, Action.block), (1#8, .inhibit), (2#8, .note)] →
              let r : Rule := ⟨min (code low) (code high), max (code low) (code high), x⟩
              let clamped := code low ≠ low.toNat ∨ code high ≠ high.toNat ∨ code high < code low
              exec (.writeRule .workshop index (.use low high action)) s
                = .next (answer .workshop ⟨if clamped then .okClamped else .ok, .rule (some r)⟩
                    { s with reader := { s.reader with rules := s.reader.rules.set index.toNat (some r) } }))
    ∧ ∀ l : Link, s.ready l →
        (31 < index.toNat → exec (.readRule l index) s = .next (answer l ⟨.notFound, .empty⟩ s))
        ∧ ∀ h : index.toNat < 32, exec (.readRule l index) s = .next (answer l ⟨.ok, .rule s.reader.rules[index.toNat]⟩ s)

/-- WRITE CLASS with a whole record: taken, brought into range and echoed, or refused with the table as it was. -/
def Obligations.ClassWritten : Prop :=
  ∀ (a : ClassArgs) (s : State), s.ready .workshop →
    let missing := 15 < a.cls.toNat ∨ ∃ c ∈ a.circuits, 15 < c.circuit.toNat
    let bad := ¬ (a.circuits.map (·.circuit)).Nodup ∨ 16 < a.circuits.length ∨ ∃ c ∈ a.circuits, c.action ≠ 0#8 ∧ c.action ≠ 2#8
    let low : CircuitArgs → Nat := fun c => min (min 4000 c.minimum.toNat) (min 4000 c.maximum.toNat)
    let high : CircuitArgs → Nat := fun c => max (min 4000 c.minimum.toNat) (min 4000 c.maximum.toNat)
    (missing → ¬ bad → exec (.writeClass .workshop a) s = .next (answer .workshop ⟨.notFound, .empty⟩ s))
    ∧ (bad → ¬ missing → exec (.writeClass .workshop a) s = .next (answer .workshop ⟨.badCommand, .empty⟩ s))
    ∧ (missing → bad → ∃ st, exec (.writeClass .workshop a) s = .next (answer .workshop ⟨st, .empty⟩ s)
        ∧ (st = .notFound ∨ st = .badCommand))
    ∧ ∀ h : a.cls.toNat < 16, ¬ missing → ¬ bad → ∃ r : ClassRecord,
        r.units = max 1 (min 8 a.units.toNat) ∧ r.loss = min 8191 a.loss.toNat ∧ r.gain = min 4095 a.gain.toNat
        ∧ r.autoTest = a.autoTest
        ∧ (r.settle % 50 = 0 ∧ r.settle ≤ max 100 (min 1000 a.settle.toNat) + 25
            ∧ max 100 (min 1000 a.settle.toNat) + 25 < r.settle + 50)
        ∧ (∀ i : Fin 16, (∀ c ∈ a.circuits, c.circuit.toNat ≠ i.val) → r.lamps[i] = none)
        ∧ (∀ c ∈ a.circuits, ∀ i : Fin 16, c.circuit.toNat = i.val →
            r.lamps[i] = some ⟨low c, high c, if c.action = 0#8 then .block else .note⟩)
        ∧ exec (.writeClass .workshop a) s = .next (answer .workshop
            ⟨if r.units ≠ a.units.toNat ∨ r.loss ≠ a.loss.toNat ∨ r.gain ≠ a.gain.toNat ∨ r.settle ≠ a.settle.toNat
                ∨ ∃ c ∈ a.circuits, low c ≠ c.minimum.toNat ∨ high c ≠ c.maximum.toNat then .okClamped else .ok,
              .classRecord (some r)⟩
            { s with classes := s.classes.set a.cls.toNat (some r) })

/-- CLASS_REMOVE: the class is undefined, and every on-set bay of the class leaves the on-set, with its entry MISSED and its heater commanded
OFF (R91). -/
def Obligations.ClassRemoved : Prop :=
  ∀ (cls : Byte) (s : State), s.ready .workshop →
    (15 < cls.toNat → exec (.classRemove .workshop cls) s = .next (answer .workshop ⟨.notFound, .empty⟩ s))
    ∧ ∀ h : cls.toNat < 16,
        (s.classes[cls.toNat] = none → exec (.classRemove .workshop cls) s = .next (answer .workshop ⟨.already, .empty⟩ s))
        ∧ (s.classes[cls.toNat] ≠ none → ∃ u, exec (.classRemove .workshop cls) s = .next (answer .workshop ⟨.ok, .empty⟩ (arbitrate u))
          ∧ State.leaves { s with classes := s.classes.set cls.toNat none } u (fun b => (s.bay b).cls == some ⟨cls.toNat, h⟩))

/-! ## Bays -/

/-- OPEN BAY. -/
def Obligations.BayOpened : Prop :=
  ∀ (bay : Byte) (s : State), s.ready .workshop → s.fits bay → let b := bayOf bay
    ((s.bay b).state = .closed → exec (.openBay .workshop bay) s = .next (answer .workshop ⟨.ok, .empty⟩
      (notifyBay .bay b { s with
        bays := s.bays.set b { s.bay b with state := .empty, occupied := false, candidate := none, sense := some 5000 } })))
    ∧ ((s.bay b).state ≠ .closed → exec (.openBay .workshop bay) s = .next (answer .workshop ⟨.wrongState, .empty⟩ s))

/-- CLOSE BAY. Each on-set member keeps its own entry as the bay's pins leave the chain, or has none when that entry is one of them (R83). -/
def Obligations.BayClosed : Prop :=
  ∀ (bay : Byte) (s : State), s.ready .workshop → s.fits bay → let b := bayOf bay
    ((s.bay b).state ∈ [.arrived, .bound, .cleared, .leaving] →
      exec (.closeBay .workshop bay) s = .next (answer .workshop ⟨.occupied, .empty⟩ s))
    ∧ ((s.bay b).state = .closed → exec (.closeBay .workshop bay) s = .next (answer .workshop ⟨.already, .empty⟩ s))
    ∧ ((s.bay b).state = .empty → ∃ t, exec (.closeBay .workshop bay) s = .next (answer .workshop ⟨.ok, .empty⟩ t)
      ∧ t.bays = s.bays.set b
          { s.bay b with
            state := .closed, sense := none, candidate := none, plug := false, link := false, current := false, cabin := none }
      ∧ t.bus.waiting = s.bus.waiting.filter (fun r => !r.job.isSenseFor b)
      ∧ t.bus.wire = (match s.bus.wire with
        | .busy x => .busy { x with discarded := x.discarded || x.job.isSenseFor b }
        | .free => .free
        | .quiet => .quiet)
      ∧ t.seq.chain = s.seq.chain.filter (fun e => !(e.pinned && e.bay == b))
      ∧ t.seq.stuck = s.seq.stuck.set b none
      ∧ (let pin : Entry → Bool := fun e => e.pinned && e.bay == b
        let moved : Nat → Option Nat := fun i =>
          if (s.seq.chain[i]?).any pin then none else some (i - (s.seq.chain.take i).countP pin)
        t.seq.onSet = s.seq.onSet.map fun m => { m with entry := m.entry.bind moved })
      ∧ (∀ l, (t.port l).notices = (s.port l).notices.add .bay (BaySet.single b))
      ∧ { t with
          bays := s.bays
          bus := { t.bus with waiting := s.bus.waiting, wire := s.bus.wire }
          seq := { t.seq with chain := s.seq.chain, stuck := s.seq.stuck, onSet := s.seq.onSet }
          dispatch := { t.dispatch with notices := s.dispatch.notices }
          workshop := { t.workshop with notices := s.workshop.notices } } = s)

/-- HOLD, UNHOLD and ASSIGN FEEDER. What a report to the clearance unit does is RevocationTaken. -/
def Obligations.HoldAndFeeder : Prop :=
  ∀ (bay : Byte) (s : State), s.ready .workshop → s.fits bay → let b := bayOf bay
    let held : Bool → State := fun on => notifyBay .bay b { s with bays := s.bays.set b { s.bay b with hold := on } }
    ((s.bay b).state ∈ [.closed, .empty] →
      exec (.hold .workshop bay) s = .next (answer .workshop ⟨.wrongState, .empty⟩ s)
        ∧ exec (.unhold .workshop bay) s = .next (answer .workshop ⟨.wrongState, .empty⟩ s))
    ∧ ((s.bay b).state ∈ [.arrived, .bound, .cleared, .leaving] →
      ((s.bay b).hold = true → exec (.hold .workshop bay) s = .next (answer .workshop ⟨.already, .empty⟩ s)
        ∧ exec (.unhold .workshop bay) s = .next (answer .workshop ⟨.ok, .empty⟩ (held false)))
      ∧ ((s.bay b).hold = false → exec (.unhold .workshop bay) s = .next (answer .workshop ⟨.already, .empty⟩ s)
        ∧ exec (.hold .workshop bay) s = .next (answer .workshop ⟨.ok, .empty⟩ (arbitrate (
            if (s.bay b).state = .arrived then held true
            else if (s.bay b).state = .bound then leaveOnSet b (held true)
            else if (s.bay b).state = .cleared then reportToClearance b (leaveOnSet b (held true))
            else reportToClearance b (held true))))))
    ∧ (∀ feeder : Byte, 4 ≤ feeder.toNat →
        exec (.assignFeeder .workshop bay feeder) s = .next (answer .workshop ⟨.notFound, .empty⟩ s))
    ∧ ∀ (feeder : Byte) (h : feeder.toNat < 4),
        ((s.bay b).feeder = ⟨feeder.toNat, h⟩ → exec (.assignFeeder .workshop bay feeder) s = .next (answer .workshop ⟨.ok, .empty⟩ s))
        ∧ ((s.bay b).feeder ≠ ⟨feeder.toNat, h⟩ → exec (.assignFeeder .workshop bay feeder) s
            = .next (answer .workshop ⟨.ok, .empty⟩
                (notifyBay .bay b { s with bays := s.bays.set b { s.bay b with feeder := ⟨feeder.toNat, h⟩ } })))

/-! ## Pins -/

/-- PIN. -/
def Obligations.PinWritten : Prop :=
  ∀ (bay : Byte) (s : State), s.ready .workshop → s.fits bay → let b := bayOf bay
    let p := s.seq.chain.countP (·.pinned)
    let full := 16 ≤ p ∨ 64 ≤ s.seq.chain.length
    ((s.bay b).state = .closed → ¬ full → exec (.pin .workshop bay) s = .next (answer .workshop ⟨.wrongState, .empty⟩ s))
    ∧ ((s.bay b).state ≠ .closed → full → exec (.pin .workshop bay) s = .next (answer .workshop ⟨.full, .empty⟩ s))
    ∧ ((s.bay b).state = .closed → full → ∃ st, exec (.pin .workshop bay) s = .next (answer .workshop ⟨st, .empty⟩ s)
        ∧ (st = .wrongState ∨ st = .full))
    ∧ ((s.bay b).state ≠ .closed → ¬ full → exec (.pin .workshop bay) s = .next (answer .workshop ⟨.ok, .position p⟩
        { s with seq := { s.seq with
            chain := s.seq.chain.take p ++ ⟨b, true, .waiting⟩ :: s.seq.chain.drop p
            onSet := s.seq.onSet.map fun m => { m with entry := m.entry.map fun i => if p ≤ i then i + 1 else i } } }))

/-- UNPIN; the member it leaves without an entry; and the pins that CLOSE BAY removes. -/
def Obligations.PinRemoved : Prop :=
  (∀ (position : Byte) (s : State), s.ready .workshop →
    let p := position.toNat
    (s.seq.chain.countP (·.pinned) ≤ p → exec (.unpin .workshop position) s = .next (answer .workshop ⟨.notFound, .empty⟩ s))
    ∧ (p < s.seq.chain.countP (·.pinned) → exec (.unpin .workshop position) s = .next (answer .workshop ⟨.ok, .empty⟩
        { s with seq := { s.seq with
            chain := s.seq.chain.eraseIdx p
            onSet := s.seq.onSet.map fun m =>
              { m with entry := m.entry.bind fun i => if i = p then none else if p < i then some (i - 1) else some i } } })))
  ∧ (∀ (b : BayNo) (s : State), (s.seq.member b = none → leaveOnSet b s = s)
    ∧ ∀ m : Member, s.seq.member b = some m →
      let t := leaveOnSet b s
      t.seq = { s.seq with
          onSet := s.seq.onSet.filter (·.bay != b)
          chain := (match m.entry with
            | none => s.seq.chain
            | some i => s.seq.chain.modify i fun e => { e with status := .missed })
          commanded := if s.seq.commanded[b].on then s.seq.commanded.set b ⟨false, s.now⟩ else s.seq.commanded }
      ∧ (s.seq.commanded[b].on = false ∨ s.bus.posts[b].silent = true → t.bus = s.bus)
      ∧ (s.seq.commanded[b].on = true → s.bus.posts[b].silent = false → t.waits (· == .heat b false) = true)
      ∧ { t with seq := s.seq, bus := s.bus } = s)
  ∧ ∀ (bay : Byte) (s : State), s.ready .workshop → s.fits bay → (s.bay (bayOf bay)).state = .empty →
      ∃ t, exec (.closeBay .workshop bay) s = .next t
        ∧ t.seq.chain = s.seq.chain.filter (fun e => !(e.pinned && e.bay == bayOf bay))

/-! ## Defects -/

/-- ACKNOWLEDGE, and the state of an entry through a later finding. The entry echoed is ReadsAnswer's, its age in whole minutes (log 5, DESIGN
CHOICE). -/
def Obligations.DefectAcknowledged : Prop :=
  (∀ (id : Half) (s : State), s.ready .workshop →
    ((∀ b : BayNo, ∀ d ∈ s.store.lists[b], d.id ≠ id.toNat) →
      exec (.acknowledge .workshop id) s = .next (answer .workshop ⟨.notFound, .empty⟩ s))
    ∧ ∀ (b : BayNo) (d : Defect), s.store.find id.toNat = some (b, d) →
        (d.state = .opened → exec (.acknowledge .workshop id) s = .next (answer .workshop
          ⟨.ok, .defect b ({ d with state := .acknowledged } : Defect).shown⟩
          (notifyBay .defect b { s with store := { s.store with
            lists := s.store.lists.set b
              (s.store.lists[b].map fun e => if e.id = id.toNat then { e with state := .acknowledged } else e) } })))
        ∧ (d.state ≠ .opened → exec (.acknowledge .workshop id) s = .next (answer .workshop ⟨.wrongState, .empty⟩ s)))
  ∧ ∀ (f : Finding) (d : Defect), (f.updated d).state = d.state

/-- CLOSE DEFECT. -/
def Obligations.DefectClosed : Prop :=
  ∀ (id : Half) (s : State), s.ready .workshop →
    ((∀ b : BayNo, ∀ d ∈ s.store.lists[b], d.id ≠ id.toNat) →
      exec (.closeDefect .workshop id) s = .next (answer .workshop ⟨.notFound, .empty⟩ s))
    ∧ ∀ (b : BayNo) (d : Defect), s.store.find id.toNat = some (b, d) →
        (d.source = .manual ∨ d.present = some false → exec (.closeDefect .workshop id) s = .next (answer .workshop
          ⟨.ok, .defect b d.shown⟩
          (notifyBay .defect b { s with store := { s.store with
            free := s.store.free ++ (s.store.lists[b].filter fun e => e.id = id.toNat).map (·.slot)
            lists := s.store.lists.set b (s.store.lists[b].filter fun e => e.id ≠ id.toNat) } })))
        ∧ (d.source ≠ .manual → d.present ≠ some false →
          exec (.closeDefect .workshop id) s = .next (answer .workshop ⟨.stillPresent, .empty⟩ s))

/-- DEFER; the minutes stand as a timer in ms (log 6). -/
def Obligations.DefectDeferred : Prop :=
  ∀ (id minutes : Half) (s : State), s.ready .workshop →
    let m := max 1 (min 1440 minutes.toNat)
    ((∀ b : BayNo, ∀ d ∈ s.store.lists[b], d.id ≠ id.toNat) →
      exec (.defer .workshop id minutes) s = .next (answer .workshop ⟨.notFound, .empty⟩ s))
    ∧ ∀ (b : BayNo) (d : Defect), s.store.find id.toNat = some (b, d) →
        exec (.defer .workshop id minutes) s = .next (answer .workshop
          ⟨if m = minutes.toNat then .ok else .okClamped, .defect b ({ d with state := .deferred (m * 60000) } : Defect).shown⟩
          (notifyBay .defect b { s with store := { s.store with
            lists := s.store.lists.set b
              (s.store.lists[b].map fun e => if e.id = id.toNat then { e with state := .deferred (m * 60000) } else e) } }))

/-- ENTER DEFECT: the checks in order, the entry created, and what it reports; and an id of a new entry is free, within 1..65535. -/
def Obligations.DefectEntered : Prop :=
  (∀ (bay : Byte) (code : Half) (action : Byte) (s : State), s.ready .workshop → s.fits bay →
    let b := bayOf bay
    let n := max 1 (min 65534 code.toNat)
    let answers : Response → State → Prop := fun r t => exec (.enterDefect .workshop bay code action) s = .next (answer .workshop r t)
    (2 < action.toNat → answers ⟨.badCommand, .empty⟩ s)
    ∧ (action.toNat ≤ 2 → (s.bay b).state ∈ [.closed, .empty, .arrived] → answers ⟨.wrongState, .empty⟩ s)
    ∧ ((s.bay b).state ∈ [.bound, .cleared, .leaving] →
      ((∃ d ∈ s.store.lists[b], d.source = .manual ∧ d.code = n) → action.toNat ≤ 2 → answers ⟨.exists, .empty⟩ s)
      ∧ ((∀ d ∈ s.store.lists[b], ¬ (d.source = .manual ∧ d.code = n)) →
        (action.toNat ≤ 2 → (s.store.free = [] ∨ 16 ≤ s.store.lists[b].length) → answers ⟨.full, .empty⟩ s)
        ∧ ∀ (slot : Fin 96) (free : List (Fin 96)) (x : Action), s.store.free = slot :: free → s.store.lists[b].length < 16 →
            (action, x) ∈ [(0#8, Action.block), (1#8, .inhibit), (2#8, .note)] →
            let id := freshId (s.store.entries.map (·.id)) 96 s.store.nextId
            let d : Defect := ⟨slot, id, .manual, n, x, .opened, none, 1, none, none, 0⟩
            let t := notifyBay .defect b { s with store := { s.store with
              free := free, lists := s.store.lists.set b (s.store.lists[b] ++ [d]), nextId := idAfter id } }
            answers ⟨if n = code.toNat then .ok else .okClamped, .defect b d.shown⟩ (arbitrate (match x with
              | .block => reportToClearance b t
              | .inhibit => leaveOnSet b t
              | .note => t)))))
  ∧ ∀ st : Store, st.sound → st.free ≠ [] → 1 ≤ st.nextId → st.nextId ≤ 65535 →
      let id := freshId (st.entries.map (·.id)) 96 st.nextId
      id ∉ st.entries.map (·.id) ∧ 1 ≤ id ∧ id ≤ 65535 ∧ (st.nextId ∉ st.entries.map (·.id) → id = st.nextId)

/-! ## Settings -/

/-- SET WEATHER, SET LAMP FRESHNESS, SET CLEARANCE WINDOW and SET SCAN PERIOD; a scan countdown above the new period is cut to it. -/
def Obligations.SettingsTaken : Prop :=
  (∀ (temperature : Half) (s : State), s.ready .dispatch →
    let v := max (-960) (min 640 temperature.toInt)
    exec (.setWeather .dispatch temperature) s = .next (answer .dispatch
      ⟨if v = temperature.toInt then .ok else .okClamped, .weather v⟩
      { s with planner := { s.planner with outdoor := v, outdoorAge := some 0 } }))
  ∧ (∀ (minutes : Half) (s : State), s.ready .dispatch →
    let m := max 15 (min 480 minutes.toNat)
    exec (.setLampFreshness .dispatch minutes) s = .next (answer .dispatch
      ⟨if m = minutes.toNat then .ok else .okClamped, .minutes m⟩ { s with lamp := { s.lamp with freshness := m } }))
  ∧ (∀ (minutes : Byte) (s : State), s.ready .dispatch →
    let m := max 5 (min 60 minutes.toNat)
    exec (.setClearanceWindow .dispatch minutes) s = .next (answer .dispatch
      ⟨if m = minutes.toNat then .ok else .okClamped, .minutes m⟩ { s with clearance := { s.clearance with window := m } }))
  ∧ ∀ (minutes : Byte) (s : State), s.ready .workshop →
    let m := max 1 (min 60 minutes.toNat)
    exec (.setScanPeriod .workshop minutes) s = .next (answer .workshop
      ⟨if m = minutes.toNat then .ok else .okClamped, .minutes m⟩
      { s with reader := { s.reader with
        period := m
        scan := s.reader.scan.map fun c => c.map fun ms => if m * 60000 < ms then m * 60000 else ms } })

/-- SET PLANNER. -/
def Obligations.PlannerSet : Prop :=
  ∀ (a : PlannerArgs) (s : State), s.ready .dispatch →
    let slot : Nat → Nat := fun v => if v ≤ 22 then 15 else if v ≤ 37 then 30 else if v ≤ 52 then 45 else 60
    let near : Int → Int → Half → Int := fun low high h => max low (min high h.toInt)
    (∀ b, a.rounding = some b → 1 < b.toNat →
      exec (.setPlanner .dispatch a) s = .next (answer .dispatch ⟨.badCommand, .empty⟩ s))
    ∧ ((∀ b, a.rounding = some b → b.toNat ≤ 1) → ∃ (p : Planner) (st : Status),
      exec (.setPlanner .dispatch a) s = .next (answer .dispatch
        ⟨st, .planner ⟨p.slotLength, p.rounding, p.frostFloor, p.tolerance, p.defaultTarget, s.planner.inForce⟩⟩
        { s with planner := p })
      ∧ p = { s.planner with
          slotLength := a.slotLength.elim s.planner.slotLength fun b => slot b.toNat
          rounding := a.rounding.elim s.planner.rounding fun b => if b = 0#8 then .nearest else .towardZero
          frostFloor := a.frostFloor.elim s.planner.frostFloor (near 0 160)
          tolerance := a.tolerance.elim s.planner.tolerance (near 8 80)
          defaultTarget := a.defaultTarget.elim s.planner.defaultTarget (near 160 384) }
      ∧ (st = .ok ∨ st = .okClamped)
      ∧ (st = .okClamped ↔ (∃ b, a.slotLength = some b ∧ slot b.toNat ≠ b.toNat)
          ∨ (∃ h, a.frostFloor = some h ∧ near 0 160 h ≠ h.toInt)
          ∨ (∃ h, a.tolerance = some h ∧ near 8 80 h ≠ h.toInt)
          ∨ (∃ h, a.defaultTarget = some h ∧ near 160 384 h ≠ h.toInt)))

/-- SET FEED LIMITS with the shedding of a lowered limit, the shedding itself, and the feed alarm line. A bay shed leaves the on-set with its
entry MISSED and its heater commanded OFF. With distinct members and no feeder over its limit, the members shed are the last ones of the
on-set, and no more of them than it takes; else the last member of the on-set that bears on a load over its limit goes first. -/
def Obligations.FeedLimitsSet : Prop :=
  (∀ (a : FeedLimitArgs) (s : State), s.ready .dispatch →
    let given : Vector (Option Byte) 4 := #v[a.feeder0, a.feeder1, a.feeder2, a.feeder3]
    let total := a.total.elim s.seq.total fun b => min 96 b.toNat
    let feeders : Vector Nat 4 := Vector.ofFn fun f => given[f].elim s.seq.feeders[f] fun b => min 48 b.toNat
    let q := { s.seq with total := total, feeders := feeders }
    let fixed := fixedUnits s.seq.held + fixedUnits s.seq.stuck
    let t := shed { s with seq := q }
    ∃ st : Status, exec (.setFeedLimits .dispatch a) s = .next (answer .dispatch ⟨st, .feedLimits total feeders⟩ (arbitrate t))
      ∧ (st = .ok ∨ st = .okClamped)
      ∧ (st = .okClamped ↔ (∃ b, a.total = some b ∧ 96 < b.toNat) ∨ ∃ (f : Fin 4) (b : Byte), given[f] = some b ∧ 48 < b.toNat)
      ∧ t.seq.total = total ∧ t.seq.feeders = feeders ∧ t.seq.loadSound
      ∧ t.seq.onSet.Sublist s.seq.onSet
      ∧ (∀ m ∈ s.seq.onSet, m ∉ t.seq.onSet → t.seq.commanded[m.bay].on = false)
      ∧ ((q.load ≤ total ∧ ∀ f : Fin 4, q.loadOn f ≤ feeders[f]) → t = { s with seq := q })
      ∧ ((s.seq.onSet.map (·.bay)).Nodup → q.fixedExceed = false → (∀ f : Fin 4, q.loadOn f ≤ feeders[f]) →
          ∃ n, t.seq.onSet = s.seq.onSet.take n
            ∧ (n < s.seq.onSet.length → total < memberUnits (s.seq.onSet.take (n + 1)) + fixed))
      ∧ { t with seq := s.seq, bus := s.bus } = s)
  ∧ (∀ s : State,
    let t := shed s
    let q := s.seq
    let bears : Member → Prop := fun m => q.total < q.load ∨ q.feeders[m.feeder] < q.loadOn m.feeder
    let fixedOver := q.total < fixedUnits q.held + fixedUnits q.stuck
      ∨ ∃ f : Fin 4, q.feeders[f] < fixedUnitsOn f q.held + fixedUnitsOn f q.stuck
    s.leaves t (fun b => !t.seq.onSet.any (·.bay == b))
    ∧ (fixedOver → t.seq.onSet = [])
    ∧ (¬ fixedOver → (∀ m ∈ q.onSet, ¬ bears m) → t = s)
    ∧ (¬ fixedOver → ∀ (before after : List Member) (m : Member), q.onSet = before ++ m :: after → bears m → (∀ x ∈ after, ¬ bears x) →
        t = shed (leaveOnSet m.bay s)))
  ∧ (∀ s : State, s.resetHeld = false → ∃ t, exec .feedAlarmAsserted s = .next (arbitrate t)
      ∧ State.leaves { s with seq := { s.seq with feedAlarm := true } } t (fun _ => true)
      ∧ t.seq.feedAlarm = true ∧ t.seq.onSet = []
      ∧ (∀ m ∈ s.seq.onSet, t.seq.commanded[m.bay].on = false)
      ∧ ((s.seq.onSet.map (·.bay)).Nodup → ∀ m ∈ s.seq.onSet, ∀ (i : Nat) (e : Entry), m.entry = some i → t.seq.chain[i]? = some e →
          e.status = .missed)
      ∧ t.seq.held = s.seq.held ∧ t.seq.stuck = s.seq.stuck ∧ { t with seq := s.seq, bus := s.bus } = s)
  ∧ ∀ s : State, exec .feedAlarmReleased s = .next { s with seq := { s.seq with feedAlarm := false } }

/-! ## The clock and the book -/

/-- SET CLOCK: the clock, what becomes of each record, the order of the book and the frame. The rises stand as timers in ms (log 4). The records
made overdue with 240 minutes or more leave one after another in the new book order, each with its own try of R44 (log 36, DESIGN CHOICE), so that
only a BOOKED record can change its state or bay besides. -/
def Obligations.ClockSet : Prop :=
  let removes : State → Nat → State := fun u ref => match u.book.find ref with
    | none => u
    | some d =>
      if d.state = .cleared ∨ d.overdue.all (·.minutes < 240) then u
      else
        let gone := u.loggedOut d .autoCancelled
        match d.state, d.bay with
        | .bound, some b => bindFirst b gone
        | .clearing, some b => bindFirst b (notifyBay .clearance b
            { gone with clearance := { u.clearance with pending := u.clearance.pending.filter (·.ref != ref) } })
        | _, _ => gone
  ∀ (minute : Half) (second : Byte) (s : State), s.ready .dispatch → s.book.sound →
    let m := min 1439 minute.toNat
    let c := min 59 second.toNat
    let ahead : Nat → Nat := fun d => (d + 1440 - m) % 1440
    let late : Departure → Bool := fun d => d.overdue.isNone && decide (720 < ahead d.minute)
    let posted : Port → Notices := fun p => if s.book.records.any late
      then p.notices.add .departure (BaySet.ofList ((s.book.records.filter late).filterMap (·.bay))) else p.notices
    let stands : Departure → Departure → Prop := fun d e => e.ref = d.ref ∧ e.minute = d.minute
      ∧ (d.state ≠ .booked → e.state = d.state ∧ e.bay = d.bay)
      ∧ (d.state = .booked → (e.state = .booked ∧ e.bay = d.bay)
          ∨ (e.state = .bound ∧ ∃ b, e.bay = some b ∧ (s.bay b).state = .bound ∧ d.coach ≠ none ∧ (s.bay b).coach = d.coach))
    ∃ (rs : List Departure) (t : State), exec (.setClock .dispatch minute second) s = .next (answer .dispatch
        ⟨if m = minute.toNat ∧ c = second.toNat then .ok else .okClamped, .clock m c⟩ t)
      ∧ rs.Perm (s.book.records.map fun d => if late d then { d with overdue := some ⟨1440 - ahead d.minute, 60000⟩ } else d)
      ∧ rs.Pairwise (fun x y => y.before m x = false)
      ∧ (let judged : State := { s with
          clock := ⟨true, m, c, 1000⟩
          book := { s.book with records := rs }
          dispatch := { s.dispatch with notices := posted s.dispatch }
          workshop := { s.workshop with notices := posted s.workshop } }
        t = ((rs.map (·.ref)).filter fun r => s.book.records.any fun d => late d && d.ref == r).foldl removes judged
        ∧ ((∀ d ∈ s.book.records, late d = true → d.state = .cleared ∨ 1440 - ahead d.minute < 240) → t = judged))
      ∧ t.clock = ⟨true, m, c, 1000⟩
      ∧ (∀ d ∈ s.book.records, d.overdue.isSome ∨ ahead d.minute ≤ 720 → ∃ e ∈ t.book.records, stands d e ∧ e.overdue = d.overdue)
      ∧ (∀ d ∈ s.book.records, late d = true → d.state = .cleared ∨ 1440 - ahead d.minute < 240 →
          (∃ e ∈ t.book.records, stands d e ∧ e.overdue = some ⟨1440 - ahead d.minute, 60000⟩)
            ∧ ∀ l : Link, (t.port l).notices.kinds &&& NoticeKind.departure.bit ≠ 0#8)
      ∧ (∀ d ∈ s.book.records, late d = true → d.state ≠ .cleared → 240 ≤ 1440 - ahead d.minute →
          (∀ e ∈ t.book.records, e.ref ≠ d.ref) ∧ ∃ x ∈ t.book.log, x.outcome = .autoCancelled)
      ∧ (∀ e ∈ t.book.records, ∃ d ∈ s.book.records, d.ref = e.ref ∧ { e with state := d.state, bay := d.bay, overdue := d.overdue } = d)
      ∧ t.book.records.Pairwise (fun x y => y.before m x = false)
      ∧ ((∀ d ∈ s.book.records, d.overdue = none → ahead d.minute ≤ 720) →
          t = { s with clock := ⟨true, m, c, 1000⟩, book := { s.book with records := t.book.records } })
      ∧ { t with
          clock := s.clock
          book := s.book
          clearance := { t.clearance with pending := s.clearance.pending }
          dispatch := { t.dispatch with notices := s.dispatch.notices }
          workshop := { t.workshop with notices := s.workshop.notices } } = s

/-- BOOK: the refusals in order; the record as taken, its place and the binding of R44.
The echo has the fields of the departure reply (log 23) and shows the record BOOKED, before that binding (log 26, DEDUCED). -/
def Obligations.BookTaken : Prop :=
  ∀ (a : BookArgs) (s : State), s.ready .dispatch →
    let m := min 1439 a.minute.toNat
    let ahead := (m + 1440 - s.clock.minute) % 1440
    let no : Status → Prop := fun st => exec (.book .dispatch a) s = .next (answer .dispatch ⟨st, .empty⟩ s)
    let held := ∃ d ∈ s.book.records, d.ref = a.ref.toNat
    let room := s.book.records.length < 48
    (s.clock.isSet = false → no .clockUnset)
    ∧ (s.clock.isSet = true → a.ref = 0#16 → no .badCommand)
    ∧ (s.clock.isSet = true → a.ref ≠ 0#16 → held → no .exists)
    ∧ (s.clock.isSet = true → a.ref ≠ 0#16 → ¬ held → ¬ room → no .full)
    ∧ (s.clock.isSet = true → a.ref ≠ 0#16 → ¬ held → room → 720 < ahead → no .outOfRange)
    ∧ (s.clock.isSet = true → a.ref ≠ 0#16 → ¬ held → room → ahead ≤ 720 →
      ∃ (r : Departure) (v : DepartureView) (st : Status) (t : State),
        exec (.book .dispatch a) s = .next (answer .dispatch ⟨st, .departure v⟩ t)
        ∧ r = { ref := a.ref.toNat
                minute := m
                coach := a.coach.bind fun c => if c = 0#16 ∨ c = 0xFFFF#16 then none else some c.toNat
                target := a.target.map fun h => max 160 (min 384 h.toInt)
                lead := a.lead.elim 90 fun b => max 10 (min 240 b.toNat)
                state := .booked
                bay := none
                overdue := none
                booking := r.booking
                reasons := none }
        ∧ v.shows r ∧ v.ahead = ahead ∧ (t.book.records[v.position]?).map (·.ref) = some r.ref
        ∧ (st = .ok ∨ st = .okClamped)
        ∧ (st = .okClamped ↔ m ≠ a.minute.toNat ∨ (∃ h, a.target = some h ∧ max 160 (min 384 h.toInt) ≠ h.toInt)
            ∨ ∃ b, a.lead = some b ∧ max 10 (min 240 b.toNat) ≠ b.toNat)
        ∧ t.book.records.length = s.book.records.length + 1
        ∧ t.book.records.Pairwise (fun x y => y.before s.clock.minute x = false)
        ∧ (s.book.nextBooking ≤ 65535 → r.booking = s.book.nextBooking ∧ t.book.nextBooking = s.book.nextBooking + 1
            ∧ (t.book.records.filter (·.ref != r.ref)).Perm s.book.records)
        ∧ (65535 < s.book.nextBooking →
            r.booking = s.book.records.length + 1 ∧ t.book.nextBooking = s.book.records.length + 2
            ∧ ((t.book.records.filter (·.ref != r.ref)).map fun d => { d with booking := 0 }).Perm
                (s.book.records.map fun d => { d with booking := 0 }))
        ∧ t.book.log = s.book.log ∧ t.book.nextSequence = s.book.nextSequence
        ∧ (∀ (c : Nat) (b : BayNo), r.coach = some c → s.bayOfCoach c = some b → (s.bay b).state = .bound → s.book.boundTo b = none →
            { r with state := .bound, bay := some b } ∈ t.book.records ∧ t = notifyBay .departure b { s with book := t.book })
        ∧ ((∀ (c : Nat) (b : BayNo), r.coach = some c → s.bayOfCoach c = some b →
              (s.bay b).state ≠ .bound ∨ s.book.boundTo b ≠ none) →
            r ∈ t.book.records ∧ t = { s with book := t.book }))

/-- AMEND and ASSIGN COACH. Where two refusals of AMEND apply, the answer is one of them (log 35). The echo has the fields of the departure
reply (log 23). -/
def Obligations.AmendAssign : Prop :=
  (∀ (a : AmendArgs) (s : State), s.ready .dispatch → s.book.sound →
    let no : Status → Prop := fun st => exec (.amend .dispatch a) s = .next (answer .dispatch ⟨st, .empty⟩ s)
    let late := ∃ h, a.minute = some h ∧ 720 < (min 1439 h.toNat + 1440 - s.clock.minute) % 1440
    ((∀ d ∈ s.book.records, d.ref ≠ a.ref.toNat) → no .notFound)
    ∧ ∀ d ∈ s.book.records, d.ref = a.ref.toNat →
      (d.state ∈ [.clearing, .cleared] → ¬ late → no .wrongState)
      ∧ (d.state ∈ [.booked, .bound] → late → no .outOfRange)
      ∧ (d.state ∈ [.clearing, .cleared] → late → no .wrongState ∨ no .outOfRange)
      ∧ (d.state ∈ [.booked, .bound] → ¬ late → ∃ (e : Departure) (v : DepartureView) (st : Status) (rs : List Departure),
        exec (.amend .dispatch a) s = .next (answer .dispatch ⟨st, .departure v⟩ { s with book := { s.book with records := rs } })
        ∧ e = { d with
            minute := a.minute.elim d.minute fun h => min 1439 h.toNat
            overdue := if a.minute.isSome then none else d.overdue
            target := match a.target with
              | .keep => d.target
              | .set h => some (max 160 (min 384 h.toInt))
              | .remove => none
            lead := a.lead.elim d.lead fun b => max 10 (min 240 b.toNat) }
        ∧ rs.Perm (s.book.records.map fun x => if x.ref = d.ref then e else x)
        ∧ rs.Pairwise (fun x y => y.before s.clock.minute x = false)
        ∧ v.shows e ∧ rs[v.position]? = some e
        ∧ (st = .ok ∨ st = .okClamped)
        ∧ (st = .okClamped ↔ (∃ h, a.minute = some h ∧ 1439 < h.toNat)
            ∨ (∃ h, a.target = .set h ∧ max 160 (min 384 h.toInt) ≠ h.toInt)
            ∨ ∃ b, a.lead = some b ∧ max 10 (min 240 b.toNat) ≠ b.toNat)))
  ∧ ∀ (ref coach : Half) (s : State), s.ready .dispatch → s.book.sound →
    let c := if coach = 0#16 ∨ coach = 0xFFFF#16 then none else some coach.toNat
    let taken : (Departure → Departure) → State := fun f =>
      { s with book := { s.book with records := s.book.records.map fun x => if x.ref = ref.toNat then f x else x } }
    let answers : Status → State → Prop := fun st t =>
      exec (.assignCoach .dispatch ref coach) s = .next (answer .dispatch ⟨st, .empty⟩ t)
    ((∀ d ∈ s.book.records, d.ref ≠ ref.toNat) → answers .notFound s)
    ∧ ∀ d ∈ s.book.records, d.ref = ref.toNat →
      (d.state ≠ .booked → answers .wrongState s)
      ∧ (d.state = .booked →
        (∀ (x : Nat) (b : BayNo), c = some x → s.bayOfCoach x = some b → (s.bay b).state = .bound → s.book.boundTo b = none →
          answers .ok (notifyBay .departure b (taken fun d => { d with coach := c, state := .bound, bay := some b })))
        ∧ ((∀ (x : Nat) (b : BayNo), c = some x → s.bayOfCoach x = some b → (s.bay b).state ≠ .bound ∨ s.book.boundTo b ≠ none) →
          answers .ok (taken fun d => { d with coach := c })))

/-- CANCEL in the record's states, the log entry, and the binding of the coach's next record (R44). A CLEARED departure's bay returns to BOUND
with its SIGNAL request and no other, also with its identity unconfirmed and the plug present: no ident is asked there (log 39, DESIGN CHOICE). -/
def Obligations.CancelTaken : Prop :=
  (∀ (ref : Half) (s : State), s.ready .dispatch → s.book.sound →
    let answers : Status → State → Prop := fun st t => exec (.cancel .dispatch ref) s = .next (answer .dispatch ⟨st, .empty⟩ t)
    ((∀ d ∈ s.book.records, d.ref ≠ ref.toNat) → answers .notFound s)
    ∧ ∀ d ∈ s.book.records, d.ref = ref.toNat →
      let gone := s.loggedOut d .cancelled
      (d.state = .booked → answers .ok (arbitrate gone))
      ∧ ∀ b : BayNo, d.bay = some b →
        (d.state = .bound → answers .ok (arbitrate (bindFirst b gone)))
        ∧ (d.state = .clearing → answers .ok (arbitrate (bindFirst b (notifyBay .clearance b
            { gone with clearance := { s.clearance with pending := s.clearance.pending.filter (·.ref != d.ref) } }))))
        ∧ (d.state = .cleared → (s.bay b).state ∈ [.cleared, .leaving] → s.clearance.signals[b] = .green → ∃ t, answers .ok (arbitrate t)
            ∧ (let alert := (s.bay b).state = .leaving
              let signal : Aspect := if alert then .alert else .red
              t = bindFirst b (notifyBay .bay b { gone with
                bays := s.bays.set b { s.bay b with state := .bound }
                clearance := { s.clearance with
                  signals := s.clearance.signals.set b signal
                  alerts := s.clearance.alerts.set b (if alert then some 300000 else none) }
                bus := if s.bus.posts[b].silent then s.bus else s.signalled b signal }))
            ∧ t.bus = (if s.bus.posts[b].silent then s.bus
                else s.signalled b (if (s.bay b).state = .leaving then .alert else .red))
            ∧ (t.bay b) = { s.bay b with state := .bound }
            ∧ t.clearance.signals[b] = (if (s.bay b).state = .leaving then .alert else .red)
            ∧ t.clearance.alerts[b] = (if (s.bay b).state = .leaving then some 300000 else none)
            ∧ t.book.log = gone.book.log ∧ t.book.records.map (·.ref) = gone.book.records.map (·.ref)
            ∧ { t with
                bays := s.bays
                book := s.book
                bus := s.bus
                clearance := { t.clearance with signals := s.clearance.signals, alerts := s.clearance.alerts }
                dispatch := { t.dispatch with notices := s.dispatch.notices }
                workshop := { t.workshop with notices := s.workshop.notices } } = s))
  ∧ ∀ (b : BayNo) (s : State), s.book.sound →
    (∀ (c : Nat) (before after : List Departure) (d : Departure), (s.bay b).state = .bound → s.book.boundTo b = none →
      (s.bay b).coach = some c → s.book.records = before ++ d :: after → d.state = .booked → d.coach = some c →
      (∀ x ∈ before, ¬ (x.state = .booked ∧ x.coach = some c)) →
      bindFirst b s = notifyBay .departure b
        { s with book := { s.book with records := before ++ { d with state := .bound, bay := some b } :: after } })
    ∧ ((s.bay b).state ≠ .bound ∨ s.book.boundTo b ≠ none ∨ (s.bay b).coach = none
        ∨ (∀ x ∈ s.book.records, ¬ (x.state = .booked ∧ x.coach = (s.bay b).coach)) → bindFirst b s = s)

/-! ## Clearance -/

/-- REQUEST CLEARANCE for a ref not in the book and for a record that is not BOUND; the reason set of the other answers is free (log 16). -/
def Obligations.ClearanceRequested : Prop :=
  ∀ (ref : Half) (cold : Bool) (s : State), s.ready .dispatch → s.book.sound →
    let u : State := { s with choices := s.choices + 1 }
    let answers : Status → ReasonSet → State → Prop := fun st rs t =>
      exec (.requestClearance .dispatch ref cold) s = .next (answer .dispatch ⟨st, .clearance ref.toNat rs⟩ t)
    ((∀ d ∈ s.book.records, d.ref ≠ ref.toNat) → ∃ rs, answers .notFound rs u)
    ∧ ∀ d ∈ s.book.records, d.ref = ref.toNat →
      (d.state = .booked → answers .ok 0x001#12 (notify .clearance 0#24 u))
      ∧ (d.state = .clearing → ∃ rs, answers .merged rs { u with clearance := { s.clearance with
          pending := s.clearance.pending.map fun p => if p.ref = d.ref then { p with cold := p.cold || cold } else p } })
      ∧ (d.state = .cleared → ∃ rs, answers .already rs u)

/-- REQUEST CLEARANCE for a BOUND record: granted, refused, or made pending with the test and the read it asks for; and a pending completion,
which the end of a test or of a read on the bay brings. The reason set of a PENDING answer is free (log 16); a grant leaves no ident request
of the bay outstanding (log 13, DEDUCED), where one whose result is discarded no longer counts (log 14, DEDUCED), and every other request as
it stands. -/
def Obligations.ClearanceDecided : Prop :=
  let recorded : Departure → (Departure → Departure) → State → Book := fun d f s =>
    { s.book with records := s.book.records.map fun x => if x.ref = d.ref then f x else x }
  let refused : Departure → BayNo → ReasonSet → State → State := fun d b rs s => notifyBay .clearance b { s with
    book := recorded d (fun x => { x with state := .bound, reasons := some rs }) s
    clearance := { s.clearance with pending := s.clearance.pending.filter (·.ref != d.ref) } }
  let granted : Departure → BayNo → State → State → Prop := fun d b s t =>
    t.book = recorded d (fun x => { x with state := .cleared, reasons := none }) s
    ∧ t.bays = s.bays.set b { s.bay b with state := if (s.bay b).plug then .cleared else .leaving }
    ∧ t.clearance.pending = s.clearance.pending.filter (·.ref != d.ref) ∧ t.clearance.signals = s.clearance.signals.set b .green
    ∧ t.clearance.alerts = (if s.clearance.signals[b] = .green then s.clearance.alerts else s.clearance.alerts.set b none)
    ∧ (s.clearance.signals[b] ≠ .green → s.bus.posts[b].silent = false → t.waits (· == .signal b .green) = true)
    ∧ t.clearance.window = s.clearance.window
    ∧ t.outstanding (Job.isIdentFor b) = false
    ∧ (let rest : State := { s with bus := s.withdrawn (Job.isIdentFor b) }
      t.bus = if s.clearance.signals[b] = .green ∨ s.bus.posts[b].silent = true then rest.bus else rest.signalled b .green)
    ∧ (∀ l, (t.port l).notices = ((s.port l).notices.add .bay (BaySet.single b)).add .clearance (BaySet.single b))
    ∧ { t with
        book := s.book
        bays := s.bays
        bus := s.bus
        clearance := s.clearance
        dispatch := { t.dispatch with notices := s.dispatch.notices }
        workshop := { t.workshop with notices := s.workshop.notices } } = s
  (∀ (ref : Half) (cold : Bool) (d : Departure) (b : BayNo) (s : State), s.ready .dispatch → s.book.sound →
    d ∈ s.book.records → d.ref = ref.toNat → d.state = .bound → d.bay = some b →
    let u : State := { s with choices := s.choices + 1 }
    let rs := s.evaluate d cold
    let lamp := rs &&& 0x020#12 ≠ 0#12
    let read := rs &&& 0x040#12 ≠ 0#12
    let pend : State := notifyBay .clearance b { u with
      book := recorded d (fun x => { x with state := .clearing }) u
      clearance := { s.clearance with pending := s.clearance.pending ++ [⟨d.ref, b, cold, 90000⟩] } }
    let answers : Status → ReasonSet → State → Prop := fun st rs t =>
      exec (.requestClearance .dispatch ref cold) s = .next (answer .dispatch ⟨st, .clearance ref.toNat rs⟩ t)
    (rs = 0#12 → (s.bay b).state = .bound → ∃ t, answers .ok 0#12 (arbitrate t) ∧ granted d b u t)
    ∧ (rs &&& ~~~0x060#12 ≠ 0#12 → answers .ok rs (refused d b rs u))
    ∧ (rs ≠ 0#12 → rs &&& ~~~0x060#12 = 0#12 →
      (lamp → s.testActive b = false → 8 ≤ s.lamp.queue.length → answers .ok rs (arbitrate (refused d b rs u)))
      ∧ (rs = 0x040#12 → (s.bay b).plug = true → s.reader.reading[b] = none → ∃ any, answers .pending any (arbitrate { pend with
          reader := { s.reader with reading := s.reader.reading.set b (some ⟨0, none, 0, [], 0⟩) }
          bus := { s.bus with waiting := s.bus.waiting ++ [⟨.faultPage b 0, s.bus.event⟩] } }))
      ∧ (rs = 0x020#12 → s.lamp.queue.any (·.bay == b) = false → s.testActive b = true → ∃ any, answers .pending any (arbitrate pend))
      ∧ ((lamp → s.testActive b = true ∨ s.lamp.queue.length < 8) →
        let asked : State := if lamp then (requestTest b .urgent pend).1 else pend
        let clearing := ∃ x, asked.book.find d.ref = some x ∧ x.state = .clearing
        ∃ st any t, answers st any (arbitrate t)
          ∧ (read → clearing → t = (requestFaultReading b asked).1) ∧ (¬ read ∨ ¬ clearing → t = asked)
          ∧ (st = .pending ∨ st = .ok)
          ∧ (st = .pending ↔ ∃ x, t.book.find d.ref = some x ∧ x.state = .clearing)
          ∧ (∀ x, st = .ok → t.book.find d.ref = some x → any = x.reasons.getD 0#12))))
  ∧ ∀ (b : BayNo) (s : State),
    ((∀ d ∈ s.book.records, d.bay = some b → d.state ≠ .clearing) → pendingCompletion b s = s)
    ∧ ∀ (d : Departure) (p : PendingClearance), s.book.boundTo b = some d → d.state = .clearing → s.clearance.find d.ref = some p →
      let rs := s.evaluate d p.cold
      let test := (∃ q ∈ s.lamp.queue, q.bay = b) ∨ ∃ (e : EngineNo) (x : RunningTest), s.lamp.engines[e] = .running x ∧ x.bay = b
      let running := (rs &&& 0x020#12 ≠ 0#12 → test) ∧ (rs &&& 0x040#12 ≠ 0#12 → s.reader.reading[b] ≠ none)
      (rs = 0#12 → granted d b s (pendingCompletion b s))
      ∧ (rs &&& ~~~0x060#12 ≠ 0#12 → pendingCompletion b s = refused d b rs s)
      ∧ (rs ≠ 0#12 → rs &&& ~~~0x060#12 = 0#12 →
        (running → pendingCompletion b s = s) ∧ (¬ running → pendingCompletion b s = refused d b rs s))

/-- The reason set of an evaluation, reason by reason; bits as in the departure reply. Ages stand in ms and are judged in whole minutes and
seconds (log 5, DESIGN CHOICE). -/
def Obligations.Conditions : Prop :=
  ∀ (s : State) (d : Departure) (cold : Bool),
    ((d.state ≠ .bound ∧ d.state ≠ .clearing) ∨ (∀ b, d.bay = some b → (s.bay b).state ≠ .bound) → s.evaluate d cold = 0x001#12)
    ∧ ∀ b, d.bay = some b → d.state ∈ [.bound, .clearing] → (s.bay b).state = .bound →
      let rs := s.evaluate d cold
      let target := d.target.getD s.planner.defaultTarget
      rs.getLsbD 0 = false
      ∧ (rs.getLsbD 1 = true ↔ (s.bay b).hold = true)
      ∧ (rs.getLsbD 2 = true ↔ s.bus.posts[b].silent = true)
      ∧ (rs.getLsbD 3 = true ↔ ∃ e ∈ s.store.lists[b], e.action = .block ∧ (e.state = .opened ∨ e.state = .acknowledged))
      ∧ (rs.getLsbD 4 = true ↔ s.store.marks[b].fault = true ∨ s.store.marks[b].lamp = true ∨ s.store.marks[b].post = true)
      ∧ (rs.getLsbD 5 = true ↔ ¬ ∃ r, s.lamp.results[b] = some r ∧ r.outcome ∈ [.passed, .passedWithNotes, .failed]
          ∧ r.age / 60000 ≤ s.lamp.freshness)
      ∧ (rs.getLsbD 6 = true ↔ s.reader.readSince[b] = false)
      ∧ (rs.getLsbD 7 = true ↔ cold = false ∧ ∃ c, (s.bay b).cabin = some c ∧ c.temperature < target - s.planner.tolerance)
      ∧ (rs.getLsbD 8 = true ↔ cold = false ∧ ∀ c, (s.bay b).cabin = some c → 30 < c.age / 1000)
      ∧ (rs.getLsbD 9 = true ↔ s.clearance.window
          < (if d.overdue.isSome then 0 else (d.minute + 1440 - s.clock.minute) % 1440))
      ∧ rs.getLsbD 10 = false ∧ rs.getLsbD 11 = false

/-- A revocation, as a report that bears on a CLEARED departure brings it; and WITHDRAW CLEARANCE, which brings the same for a CLEARED
record. The bay returns to BOUND with its SIGNAL request and no other, also with its identity unconfirmed and the plug present: no ident is
asked there (log 39, DESIGN CHOICE). -/
def Obligations.RevocationTaken : Prop :=
  (∀ (b : BayNo) (s : State), (∀ d ∈ s.book.records, d.bay = some b → d.state ≠ .cleared) → reportToClearance b s = s)
  ∧ (∀ (d : Departure) (b : BayNo) (s : State), s.book.sound → s.book.boundTo b = some d → d.state = .cleared →
    (s.bay b).state ∈ [.cleared, .leaving] → s.clearance.signals[b] = .green →
    let t := reportToClearance b s
    let alert := (s.bay b).state = .leaving
    t.bays = s.bays.set b { s.bay b with state := .bound }
    ∧ t.clearance = { s.clearance with
        signals := s.clearance.signals.set b (if alert then .alert else .red)
        alerts := s.clearance.alerts.set b (if alert then some 300000 else none) }
    ∧ ((∀ o, d.overdue = some o → o.minutes < 240) →
        t.book = { s.book with records := s.book.records.map fun x => if x.ref = d.ref then { x with state := .bound } else x }
        ∧ ∀ l, (t.port l).notices = ((s.port l).notices.add .bay (BaySet.single b)).add .clearance (BaySet.single b))
    ∧ ((∃ o, d.overdue = some o ∧ 240 ≤ o.minutes) →
        t.book.records.map (·.ref) = (s.book.records.map (·.ref)).filter (· != d.ref)
        ∧ t.book.log.getLast?.map (fun e => (e.ref, e.outcome, e.bay)) = some (d.ref, .autoCancelled, some b))
    ∧ t.bus = (if s.bus.posts[b].silent then s.bus else s.signalled b (if alert then .alert else .red))
    ∧ { t with
        bays := s.bays
        book := s.book
        bus := s.bus
        clearance := s.clearance
        dispatch := { t.dispatch with notices := s.dispatch.notices }
        workshop := { t.workshop with notices := s.workshop.notices } } = s)
  ∧ ∀ (ref : Half) (s : State), s.ready .dispatch → s.book.sound →
    let answers : Status → State → Prop := fun st t =>
      exec (.withdrawClearance .dispatch ref) s = .next (answer .dispatch ⟨st, .empty⟩ t)
    ((∀ d ∈ s.book.records, d.ref ≠ ref.toNat) → answers .notFound s)
    ∧ ∀ d ∈ s.book.records, d.ref = ref.toNat →
      (d.state ∈ [.booked, .bound] → answers .wrongState s)
      ∧ ∀ b : BayNo, d.bay = some b →
        (d.state = .clearing → answers .ok (notifyBay .clearance b { s with
          book := { s.book with records := s.book.records.map fun x =>
            if x.ref = d.ref then { x with state := .bound, reasons := some 0x800#12 } else x }
          clearance := { s.clearance with pending := s.clearance.pending.filter (·.ref != d.ref) } }))
        ∧ (d.state = .cleared → s.book.boundTo b = some d → answers .ok (arbitrate (reportToClearance b s)))

/-! ## DEPOT RESTART -/

/-- DEPOT RESTART at every block. The cancellations are logged as the bays stand before their teardown, and its parts come in the order of log 27
(DEDUCED); the takes of R106 come after the teardowns (log 28, DEDUCED), and its DEPARTURE and CLEARANCE notices come with nothing to drop too
(log 17, DEDUCED). Where every test queued or running is for a bay that the restart tears down (R104, R114), the lamp unit, the waiting requests, the
transaction in flight and the notices are given whole; a HEAT or SIGNAL in flight keeps its result (log 42, DEDUCED). -/
def Obligations.Restarted : Prop :=
  ∀ s : State, s.ready .dispatch → s.book.log.length ≤ 16 → ∃ u, exec (.depotRestart .dispatch) s = .next (answer .dispatch ⟨.ok, .empty⟩ (arbitrate u)) ∧
    let t := arbitrate u
    let all := List.finRange 24
    let torn : BayNo → Bool := fun b => decide (b.val < s.bayCount ∧ (s.bay b).state ∈ [.bound, .cleared, .leaving])
    let tested : BayNo → Bool := fun b =>
      s.lamp.queue.any (·.bay == b) || (List.finRange 2).any fun e : EngineNo => s.lamp.engines[e].testing == some b
    let bays : (BayNo → Bool) → BaySet := fun p => BaySet.ofList (all.filter p)
    (let next : Nat → Nat := fun n => (n + 1) % 65536
      let entries := s.book.log ++ s.book.records.mapIdx fun i d =>
        { logEntryOf s d .cancelled false with sequence := next^[i] s.book.nextSequence }
      t.book = ⟨[], 1, entries.drop (entries.length - 16), next^[s.book.records.length] s.book.nextSequence⟩)
    ∧ t.clearance.pending = [] ∧ t.clearance.window = s.clearance.window
    ∧ t.planner = { s.planner with results := Vector.replicate 24 ⟨0, 0#6⟩ }
    ∧ t.seq = { s.seq with
        chain := []
        onSet := []
        commanded := Vector.replicate 24 ⟨false, s.now⟩
        missed := Vector.replicate 24 0 }
    ∧ t.store = ⟨List.finRange 96, Vector.replicate 24 [], Vector.replicate 24 ⟨false, false, false⟩, 0, 1⟩
    ∧ (∀ b : BayNo, b.val < s.bayCount → (s.bay b).state ∈ [.bound, .cleared, .leaving] →
      t.bay b = { s.bay b with
          state := .arrived
          conflict := false
          coach := none
          cls := none
          cabin := none
          cabinAtUnplug := none
          unconfirmed := false
          dropped := s.store.lists[b].length
          retry := if (s.bay b).plug ∧ s.bus.posts[b].silent then some 30000 else none }
      ∧ t.clearance.signals[b] = .red ∧ t.reader.reading[b] = none ∧ t.reader.last[b] = none
      ∧ t.reader.readSince[b] = false ∧ t.reader.scan[b] = none)
    ∧ (∀ b : BayNo, (s.bay b).state ∉ [.bound, .cleared, .leaving] → t.bay b = s.bay b)
    ∧ (∀ r ∈ t.bus.waiting, r.job.isHeatOrSignal = false)
    ∧ ((∃ r ∈ t.bus.waiting, r.job = .allOff) ∨ ∃ x, t.bus.wire = .busy x ∧ x.job = .allOff)
    ∧ t.bus.posts = s.bus.posts ∧ t.clock = s.clock ∧ t.classes = s.classes
    ∧ (∀ b : BayNo, torn b = false → t.clearance.signals[b] = s.clearance.signals[b] ∧ t.clearance.alerts[b] = s.clearance.alerts[b])
    ∧ (∀ b : BayNo, torn b = true → s.clearance.signals[b] ≠ .red → t.clearance.alerts[b] = none)
    ∧ (∀ b : BayNo, torn b = false → t.reader.reading[b] = s.reader.reading[b] ∧ t.reader.last[b] = s.reader.last[b]
        ∧ t.reader.readSince[b] = s.reader.readSince[b] ∧ t.reader.scan[b] = s.reader.scan[b])
    ∧ (∀ l, { t.port l with notices := (s.port l).notices } = s.port l)
    ∧ (∀ b : BayNo, torn b = true → t.lamp.results[b] = none ∧ (∀ q ∈ t.lamp.queue, q.bay ≠ b))
    ∧ (s.lamp.sound → (∀ b : BayNo, tested b = true → torn b = true) →
      t.lamp = { s.lamp with
        queue := []
        engines := s.lamp.engines.map fun e => match e with
          | .running x => if s.bus.posts[x.bay].silent then .free else .releasing x.bay
          | .releasing b => .releasing b
          | .free => .free
        results := Vector.ofFn fun b => if torn b then none else s.lamp.results[b] }
      ∧ (let ends : Job → Bool := fun j => match j with
          | .ident b | .faultPage b _ => torn b
          | .lampStep e _ _ | .lampRead e _ _ => s.lamp.engines[e].testing != none
          | .heat .. | .signal .. | .lampEnd .. | .allOff | .sense _ | .ping _ => false
        let asks : BayNo → List Job := fun b =>
          ((List.finRange 2).filter fun e : EngineNo => s.lamp.engines[e].testing == some b).map (fun e => .lampEnd e b)
            ++ if (s.bay b).plug then [.ident b] else []
        u.bus = { s.bus with
          waiting := (s.bus.waiting.filter fun r => !r.job.isHeatOrSignal && !ends r.job)
            ++ ((all.filter fun b => torn b && !s.bus.posts[b].silent).flatMap asks).map (⟨·, s.bus.event⟩)
            ++ (if s.bus.waiting.any (·.job == .allOff) then [] else [⟨.allOff, s.bus.event⟩])
          wire := match s.bus.wire with
            | .busy x => .busy { x with discarded := x.discarded || ends x.job }
            | .free => .free
            | .quiet => .quiet })
      ∧ ∀ l, (t.port l).notices = { (s.port l).notices with
          kinds := (s.port l).notices.kinds ||| 0x0C#8 ||| (if all.any torn then 0x12#8 else 0#8) ||| (if all.any tested then 0x20#8 else 0#8)
          bay := (s.port l).notices.bay ||| bays torn
          departure := (s.port l).notices.departure ||| bays (fun b => s.book.records.any (·.bay == some b))
          clearance := (s.port l).notices.clearance ||| bays (fun b => s.clearance.pending.any (·.bay == b))
          defect := (s.port l).notices.defect ||| bays torn
          lamp := (s.port l).notices.lamp ||| bays tested })
    ∧ t.lamp.freshness = s.lamp.freshness ∧ t.reader.rules = s.reader.rules ∧ t.reader.period = s.reader.period
    ∧ { t with
        bays := s.bays
        book := s.book
        planner := s.planner
        seq := s.seq
        lamp := s.lamp
        reader := s.reader
        store := s.store
        clearance := s.clearance
        bus := s.bus
        dispatch := s.dispatch
        workshop := s.workshop } = s

/-! ## Lamp tests -/

/-- REQUEST LAMP TEST, the URGENT request of the clearance unit with its promotion, and ABORT LAMP TEST; and the takes of R106 that an event
brings, takeAll: the first entry whose bay is not under test goes to engine 0, or to engine 1 while only that is FREE, and the take is followed by
the next. The ROUTINE request of a binding, requestAutoTest, posts a LAMP notice when it finds the queue full. What a merge does is
FindingsApplied's, what a test's end does at a pending clearance ClearanceDecided's. -/
def Obligations.LampTestAsked : Prop :=
  let fails : BayNo → LampReason → State → Prop := fun b reason s =>
    (s.classOf b = none ∧ reason = .noClass)
    ∨ ∃ c : ClassRecord, s.classOf b = some c
      ∧ (((∀ i : Fin 16, c.lamps[i] = none) ∧ reason = .noLampSet)
        ∨ ((∃ i : Fin 16, c.lamps[i] ≠ none)
          ∧ (((s.bay b).plug = false ∧ reason = .noPlug)
            ∨ ((s.bay b).plug = true ∧ s.bus.posts[b].silent = true ∧ reason = .postSilent))))
  let untested : BayNo → LampReason → State → State := fun b reason s => pendingCompletion b (notifyBay .lamp b
    { s with lamp := { s.lamp with results := s.lamp.results.set b (some ⟨.incomplete reason, 0, none⟩) } })
  let starts : EngineNo → BayNo → State → State → Prop := fun e b s t =>
    ∃ (c : ClassRecord) (first : Fin 16) (rs : Vector CircuitResult 16),
      s.classOf b = some c ∧ c.lamps[first].isSome ∧ (∀ i : Fin 16, i < first → c.lamps[i] = none)
      ∧ (∀ i : Fin 16, rs[i] = if c.lamps[i].isSome then .untested else .undefined)
      ∧ t = placeJob (.lampStep e b first) (leaveOnSet b { s with
          lamp := { s.lamp with engines := s.lamp.engines.set e (.running ⟨b, c.lamps, c.settle, first, rs, none⟩) } })
  (∀ (l : Link) (bay : Byte) (s : State), s.ready l → s.fits bay → let b := bayOf bay
    let answers : Status → State → Prop := fun st t => exec (.requestLampTest l bay) s = .next (answer l ⟨st, .empty⟩ t)
    let queued := s.lamp.queue.any (·.bay == b)
    let running := ∃ (e : EngineNo) (x : RunningTest), s.lamp.engines[e] = .running x ∧ x.bay = b
    ((s.bay b).state ∈ [.closed, .empty, .arrived] → answers .wrongState s)
    ∧ ((s.bay b).state ∈ [.bound, .cleared, .leaving] →
      ((queued = true ∨ running) → answers .merged s)
      ∧ (queued = false → ¬ running →
        (8 ≤ s.lamp.queue.length → answers .queueFull s)
        ∧ (s.lamp.queue.length < 8 → answers .ok (arbitrate (takeAll
            { s with lamp := { s.lamp with queue := s.lamp.queue ++ [⟨b, .routine⟩] } })))
        ∧ (s.lamp.queue = [] → s.lamp.engines[0] = .free → s.lamp.engines[1] = .free →
          (∀ reason, fails b reason s → answers .ok (arbitrate (untested b reason s)))
          ∧ ((∀ reason, ¬ fails b reason s) → ∃ t, answers .ok (arbitrate t) ∧ starts 0 b s t)))))
  ∧ (∀ (b : BayNo) (urgent routine : List QueueEntry) (s : State), s.lamp.queue = urgent ++ routine →
      (∀ q ∈ urgent, q.level = .urgent) → (∀ q ∈ routine, q.level = .routine) →
    let answers : RequestAnswer → State → Prop := fun a t => requestTest b .urgent s = (t, a)
    let queue : List QueueEntry → State := fun q => { s with lamp := { s.lamp with queue := q } }
    let running := ∃ (e : EngineNo) (x : RunningTest), s.lamp.engines[e] = .running x ∧ x.bay = b
    ((s.bay b).state ∈ [.closed, .empty, .arrived] → answers .wrongState s)
    ∧ ((s.bay b).state ∈ [.bound, .cleared, .leaving] →
      (⟨b, .routine⟩ ∈ routine → (∀ q ∈ urgent, q.bay ≠ b) →
        answers .merged (queue (urgent ++ ⟨b, .urgent⟩ :: routine.filter (·.bay != b))))
      ∧ (⟨b, .routine⟩ ∉ routine → running ∨ ⟨b, .urgent⟩ ∈ urgent → answers .merged s)
      ∧ ((∀ q ∈ s.lamp.queue, q.bay ≠ b) → ¬ running →
        (8 ≤ s.lamp.queue.length → answers .queueFull s)
        ∧ (s.lamp.queue.length < 8 → answers .ok (takeAll (queue (urgent ++ ⟨b, .urgent⟩ :: routine)))))))
  ∧ (∀ s : State,
    let busy : BayNo → Prop := fun b => ∃ e : EngineNo, s.lamp.engines[e] = .releasing b ∨ ∃ x, s.lamp.engines[e] = .running x ∧ x.bay = b
    ((∀ e : EngineNo, s.lamp.engines[e] ≠ .free) ∨ (∀ q ∈ s.lamp.queue, busy q.bay) → takeAll s = s)
    ∧ ∀ (before after : List QueueEntry) (q : QueueEntry) (e : EngineNo), s.lamp.queue = before ++ q :: after → (s.lamp.queue.map (·.bay)).Nodup →
      (∀ x ∈ before, busy x.bay) → ¬ busy q.bay → s.lamp.engines[e] = .free → (∀ f : EngineNo, f < e → s.lamp.engines[f] ≠ .free) →
      let left : State := { s with lamp := { s.lamp with queue := before ++ after } }
      (∀ reason, fails q.bay reason s → takeAll s = takeAll (untested q.bay reason left))
      ∧ ((∀ reason, ¬ fails q.bay reason s) → ∃ t, starts e q.bay left t ∧ takeAll s = takeAll t))
  ∧ (∀ (b : BayNo) (s : State),
    let known := (∃ q ∈ s.lamp.queue, q.bay = b) ∨ ∃ (e : EngineNo) (x : RunningTest), s.lamp.engines[e] = .running x ∧ x.bay = b
    ((s.bay b).state ∈ [.closed, .empty, .arrived] → requestAutoTest b s = s)
    ∧ ((s.bay b).state ∈ [.bound, .cleared, .leaving] → known → requestAutoTest b s = s)
    ∧ ((s.bay b).state ∈ [.bound, .cleared, .leaving] → ¬ known →
      (8 ≤ s.lamp.queue.length → requestAutoTest b s = notifyBay .lamp b s)
      ∧ (s.lamp.queue.length < 8 → requestAutoTest b s
          = takeAll { s with lamp := { s.lamp with queue := s.lamp.queue ++ [⟨b, .routine⟩] } })))
  ∧ ∀ (bay : Byte) (s : State), s.ready .workshop → s.fits bay → let b := bayOf bay
    let answers : Status → State → Prop := fun st t => exec (.abortLampTest .workshop bay) s = .next (answer .workshop ⟨st, .empty⟩ t)
    let runs := ∃ (e : EngineNo) (x : RunningTest), s.lamp.engines[e] = .running x ∧ x.bay = b
    (¬ runs → (∀ q ∈ s.lamp.queue, q.bay ≠ b) → answers .notFound s)
    ∧ (¬ runs → (∃ q ∈ s.lamp.queue, q.bay = b) → answers .ok (arbitrate (pendingCompletion b (notifyBay .lamp b { s with
        lamp := { s.lamp with
          queue := s.lamp.queue.filter (·.bay != b)
          results := s.lamp.results.set b (some ⟨.incomplete .aborted, 0, none⟩) } }))))
    ∧ (∀ (e : EngineNo) (x : RunningTest), s.lamp.sound → s.lamp.engines[e] = .running x → x.bay = b →
      let ended := s.testAborted e x .aborted
      (s.bus.posts[b].silent = false → answers .ok (arbitrate (takeAll (placeJob (.lampEnd e b) ended))))
      ∧ (s.bus.posts[b].silent = true → answers .ok (arbitrate (takeAll
          { ended with lamp := { ended.lamp with engines := s.lamp.engines.set e .free } })))
      ∧ (s.lamp.queue = [] → s.bus.posts[b].silent = false → ∃ t, answers .ok t
        ∧ t.lamp = { s.lamp with
            engines := s.lamp.engines.set e (.releasing b)
            results := s.lamp.results.set b (some ⟨.incomplete .aborted, 0, some x.results⟩) }
        ∧ t.outstanding (· == .lampEnd e b) = true ∧ t.outstanding (Job.isStepOf e) = false))

/-- The steps of a test: the settle timer, the LAMP STEP and LAMP READ responses, and the LAMP END; takeAll makes the takes of R106
that the event brings. A response is taken as in R173: the bus is free, the idle timer restarts, the post's failures are cleared. What a merge
does is FindingsApplied's, what a test's end does at a pending clearance ClearanceDecided's. An expiry of a settle timer that does not run
changes nothing (log 7, DESIGN CHOICE), and one of a timer that runs fires whatever it has left (log 8, DESIGN CHOICE). -/
def Obligations.LampSteps : Prop :=
  ∀ (e : EngineNo) (x : RunningTest) (order : FailureOrder) (s : State), s.resetHeld = false →
    let b := x.bay
    let freed : State := clearFailures b (freeWire s)
    let set : Engine → State → State := fun y t => { t with lamp := { t.lamp with engines := t.lamp.engines.set e y } }
    let flies : Job → Prop := fun j => ∃ retry timer, s.bus.wire = .busy ⟨j, retry, timer, false⟩
    let takes : Job → PostStatus → PostPayload → State → Prop := fun j st p t =>
      ∀ r : PostReply, answersTo r j st p → exec (.postResponse r order) s = .next (arbitrate t)
    let ended : LampOutcome → Vector CircuitResult 16 → State → State := fun o rs t => { t with lamp := { t.lamp with
      engines := t.lamp.engines.set e (.releasing b), results := t.lamp.results.set b (some ⟨o, 0, some rs⟩) } }
    let handedOn : State → State := fun t => takeAll (placeJob (.lampEnd e b) (pendingCompletion b (notifyBay .lamp b t)))
    (s.lamp.engines[e] = .running x →
      (x.settling = none → exec (.settleTimerExpiry e) s = .next s)
      ∧ (∀ ms, x.settling = some ms → s.bus.posts[b].silent = false → exec (.settleTimerExpiry e) s
          = .next (arbitrate (takeAll (placeJob (.lampRead e b x.circuit) (set (.running { x with settling := none }) s)))))
      ∧ (flies (.lampStep e b x.circuit) → takes (.lampStep e b x.circuit) .ok .empty
          (set (.running { x with settling := some x.settle }) freed))
      ∧ (∀ (current : Half) (w : Circuit), flies (.lampRead e b x.circuit) → x.lamps[x.circuit] = some w →
          s.bus.posts[b].silent = false →
          let i := min 4000 current.toNat
          let judged : CircuitResult :=
            if i < w.minimum then .low i w.action else if w.maximum < i then .high i w.action else .pass
          let rs := x.results.set x.circuit judged
          (∀ c : Fin 16, x.circuit < c → x.lamps[c].isSome → (∀ d : Fin 16, x.circuit < d → d < c → x.lamps[d] = none) →
            takes (.lampRead e b x.circuit) .ok (.current current) (takeAll (placeJob (.lampStep e b c)
              (set (.running { x with results := rs, settling := none, circuit := c }) freed))))
          ∧ ((∀ c : Fin 16, x.circuit < c → x.lamps[c] = none) → ∃ o : LampOutcome,
            takes (.lampRead e b x.circuit) .ok (.current current)
              (handedOn (mergeInto b (fun st => st.mergeLamps b rs) (ended o rs freed)))
            ∧ (o = .failed ↔ ∃ (c : Fin 16) (i : Nat), rs[c] = .low i .block ∨ rs[c] = .high i .block)
            ∧ (o = .passedWithNotes ↔ o ≠ .failed ∧ ∃ (c : Fin 16) (i : Nat), rs[c] = .low i .note ∨ rs[c] = .high i .note)
            ∧ (o = .passed ↔ o ≠ .failed ∧ o ≠ .passedWithNotes)))
      ∧ (∀ (st : PostStatus) (reason : LampReason) (j : Job), (st, reason) ∈ [(.noCoach, .noCoach), (.harnessFault, .harnessFault)] →
          j ∈ [.lampStep e b x.circuit, .lampRead e b x.circuit] → flies j → s.bus.posts[b].silent = false →
          let stopped : State := { freed with bus := { freed.bus with waiting := s.bus.waiting.filter fun r => !r.job.isStepOf e } }
          takes j st .empty
            (handedOn (mergeInto b (fun st => st.mergePartial b x.results) (ended (.incomplete reason) x.results stopped)))))
    ∧ (∀ st : PostStatus, s.lamp.engines[e] = .releasing b → flies (.lampEnd e b) →
        takes (.lampEnd e b) st .empty (takeAll (set .free freed)))
    ∧ ((∀ y, s.lamp.engines[e] ≠ .running y) → exec (.settleTimerExpiry e) s = .next s)

/-! ## Fault reading -/

/-- REQUEST FAULT READ, and the expiry of the scan countdown (a timer in ms, log 4), which reloads it and asks the same; an expiry of a
countdown that does not run changes nothing (log 7, DESIGN CHOICE), and one of a countdown that runs fires whatever it has left (log 8, DESIGN
CHOICE). What a read's end does at a pending clearance is ClearanceDecided's. -/
def Obligations.FaultReadAsked : Prop :=
  (∀ (l : Link) (bay : Byte) (s : State), s.ready l → s.fits bay → let b := bayOf bay
    let answers : Status → State → Prop := fun st t => exec (.requestFaultRead l bay) s = .next (answer l ⟨st, .empty⟩ t)
    ((s.bay b).state ∈ [.closed, .empty, .arrived] → answers .wrongState s)
    ∧ ((s.bay b).state ∈ [.bound, .cleared, .leaving] → s.reader.reading[b] ≠ none → answers .merged s)
    ∧ ((s.bay b).state ∈ [.bound, .cleared, .leaving] → s.reader.reading[b] = none → answers .ok (arbitrate (startRead b s))))
  ∧ (∀ (b : BayNo) (s : State), s.resetHeld = false →
    let reloaded : State := { s with reader := { s.reader with scan := s.reader.scan.set b (some (s.reader.period * 60000)) } }
    (s.reader.scan[b] = none → exec (.scanCountdownExpiry b) s = .next s)
    ∧ (s.reader.scan[b] ≠ none →
      (s.reader.reading[b] ≠ none ∨ (s.bay b).state ∈ [.closed, .empty, .arrived] →
        exec (.scanCountdownExpiry b) s = .next (arbitrate reloaded))
      ∧ (s.reader.reading[b] = none → (s.bay b).state ∈ [.bound, .cleared, .leaving] →
        exec (.scanCountdownExpiry b) s = .next (arbitrate (startRead b reloaded)))))
  ∧ ∀ (b : BayNo) (s : State),
    let failed : ReadReason → Prop := fun reason =>
      startRead b s = pendingCompletion b (notifyBay .defect b { s with reader := { s.reader with
        last := s.reader.last.set b (some ⟨.failed reason, none, 0, 0⟩)
        reading := s.reader.reading.set b none
        scan := s.reader.scan.set b (some (s.reader.period * 60000)) } })
    ((s.bay b).plug = true → s.bus.posts[b].silent = false → startRead b s = placeJob (.faultPage b 0)
      { s with reader := { s.reader with reading := s.reader.reading.set b (some ⟨0, none, 0, [], 0⟩) } })
    ∧ ((s.bay b).plug = false → failed .noPlug)
    ∧ ((s.bay b).plug = true → s.bus.posts[b].silent = true → failed .postSilent)

/-- A FAULT PAGE response: the version check, the gathering, the next page and the ends, with the merge of the gathered records and the actions
the rule table gives them (what a merge does is FindingsApplied's); NO_COACH and HARNESS_FAULT, which end the read FAILED
(R128); and a read that has ended. Transactions count the responses taken (log 18, DEDUCED). What a read's end does at a pending clearance is
ClearanceDecided's. -/
def Obligations.PagesTaken : Prop :=
  (∀ (b : BayNo) (p : Nat) (r : Reading) (version : Byte) (records : List FaultRecord) (more : Bool)
    (order : FailureOrder) (s : State), s.resetHeld = false → s.bus.posts[b].silent = false → s.reader.reading[b] = some r → records.length ≤ 4 →
    (∃ retry timer, s.bus.wire = .busy ⟨.faultPage b p, retry, timer, false⟩) →
    let takes : State → Prop := fun t => ∀ a : PostReply, answersTo a (.faultPage b p) .ok (.page version records more) →
      exec (.postResponse a order) s = .next (arbitrate t)
    let freed : State := clearFailures b (freeWire s)
    let goesOn : Nat → Reading → Prop := fun page x => takes (placeJob (.faultPage b page)
      { freed with reader := { s.reader with reading := s.reader.reading.set b (some x) } })
    let taken := records.filterMap takeRecord
    let gathered := taken.foldl gather r.gathered
    let zero := if r.page = 0 then some (version.toNat, taken.length) else r.pageZero
    let agrees := r.page = 0 ∨ ∃ n, r.pageZero = some (version.toNat, n)
    let merged : Bool → State := fun whole =>
      mergeInto b (fun st => st.mergeFaults b whole (gathered.map fun g => (g, s.reader.actionOf g))) freed
    let ends : ReadOutcome → Bool → Option (Nat × Nat) → State → Prop := fun o flag zero u =>
      let t : State := { u with reader := { s.reader with
          last := s.reader.last.set b (some ⟨o, zero, r.transactions + 1, 0⟩)
          reading := s.reader.reading.set b none
          readSince := if flag then s.reader.readSince.set b true else s.reader.readSince
          scan := s.reader.scan.set b (some (s.reader.period * 60000)) } }
      takes (pendingCompletion b (if o ≠ .complete ∨ s.reader.readSince[b] = false then notifyBay .defect b t else t))
    (¬ agrees → r.restarts < 3 → goesOn 0
        { r with page := 0, gathered := [], restarts := r.restarts + 1, transactions := r.transactions + 1 })
    ∧ (¬ agrees → 3 ≤ r.restarts → ends .unstable false r.pageZero freed)
    ∧ (agrees → more = false → ends .complete true zero (merged true))
    ∧ (agrees → more = true → 7 ≤ r.page → ends .truncated true zero (merged false))
    ∧ (agrees → more = true → r.page < 7 → goesOn (r.page + 1)
        { r with page := r.page + 1, gathered := gathered, pageZero := zero, transactions := r.transactions + 1 }))
  ∧ (∀ (b : BayNo) (p : Nat) (st : PostStatus) (reason : ReadReason) (a : PostReply) (order : FailureOrder) (s : State), s.resetHeld = false →
    (∃ retry timer, s.bus.wire = .busy ⟨.faultPage b p, retry, timer, false⟩) →
    let freed : State := clearFailures b (freeWire s)
    let goes : State → Prop := fun t => exec (.postResponse a order) s = .next (arbitrate t)
    ((st, reason) ∈ [(.noCoach, .noCoach), (.harnessFault, .harnessFault)] → answersTo a (.faultPage b p) st .empty →
      ∀ r, s.reader.reading[b] = some r → goes (pendingCompletion b (notifyBay .defect b { freed with
        bus := { freed.bus with waiting := s.bus.waiting.filter fun q => !q.job.isPageFor b }
        reader := { s.reader with
          last := s.reader.last.set b (some ⟨.failed reason, r.pageZero, r.transactions + 1, 0⟩)
          reading := s.reader.reading.set b none
          scan := s.reader.scan.set b (some (s.reader.period * 60000)) } })))
    ∧ (∀ payload, answersTo a (.faultPage b p) st payload → s.reader.reading[b] = none → goes freed))
  ∧ (∀ x : FaultRecord,
    (x.code = 0#16 ∨ x.code = 0xFFFF#16 → takeRecord x = none)
    ∧ (x.code ≠ 0#16 → x.code ≠ 0xFFFF#16 → takeRecord x = some ⟨x.code.toNat, min 3 x.severity.toNat, x.count.toNat⟩))
  ∧ (∀ (gs : List Gathered) (x g : Gathered), (gs.map (·.code)).Nodup →
    (g ∈ gather gs x ↔ g = x ∨ (g ∈ gs ∧ g.code ≠ x.code)) ∧ ((gather gs x).map (·.code)).Nodup)
  ∧ ∀ (u : FaultReader) (g : Gathered),
    (∀ (i : Fin 32) (r : Rule), u.rules[i] = some r → r.low ≤ g.code → g.code ≤ r.high →
      (∀ j : Fin 32, j < i → ∀ q, u.rules[j] = some q → ¬ (q.low ≤ g.code ∧ g.code ≤ q.high)) → u.actionOf g = r.action)
    ∧ ((∀ (i : Fin 32) (r : Rule), u.rules[i] = some r → ¬ (r.low ≤ g.code ∧ g.code ≤ r.high)) →
      u.actionOf g = if g.severity = 3 then .block else .note)

/-! ## Sense records, identification, teardown -/

/-- SENSE_COUNTDOWN_EXPIRY; a SENSE response field by field and in the order of R5, with what an exit does at the book; the plug, the coach link
and the occupancy each by itself, with the ident requests they make and withdraw; what the loss of the plug does at the sequencer, the lamp unit
and the fault reader; and the heater current checks with the findings they hand to the store. An expiry of a countdown that does not run changes
nothing (log 7), and one of a countdown that runs fires whatever it has left (log 8, DESIGN CHOICE); a drawn plug withdraws the ident request at
once (log 13, DEDUCED), and a request whose result will be discarded is outstanding no more (log 14, DEDUCED); the 10 s are read from the part's
own time (log 30, DESIGN CHOICE); the log entry of an exit from CLEARED has the cabin at unplug absent (log 31, DEDUCED); the takes of R106 that
an exit's teardown makes room for come after it (log 28, DEDUCED); the record that ends stuck units does not itself clear the POST mark (log 19,
DEDUCED); a test and a read that both end at a drawn plug end in that order (log 40, DESIGN CHOICE). What the end of a test or a read does at a
pending clearance is ClearanceDecided's. -/
def Obligations.SenseTaken : Prop :=
  (∀ (b : BayNo) (s : State), s.resetHeld = false →
    let reloaded : State := { s with bays := s.bays.set b { s.bay b with sense := some 5000 } }
    let goes : State → Prop := fun t => exec (.senseCountdownExpiry b) s = .next t
    let held := (s.bay b).state = .closed ∨ s.bus.posts[b].silent = true ∨ s.outstanding (Job.isSenseFor b) = true
    ((s.bay b).sense = none → goes s)
    ∧ ((s.bay b).sense ≠ none → held → goes (arbitrate reloaded))
    ∧ ((s.bay b).sense ≠ none → ¬ held → goes (arbitrate (placeJob (.sense b) reloaded))))
  ∧ (∀ (b : BayNo) (x : SenseRecord) (st : PostStatus) (a : PostReply) (order : FailureOrder) (s : State), s.resetHeld = false →
    (∃ retry timer, s.bus.wire = .busy ⟨.sense b, retry, timer, false⟩) → answersTo a (.sense b) st (.sense x) →
    let r := s.bay b
    let c : Instr := .postResponse a order
    let accepted := x.occupied ≠ r.occupied ∧ r.candidate = some x.occupied
    let exits := accepted ∧ x.occupied = false
    let drawn := r.plug = true ∧ x.plug = false
    let returned := r.plug = false ∧ x.plug = true
    let cabin := x.cabin.elim r.cabin fun v => some ⟨max (-960) (min 1600 v), 0⟩
    let quiet := s.seq.commanded[b].on = x.current ∧ s.seq.stuck[b] = none ∧ (s.engineTesting b = none ∨ x.plug = r.plug)
      ∧ (s.reader.reading[b] = none ∨ x.plug = r.plug ∨ ∀ d ∈ s.book.records, d.bay = some b → d.state ≠ .clearing)
    let freed : State := clearFailures b (freeWire s)
    (r.state = .closed → exec c s = .next (arbitrate freed))
    ∧ (r.state ≠ .closed → exec c s = .next (arbitrate (takeOccupancy b x.occupied (takeLink b x.link (takePlug b x.plug (checkCurrent b x.current
        { freed with bays := s.bays.set b { r with cabin := cabin, current := x.current } }))))))
    ∧ (r.state = .bound → drawn → x.occupied = r.occupied → s.seq.commanded[b].on = x.current → s.seq.stuck[b] = none →
        s.store.marks[b].post = false →
      let u : State := losePlug b { freed with
        bays := s.bays.set b
          { r with cabin := cabin, current := x.current, plug := false, cabinAtUnplug := cabin.map (·.temperature), retry := none }
        bus := { freed.bus with waiting := s.bus.waiting.filter fun q => !q.job.isIdentFor b } }
      exec c s = .next (arbitrate { u with bays := u.bays.set b { u.bay b with link := x.link, candidate := none } }))
    ∧ (r.state ≠ .closed → ∃ t, exec c s = .next t
      ∧ ((t.bay b).plug = x.plug ∧ (t.bay b).link = x.link ∧ (t.bay b).current = x.current)
      ∧ (¬ exits → (t.bay b).cabin = cabin)
      ∧ (x.occupied = r.occupied → (t.bay b).occupied = r.occupied ∧ (t.bay b).candidate = none)
      ∧ (x.occupied ≠ r.occupied → ¬ accepted → (t.bay b).occupied = r.occupied ∧ (t.bay b).candidate = some x.occupied)
      ∧ (accepted → (t.bay b).occupied = x.occupied ∧ (t.bay b).candidate = none)
      ∧ (accepted → x.occupied = true → r.state = .empty → (t.bay b).state = .arrived)
      ∧ (exits → (t.bay b).state = .empty)
      ∧ (exits → r.state ∈ [.bound, .cleared, .leaving] → (t.bay b).hold = false ∧ (t.bay b).coach = none ∧ (t.bay b).cabin = none)
      ∧ (¬ accepted → quiet →
        (x.plug = r.plug → (t.bay b).state = r.state)
        ∧ (drawn → r.state = .cleared → (t.bay b).state = .leaving ∧ (t.bay b).cabinAtUnplug = cabin.map (·.temperature))
        ∧ (returned → r.state = .leaving → (t.bay b).state = .cleared ∧ (t.bay b).cabinAtUnplug = none)
        ∧ (drawn → r.state = .bound → (t.bay b).state = .bound ∧ (t.bay b).cabinAtUnplug = cabin.map (·.temperature))
        ∧ (returned → r.state = .bound →
            (t.bay b).state = .bound ∧ (t.bay b).cabinAtUnplug = none ∧ (t.bay b).unconfirmed = true)
        ∧ (drawn → r.state ∈ [.bound, .cleared] → t.seq.member b = none)
        ∧ (drawn → r.state ∈ [.bound, .cleared] → ∀ y, s.reader.reading[b] = some y → t.reader.reading[b] = none
            ∧ t.reader.last[b] = some ⟨.failed .plugRemoved, y.pageZero, y.transactions, 0⟩))
      ∧ (exits → quiet → s.lamp.queue = [] →
        ((∀ d ∈ s.book.records, d.bay ≠ some b) → t.book = s.book ∧ t.clearance.pending = s.clearance.pending)
        ∧ ∀ d : Departure, s.book.boundTo b = some d → (∀ e ∈ s.book.records, e.bay = some b → e.ref = d.ref) →
          let anomaly : Bool := (r.state == .cleared && !(r.plug && !x.plug)) || (r.state == .leaving && !r.plug && x.plug)
          let unplugged : Option Int := if r.state = .cleared then cabin.map (·.temperature) else r.cabinAtUnplug
          let deferred : Nat := s.store.lists[b].countP fun e => match e.state with
            | .deferred _ => true
            | .opened | .acknowledged => false
          let entry : LogEntry :=
            { sequence := s.book.nextSequence
              ref := d.ref
              outcome := .gone
              plugAnomaly := anomaly
              bay := some b
              coach := d.coach
              minute := s.clock.minute
              cabinAtUnplug := if anomaly then none else unplugged
              deferred := deferred }
          (r.state = .bound →
            t.book = { s.book with records := s.book.records.map fun e =>
                if e.ref = d.ref then { e with state := .booked, bay := none } else e }
            ∧ (d.state ≠ .clearing → t.clearance.pending = s.clearance.pending)
            ∧ (d.state = .clearing → t.clearance.pending = s.clearance.pending.filter (·.ref != d.ref)
                ∧ ∀ l, (t.port l).notices.clearance.getLsbD b = true)
            ∧ ∀ l, (t.port l).notices.departure.getLsbD b = true ∧ (t.port l).notices.anomaly = (s.port l).notices.anomaly)
          ∧ (r.state ∈ [.cleared, .leaving] → d.state = .cleared →
            t.book = { s.book with
                records := s.book.records.filter (·.ref != d.ref)
                log := (s.book.log ++ [entry]).drop (s.book.log.length + 1 - 16)
                nextSequence := (s.book.nextSequence + 1) % 65536 }
            ∧ ∀ l, (t.port l).notices.departure.getLsbD b = true
                ∧ (t.port l).notices.anomaly = (anomaly || (s.port l).notices.anomaly)))))
  ∧ (∀ (b : BayNo) (s : State), s.bus.posts[b].silent = false →
    let cut : (Job → Bool) → State → State := fun p v => { v with bus := { v.bus with
      waiting := v.bus.waiting.filter fun q => !p q.job
      wire := match v.bus.wire with
        | .busy y => .busy { y with discarded := y.discarded || p y.job }
        | .free => .free
        | .quiet => .quiet } }
    let readEnds : State → State := fun v => match v.reader.reading[b] with
      | none => v
      | some y => pendingCompletion b (notifyBay .defect b { cut (Job.isPageFor b) v with reader := { v.reader with
          last := v.reader.last.set b (some ⟨.failed .plugRemoved, y.pageZero, y.transactions, 0⟩)
          reading := v.reader.reading.set b none
          scan := v.reader.scan.set b (some (v.reader.period * 60000)) } })
    let off := leaveOnSet b s
    ((∀ (e : EngineNo) (y : RunningTest), s.lamp.engines[e] = .running y → y.bay ≠ b) → losePlug b s = readEnds off)
    ∧ ∀ (e : EngineNo) (y : RunningTest), s.lamp.engines[e] = .running y → y.bay = b →
      (∀ (f : EngineNo) (z : RunningTest), f < e → s.lamp.engines[f] = .running z → z.bay ≠ b) →
      losePlug b s = readEnds (takeAll (placeJob (.lampEnd e b) (pendingCompletion b (notifyBay .lamp b
        (mergeInto b (fun st => st.mergePartial b y.results) { cut (Job.isStepOf e) off with lamp := { s.lamp with
          engines := s.lamp.engines.set e (.releasing b)
          results := s.lamp.results.set b (some ⟨.incomplete .plugRemoved, 0, some y.results⟩) } }))))))
  ∧ (∀ (b : BayNo) (now : Bool) (s : State),
    let r := s.bay b
    let put : Bay → State := fun q => { s with bays := s.bays.set b q }
    let moved : Bay → State := fun q => notifyBay .bay b (put q)
    let asks : State → State := fun v =>
      if v.outstanding (Job.isIdentFor b) = true then v
      else if v.bus.posts[b].silent = true then { v with bays := v.bays.set b { v.bay b with retry := some 30000 } }
      else placeJob (.ident b) v
    let drops : State → State := fun v => { v with bus := { v.bus with
      waiting := v.bus.waiting.filter fun q => !q.job.isIdentFor b
      wire := match v.bus.wire with
        | .busy y => .busy { y with discarded := y.discarded || y.job.isIdentFor b }
        | .free => .free
        | .quiet => .quiet } }
    let unplugged := r.cabin.map (·.temperature)
    let t := takePlug b now s
    let linked := takeLink b now s
    let occupied := takeOccupancy b now s
    let rises := now = true ∧ r.link = false ∧ r.retry ≠ none ∧ r.plug = true
      ∧ (r.state = .arrived ∨ (r.state = .bound ∧ r.unconfirmed = true))
    let q : Bay := { r with occupied := now, candidate := none }
    let left : State → State := fun v => notifyBay .bay b
      { v with bays := v.bays.set b { v.bay b with state := .empty, hold := false, conflict := false } }
    ((now = r.plug → t = s)
      ∧ (now = true → r.plug = false →
        (r.state ∈ [.closed, .empty, .cleared] → t = put { r with plug := true })
        ∧ (r.state = .arrived → t = asks (put { r with plug := true }))
        ∧ (r.state = .bound → t = asks (put { r with plug := true, cabinAtUnplug := none, unconfirmed := true }))
        ∧ (r.state = .leaving → t = moved { r with plug := true, cabinAtUnplug := none, state := .cleared }))
      ∧ (now = false → r.plug = true →
        (r.state ∈ [.closed, .empty] → t = put { r with plug := false })
        ∧ (r.state = .arrived → r.conflict = false → t = drops (put { r with plug := false, retry := none }))
        ∧ (r.state = .arrived → r.conflict = true → t = drops (moved { r with plug := false, retry := none, conflict := false }))
        ∧ (r.state = .bound → t = losePlug b (drops (put { r with plug := false, retry := none, cabinAtUnplug := unplugged })))
        ∧ (r.state = .cleared →
            t = losePlug b (drops (moved { r with plug := false, retry := none, cabinAtUnplug := unplugged, state := .leaving })))
        ∧ (r.state = .leaving → t = losePlug b (put { r with plug := false }))))
    ∧ (rises → linked = asks (put { r with link := true, retry := none }))
    ∧ (¬ rises → linked = put { r with link := now })
    ∧ (now = r.occupied → occupied = put { r with candidate := none })
    ∧ (now ≠ r.occupied → r.candidate ≠ some now → occupied = put { r with candidate := some now })
    ∧ (now ≠ r.occupied → r.candidate = some now →
        (now = true → r.state ≠ .empty → occupied = put q)
        ∧ (now = true → r.state = .empty → r.plug = false → occupied = moved { q with state := .arrived })
        ∧ (now = true → r.state = .empty → r.plug = true → occupied = asks (moved { q with state := .arrived }))
        ∧ (now = false → r.state ∈ [.closed, .empty] → occupied = put q)
        ∧ (now = false → r.state = .arrived → occupied = left (drops (put { q with retry := none })))
        ∧ (now = false → r.state = .bound → occupied = left (takeAll (tearDown b (leaveBook b (put q)))))
        ∧ (now = false → r.state = .cleared → occupied = left (takeAll (tearDown b (departGone b true (put q)))))
        ∧ (now = false → r.state = .leaving → occupied = left (takeAll (tearDown b (departGone b false (put q)))))))
  ∧ ∀ (b : BayNo) (present : Bool) (s : State),
    let on := s.seq.commanded[b].on
    let standing : Option UnitsOn → State := fun v => { s with seq := { s.seq with stuck := s.seq.stuck.set b v } }
    let ended := if s.seq.stuck[b] = none then s else postFinding b .currentEnded (standing none)
    let settled := 10000 ≤ s.now - s.seq.commanded[b].since
    let t := checkCurrent b present s
    (present = true → on = false → settled → s.seq.stuck[b] = none →
      t = postFinding b .stuck (shed (standing (some ⟨((s.classOf b).map (·.units)).getD 8, (s.bay b).feeder⟩))))
    ∧ (present = false → on = true → settled → t = leaveOnSet b (postFinding b .noCurrent ended))
    ∧ (present = false → (on = false ∨ ¬ settled) → s.seq.stuck[b] ≠ none → t = ended)
    ∧ (present = true → on = false → s.seq.stuck[b] ≠ none → t = s)
    ∧ (present = true → on = false → settled → s.seq.stuck[b] = none →
      t.seq.stuck[b] = some ⟨((s.classOf b).map (·.units)).getD 8, (s.bay b).feeder⟩ ∧ t.seq.loadSound)
    ∧ (present = true → on = true → settled → t = clearPostMark b s)
    ∧ (present = false → on = false → settled → s.seq.stuck[b] = none → t = clearPostMark b s)
    ∧ (present = false → t.seq.stuck[b] = none)
    ∧ (present = false → on = true → settled → t.seq.member b = none)
    ∧ (¬ settled → present = true ∨ s.seq.stuck[b] = none → t = s)

/-- IDENT_RETRY_EXPIRY and the results of an IDENT; and the late pass of a binding with its append. A binding hands the coach on in the order of
R11 (its lamp test request is LampTestAsked's); a coach changed under the plug is torn down first and its departure returned, and the takes of
R106 that the teardown makes room for come after it (log 28, DEDUCED). An expiry of a timer that does not run changes nothing (log 7), and one of
a timer that runs fires whatever it has left (log 8, DESIGN CHOICE); a request whose result will be discarded is outstanding no more (log 14). -/
def Obligations.IdentTaken : Prop :=
  (∀ (b : BayNo) (s : State), s.resetHeld = false →
    let r := s.bay b
    let with_ : Option Nat → State := fun x => { s with bays := s.bays.set b { r with retry := x } }
    let goes : State → Prop := fun t => exec (.identRetryExpiry b) s = .next t
    let wants := r.plug = true ∧ (r.state = .arrived ∨ (r.state = .bound ∧ r.unconfirmed = true))
    (r.retry = none → goes s)
    ∧ (r.retry ≠ none → ¬ wants ∨ s.outstanding (Job.isIdentFor b) = true → goes (arbitrate (with_ none)))
    ∧ (r.retry ≠ none → wants → s.outstanding (Job.isIdentFor b) = false →
      (s.bus.posts[b].silent = true → goes (arbitrate (with_ (some 30000))))
      ∧ (s.bus.posts[b].silent = false → goes (arbitrate (placeJob (.ident b) (with_ none))))))
  ∧ (∀ (b : BayNo) (st : PostStatus) (p : PostPayload) (a : PostReply) (order : FailureOrder) (s : State), s.resetHeld = false →
    (∃ retry timer, s.bus.wire = .busy ⟨.ident b, retry, timer, false⟩) → answersTo a (.ident b) st p →
    let r := s.bay b
    let freed : State := clearFailures b (freeWire s)
    let record : State → Bay → State := fun u x => { u with bays := u.bays.set b x }
    let answers : State → Prop := fun t => exec (.postResponse a order) s = .next (arbitrate t)
    let arrived := r.plug = true ∧ r.state = .arrived
    let unconfirmed := r.plug = true ∧ r.state = .bound ∧ r.unconfirmed = true
    let nothing := (st ≠ .ok ∧ p = .empty) ∨ (st = .ok ∧ ∃ id cls, p = .coach id cls ∧ (id = 0#16 ∨ id = 0xFFFF#16))
    (nothing → (arrived ∨ unconfirmed → answers (record freed { r with retry := some 30000 }))
      ∧ (¬ arrived → ¬ unconfirmed → answers freed))
    ∧ ∀ (id : Half) (cls : Byte), st = .ok → p = .coach id cls → id ≠ 0#16 → id ≠ 0xFFFF#16 →
      let c : Option (Fin 16) := if h : cls.toNat < 16 then some ⟨cls.toNat, h⟩ else none
      let handOn : State → State := fun t =>
        let t := latePass b (bindFirst b t)
        let t := if (t.classOf b).any (·.autoTest) then requestAutoTest b t else t
        (requestFaultReading b { t with reader := { t.reader with
          scan := t.reader.scan.set b (some (t.reader.period * 60000)) } }).1
      let settles : State → Prop := fun u =>
        let elsewhere := ∃ x : BayNo, (u.bay x).state ∈ [.bound, .cleared, .leaving] ∧ (u.bay x).coach = some id.toNat
        (¬ elsewhere → answers (handOn (notifyBay .bay b (record u { u.bay b with
          state := .bound, coach := some id.toNat, cls := c, unconfirmed := false, retry := none, conflict := false }))))
        ∧ (elsewhere → (u.bay b).conflict = true → answers (record u { u.bay b with retry := some 30000 }))
        ∧ (elsewhere → (u.bay b).conflict = false →
            answers (notifyBay .bay b (record u { u.bay b with conflict := true, retry := some 30000 })))
      (¬ arrived → ¬ unconfirmed → answers freed)
      ∧ (arrived → settles freed)
      ∧ (unconfirmed → r.coach = some id.toNat →
        let t := record freed { r with unconfirmed := false, cls := c }
        (s.classOf b ≠ none ∧ t.classOf b = none → answers (leaveOnSet b t))
        ∧ (s.classOf b = none ∨ t.classOf b ≠ none → answers t))
      ∧ (unconfirmed → r.coach ≠ some id.toNat →
        let replaced : State → State := fun v =>
          let w := takeAll (tearDown b v)
          notifyBay .bay b (record w { w.bay b with state := .arrived })
        (s.book.boundTo b = none → settles (replaced freed))
        ∧ ∀ d, s.book.boundTo b = some d →
          let back : State := notifyBay .departure b { freed with book := { s.book with records := s.book.records.map fun x =>
            if x.ref = d.ref then { x with state := .booked, bay := none } else x } }
          (d.state ≠ .clearing → settles (replaced back))
          ∧ (d.state = .clearing → settles (replaced (notifyBay .clearance b { back with clearance := { s.clearance with
              pending := s.clearance.pending.filter (·.ref != d.ref) } })))))
  ∧ ∀ (b : BayNo) (s : State),
    let r := s.passOf b
    let count := if (s.bay b).plug = true ∧ s.bus.posts[b].silent = false ∧ (s.bay b).hold = false ∧ s.inhibited b = false
      ∧ s.classOf b ≠ none ∧ s.seq.feedAlarm = false then r.turns else 0
    let planned := s.seq.chain.countP fun e => e.bay == b && !e.pinned
    let n := min count (min (64 - s.seq.chain.length) (16 - planned))
    let causes : CauseSet := if n < count then r.causes ||| 0b100000#6 else r.causes
    let t := latePass b s
    t.seq = { s.seq with chain := s.seq.chain ++ List.replicate n ⟨b, false, .waiting⟩ }
    ∧ t.planner = { s.planner with
        results := s.planner.results.set b ⟨r.turns, causes⟩
        sticky := s.planner.sticky ||| causes }
    ∧ (∀ l, (t.port l).notices = if causes &&& (s.port l).plannerMask = 0#6 then (s.port l).notices
        else (s.port l).notices.add .planner (BaySet.single b))
    ∧ { t with
        seq := s.seq
        planner := s.planner
        dispatch := { t.dispatch with notices := s.dispatch.notices }
        workshop := { t.workshop with notices := s.workshop.notices } } = s

/-- A teardown, of a bay that no departure is bound to any more, at every owner, with the requests it makes and withdraws. The takes of R106 that
it makes room for come after it (log 28, DEDUCED), so that the lamp queue is only filtered here and the engine of a test on a SILENT post ends
FREE. A HEAT or SIGNAL in flight keeps its result (log 42, DEDUCED). -/
def Obligations.TornDown : Prop :=
  ∀ (b : BayNo) (s : State), s.book.boundTo b = none → s.lamp.sound →
    let t := tearDown b s
    let silent := s.bus.posts[b].silent
    let tested := s.lamp.queue.any (·.bay == b) || s.lamp.engines.toList.any fun e => e.testing == some b
    let asks : (Job → Bool) → Job → State → State := fun p j u => if silent then u else { u with bus := u.asked p j }
    let cuts : (Job → Bool) → State → State := fun p u => { u with bus := u.withdrawn p }
    t.bay b = { s.bay b with
        coach := none
        cls := none
        cabin := none
        cabinAtUnplug := none
        unconfirmed := false
        retry := none
        dropped := s.store.lists[b].length }
    ∧ (∀ x : BayNo, x ≠ b → t.bay x = s.bay x)
    ∧ t.seq = { s.seq with
        onSet := s.seq.onSet.filter (·.bay != b)
        chain := (leaveOnSet b s).seq.chain.map fun e => if e.bay = b ∧ e.status = .waiting then { e with status := .missed } else e
        commanded := if s.seq.commanded[b].on then s.seq.commanded.set b ⟨false, s.now⟩ else s.seq.commanded }
    ∧ t.store = { s.store with
        free := s.store.free ++ s.store.lists[b].map (·.slot)
        lists := s.store.lists.set b []
        marks := s.store.marks.set b ⟨false, false, false⟩ }
    ∧ t.lamp = { s.lamp with
        queue := s.lamp.queue.filter (·.bay != b)
        engines := s.lamp.engines.map fun e => if e.testing = some b then (if silent then .free else .releasing b) else e
        results := s.lamp.results.set b none }
    ∧ t.reader = { s.reader with
        reading := s.reader.reading.set b none
        scan := s.reader.scan.set b none
        readSince := s.reader.readSince.set b false
        last := s.reader.last.set b none }
    ∧ t.clearance = { s.clearance with
        signals := s.clearance.signals.set b .red
        alerts := if s.clearance.signals[b] = .red then s.clearance.alerts else s.clearance.alerts.set b none }
    ∧ (let off := if s.seq.commanded[b].on then asks (Job.isHeatFor b) (.heat b false) s else s
      let released := match s.engineTesting b with
        | none => off
        | some e => if silent then cuts (Job.isStepOf e) off else placeJob (.lampEnd e b) (cuts (Job.isStepOf e) off)
      let unread := cuts (Job.isPageFor b) released
      let red := if s.clearance.signals[b] = .red then unread else asks (Job.isSignalFor b) (.signal b .red) unread
      t.bus = red.withdrawn (Job.isIdentFor b))
    ∧ (∀ r ∈ t.bus.waiting, r.job ≠ .ident b ∧ r.job.isPageFor b = false)
    ∧ (∀ l, (t.port l).notices
        = let n := (s.port l).notices.add .defect (BaySet.single b)
          if tested then n.add .lamp (BaySet.single b) else n)
    ∧ { t with
        bays := s.bays
        seq := s.seq
        lamp := s.lamp
        reader := s.reader
        store := s.store
        clearance := s.clearance
        bus := s.bus
        dispatch := { t.dispatch with notices := s.dispatch.notices }
        workshop := { t.workshop with notices := s.workshop.notices } } = s

/-! ## Findings -/

/-- One finding on a bay's list: an update, a creation, a loss, and what each is reported as; the merges of a read and of a lamp test, each a
run of findings in its order; the marks; and the notice and reports of a write. A finding lost while its mark already stands counts, notices
and reports as one that sets it (log 20, DEDUCED). Several entries that one lamp merge removes return their slots in ascending circuit number
(log 37, DESIGN CHOICE). -/
def Obligations.FindingsApplied : Prop :=
  let told : BayNo → List Finding → Store × Effect → Store × Effect := fun b fs x => fs.foldl (fun y f =>
    let z := y.1.applyFinding b f
    (z.1, ⟨y.2.changed || z.2.changed, y.2.applied || z.2.applied, y.2.lost || z.2.lost, y.2.marked || z.2.marked,
      y.2.blocks || z.2.blocks, y.2.inhibits || z.2.inhibits⟩)) x
  (∀ (st : Store) (b : BayNo) (f : Finding),
    ((∃ d ∈ st.lists[b], d.source = f.source ∧ d.code = f.code) → (st.applyFinding b f).1 = { st with
      lists := st.lists.set b (st.lists[b].map fun d => if d.source = f.source ∧ d.code = f.code then f.updated d else d) })
    ∧ (∀ d, st.lists[b].find? (fun d => d.source == f.source && d.code == f.code) = some d →
      let e := (st.applyFinding b f).2
      (e.changed = true ↔ (f.updated d).action ≠ d.action ∨ (f.updated d).present ≠ d.present)
      ∧ (e.blocks = true ↔ (f.updated d).action = .block ∧ d.action ≠ .block ∧ d.state ∈ [.opened, .acknowledged])
      ∧ e.applied = true ∧ e.lost = false ∧ e.marked = false ∧ e.inhibits = false)
    ∧ ((∀ d ∈ st.lists[b], ¬ (d.source = f.source ∧ d.code = f.code)) →
      (f.created = none → st.applyFinding b f = (st, ⟨false, false, false, false, false, false⟩))
      ∧ ∀ n, f.created = some n →
        ((st.free = [] ∨ 16 ≤ st.lists[b].length) → st.applyFinding b f = ({ st with
            starvation := min 65535 (st.starvation + 1), marks := st.marks.set b (st.marks[b].put f.source true) },
            ⟨false, false, true, false, false, false⟩))
        ∧ ∀ (slot : Fin 96) (free : List (Fin 96)), st.free = slot :: free → st.lists[b].length < 16 →
          let id := freshId (st.entries.map (·.id)) 96 st.nextId
          st.applyFinding b f = ({ st with
            free := free
            lists := st.lists.set b
              (st.lists[b] ++ [⟨slot, id, n.source, n.code, n.action, .opened, n.present, n.count, n.severity, n.detail, 0⟩])
            nextId := if 65535 ≤ id then 1 else id + 1 },
            ⟨true, true, false, false, n.action == .block, n.action == .inhibit⟩)))
  ∧ (∀ (g : Gathered) (a : Action) (c : Fin 16) (la : LampAction) (x : LampDetail) (code : Nat) (d : Defect),
    (Finding.fault g a).created = some ⟨.fault, g.code, a, some true, g.count, some g.severity, none⟩
    ∧ (Finding.lampFailed c la x).created = some ⟨.lamp, c.val, la.toAction, some true, 1, none, some x⟩
    ∧ Finding.noCurrent.created = some ⟨.post, 1, .inhibit, some false, 1, none, none⟩
    ∧ Finding.stuck.created = some ⟨.post, 2, .inhibit, some true, 1, none, none⟩
    ∧ (∀ f ∈ [Finding.faultNotSeen code, .lampUndefined c, .currentEnded],
        f.created = none ∧ f.updated d = { d with present := some false })
    ∧ (Finding.fault g a).updated d = { d with severity := some g.severity, count := g.count, present := some true }
    ∧ (Finding.lampFailed c la x).updated d
        = { d with action := la.toAction, present := some true, count := min 255 (d.count + 1), detail := some x }
    ∧ Finding.noCurrent.updated d = { d with count := min 255 (d.count + 1), present := some false }
    ∧ Finding.stuck.updated d = { d with count := min 255 (d.count + 1), present := some true })
  ∧ (∀ (st : Store) (b : BayNo) (rs : List (Gathered × Action)),
    let known : Gathered × Action → Bool := fun x => st.lists[b].any fun d => d.source == .fault && d.code == x.1.code
    let unseen : List Finding := (st.lists[b].filter fun d => d.source == .fault && !rs.any fun x => x.1.code == d.code).map fun d =>
      .faultNotSeen d.code
    let seen : List Finding := (rs.filter known).map fun x => .fault x.1 x.2
    let rank : Action → Nat := fun a => [Action.block, .inhibit, .note].idxOf a
    let complete := st.mergeFaults b true rs
    let cut := st.mergeFaults b false rs
    (∃ news : List (Gathered × Action), news.Perm (rs.filter fun x => !known x)
      ∧ news.Pairwise (fun x y => rank x.2 < rank y.2 ∨ (x.2 = y.2 ∧ x.1.code ≤ y.1.code))
      ∧ (let created : List Finding := news.map fun x => .fault x.1 x.2
        let w := told b (unseen ++ seen ++ created) (st, .none)
        cut = told b (seen ++ created) (st, .none)
        ∧ (w.2.lost = true → complete = w)
        ∧ (w.2.lost = false → complete
            = ({ w.1 with marks := st.marks.set b { st.marks[b] with fault := false } }, { w.2 with marked := st.marks[b].fault }))))
    ∧ (complete.2.lost = false → complete.1.marks[b].fault = false)
    ∧ (complete.2.lost = true → complete.1.marks[b].fault = true)
    ∧ (st.marks[b].fault = true → cut.1.marks[b].fault = true)
    ∧ ∀ d ∈ complete.1.lists[b], d.source = .fault → (d.present = some true ↔ ∃ r ∈ rs, r.1.code = d.code))
  ∧ (∀ (st : Store) (b : BayNo) (cs : Vector CircuitResult 16),
    let circuits : List (Fin 16) := List.finRange 16
    let passed : Defect → Bool := fun d => d.source == .lamp && circuits.any fun c => d.code == c.val && cs[c] == .pass
    let removed : Store := { st with
      free := st.free ++ circuits.flatMap fun c =>
        if cs[c] = .pass then (st.lists[b].filter fun d => d.source == .lamp && d.code == c.val).map (·.slot) else []
      lists := st.lists.set b (st.lists[b].filter fun d => !passed d) }
    let absent : List Finding := circuits.filterMap fun c => if cs[c] = .undefined then some (.lampUndefined c) else none
    let failing : List Finding := circuits.filterMap fun c => match cs[c] with
      | .low i a => some (.lampFailed c a ⟨false, i⟩)
      | .high i a => some (.lampFailed c a ⟨true, i⟩)
      | .pass | .untested | .undefined => none
    let complete := st.mergeLamps b cs
    let w := told b (absent ++ failing) (removed, { Effect.none with changed := st.lists[b].any passed })
    (w.2.lost = true → complete = w)
    ∧ (w.2.lost = false → complete
        = ({ w.1 with marks := st.marks.set b { st.marks[b] with lamp := false } }, { w.2 with marked := st.marks[b].lamp }))
    ∧ (st.starvation < 65535 → (complete.2.lost = true ↔ st.starvation < w.1.starvation))
    ∧ (complete.2.lost = true → complete.1.marks[b].lamp = true)
    ∧ st.mergePartial b cs = told b failing (st, .none))
  ∧ (∀ (st : Store) (b : BayNo) (f : Finding),
    let r := st.applyFinding b f
    (r.2.applied = false → st.applyPost b f = r)
    ∧ (r.2.applied = true →
      (st.applyPost b f).1 = { r.1 with marks := r.1.marks.set b { r.1.marks[b] with post := false } }
      ∧ (st.applyPost b f).2 = { r.2 with marked := r.1.marks[b].post }))
  ∧ (∀ (b : BayNo) (f : Finding) (m : Store → Store × Effect) (s : State),
    let reported : Effect → Bool → Store → State := fun e notable st =>
      let u : State := { s with store := st }
      let u := if notable = true then notifyBay .defect b u else u
      let u := if e.inhibits = true then leaveOnSet b u else u
      if e.blocks = true ∨ e.lost = true then reportToClearance b u else u
    let merged := m s.store
    let found := s.store.applyPost b f
    ((s.bay b).state ∈ [.closed, .empty, .arrived] → mergeInto b m s = s ∧ postFinding b f s = s ∧ clearPostMark b s = s)
    ∧ ((s.bay b).state ∈ [.bound, .cleared, .leaving] →
      mergeInto b m s = reported merged.2 (merged.2.changed || merged.2.lost || merged.2.marked) merged.1
      ∧ postFinding b f s = reported found.2 (found.2.applied || found.2.lost) found.1
      ∧ (s.store.marks[b].post = false → clearPostMark b s = s)
      ∧ (s.store.marks[b].post = true → clearPostMark b s = notifyBay .defect b { s with store := { s.store with
          marks := s.store.marks.set b { s.store.marks[b] with post := false } } })))

/-! ## The post bus -/

/-- A missing or bad response: the retry, the final failure, and the third of a post, in either order of failure and silence (log 3): the silence
step by step, with the abort of a running test (R113), the end of a read (R128) and the report that revokes a CLEARED departure (R165,
RevocationTaken); and what a final failure does at each requester. What a merge does is FindingsApplied's, what the end of a test or of a read does
at a pending clearance ClearanceDecided's, and the takes of R106 are LampTestAsked's. The 20 ms run from the retry itself (log 12, DESIGN CHOICE)
and end whatever they have left (log 8, DESIGN CHOICE), several waiting requests of a post that falls SILENT fail in the order placed (log 38,
DESIGN CHOICE), and a response or a timeout with nothing awaited changes nothing (log 7, DESIGN CHOICE). -/
def Obligations.TransactionFailures : Prop :=
  let readEnds : BayNo → ReadReason → State → State := fun b reason s => match s.reader.reading[b] with
    | none => s
    | some y => pendingCompletion b (notifyBay .defect b { s with bus := s.withdrawn (Job.isPageFor b), reader := { s.reader with
        last := s.reader.last.set b (some ⟨.failed reason, y.pageZero, y.transactions, 0⟩)
        reading := s.reader.reading.set b none
        scan := s.reader.scan.set b (some (s.reader.period * 60000)) } })
  let engine : EngineNo → Engine → State → State := fun e y s => { s with lamp := { s.lamp with engines := s.lamp.engines.set e y } }
  let silenced : BayNo → State → State := fun b s =>
    let doomed : Job → Bool := fun j => j.bay == some b && j != .ping b
    let marked : State := { s with bus := { s.bus with
      posts := s.bus.posts.set b { s.bus.posts[b] with silent := true, probe := some 2000 }
      waiting := s.bus.waiting.filter fun r => !doomed r.job } }
    let failed := ((s.bus.waiting.map (·.job)).filter doomed).foldl (fun u j => handFailure j u) marked
    let cold := silenceHeating b { failed with bays := failed.bays.set b { failed.bay b with candidate := none } }
    let idle := match cold.engineTesting b with
      | none => cold
      | some e => match cold.lamp.engines[e] with
        | .running y => takeAll (engine e .free (cold.testAborted e y .postSilent))
        | .free | .releasing _ => cold
    notifyBay .post b (reportToClearance b (readEnds b .postSilent idle))
  (∀ (x : InFlight) (b : BayNo) (c : Instr) (order : FailureOrder) (s : State), s.resetHeld = false → s.bus.wire = .busy x →
    x.job.bay = some b → (c = .responseTimeout order ∨ ∃ cause, c = .badResponse cause order) →
    let freed : State → State := fun v => { v with bus := { v.bus with wire := .free, idle := 1000 } }
    let counting : State := { s with bus := { s.bus with
      posts := s.bus.posts.set b { s.bus.posts[b] with failures := min 3 (s.bus.posts[b].failures + 1) } } }
    let counted := freed counting
    let failed : State → State := fun v => match v.bus.wire with
      | .busy y => if y.discarded = true then freed v else handFailure y.job (freed v)
      | .free | .quiet => v
    let goes : State → Prop := fun t => exec c s = .next t
    let third := 2 ≤ s.bus.posts[b].failures ∧ s.bus.posts[b].silent = false
    (x.isRetry = false → goes { s with bus := { s.bus with
        wire := .busy { x with isRetry := true, timer := some 20 }, event := s.bus.event + 1 } })
    ∧ (x.isRetry = true → x.job = .ping b → goes (arbitrate (freed s)))
    ∧ (x.isRetry = true → x.job ≠ .ping b → ¬ third →
      (x.discarded = true ∨ x.job = .sense b ∨ (∃ on, x.job = .heat b on) → goes (arbitrate counted))
      ∧ (x.discarded = false → (∃ a, x.job = .signal b a) → s.bus.posts[b].silent = false → goes (arbitrate (
          if s.waits (Job.isSignalFor b) then counted else placeJob (.signal b s.clearance.signals[b]) counted)))
      ∧ (x.discarded = false → goes (arbitrate (handFailure x.job counted))))
    ∧ (x.isRetry = true → x.job ≠ .ping b → third → ∃ t, goes t
      ∧ (order = .failureFirst → t = arbitrate (silenced b (failed counting)))
      ∧ (order = .silenceFirst → t = arbitrate (failed (silenced b counting)))
      ∧ t.bus.posts[b] = ⟨true, 3, some 2000⟩ ∧ (t.bay b).candidate = none ∧ t.seq.member b = none ∧ t.reader.reading[b] = none
      ∧ (∀ r ∈ t.bus.waiting, r.job.bay = some b → r.job = .ping b)
      ∧ ∀ l, (t.port l).notices.post.getLsbD b = true))
  ∧ (∀ (c : Instr) (order : FailureOrder) (s : State), s.resetHeld = false → (∀ x, s.bus.wire = .busy x → x.job = .allOff) →
    (c = .responseTimeout order ∨ (∃ cause, c = .badResponse cause order) ∨ ∃ r, c = .postResponse r order) → exec c s = .next s)
  ∧ (∀ (b : BayNo) (s : State),
    let t := silenceHeating b s
    (s.seq.member b = none → t = s)
    ∧ ∀ m : Member, s.seq.member b = some m →
      let off := leaveOnSet b s
      t = { off with seq := { off.seq with held := s.seq.held.set b (some ⟨m.units, m.feeder⟩) } }
      ∧ (s.bus.posts[b].silent = true → t.seq.held = s.seq.held.set b (some ⟨m.units, m.feeder⟩) ∧ t.seq.member b = none
        ∧ t.seq.commanded[b].on = false ∧ t.bus = s.bus))
  ∧ ∀ (b : BayNo) (e : EngineNo) (c : Fin 16) (page : Nat) (s : State),
    handFailure (.faultPage b page) s = readEnds b .busFailed s
    ∧ (let asked := (s.bay b).plug = true ∧ ((s.bay b).state = .arrived ∨ ((s.bay b).state = .bound ∧ (s.bay b).unconfirmed = true))
      (asked → handFailure (.ident b) s = { s with bays := s.bays.set b { s.bay b with retry := some 30000 } })
      ∧ (¬ asked → handFailure (.ident b) s = s))
    ∧ (∀ j ∈ [Job.lampStep e b c, .lampRead e b c], ((∀ y, s.lamp.engines[e] ≠ .running y) → handFailure j s = takeAll s)
      ∧ ∀ y : RunningTest, s.lamp.engines[e] = .running y → handFailure j s = takeAll (if s.bus.posts[y.bay].silent = true
          then engine e .free (s.testAborted e y .busFailed)
          else placeJob (.lampEnd e y.bay) (s.testAborted e y .busFailed)))
    ∧ ((∃ x, s.lamp.engines[e] = .releasing x) → handFailure (.lampEnd e b) s = takeAll (engine e .free s))
    ∧ ((∀ x, s.lamp.engines[e] ≠ .releasing x) → handFailure (.lampEnd e b) s = s)

/-- Which responses are good, and the 8-bit check of a frame (the kind code, the payload bytes and what they say are the frame's fields, log 25);
good responses with nothing to hand on, the restoration by a PING, responses that are not good, and the bus's own timers and broadcasts. Right
after reset ALL OFF still waits for its grant (log 10); the idle timer stays at 0 while the bus is busy (log 29). An expiry, an ALL_OFF_SENT or
a QUIET_FRAME_SENT with nothing of the kind under way changes nothing (log 7, DESIGN CHOICE), an expiry of a timer that runs fires whatever it
has left (log 8, DESIGN CHOICE), and a PING whose result will be discarded is
outstanding no more (log 14, DEDUCED). -/
def Obligations.PostEvents : Prop :=
  (crc8 [] = 0#8
    ∧ (∀ (bs : List Byte) (x : Byte), crc8 (bs ++ [x])
        = [x.getLsbD 7, x.getLsbD 6, x.getLsbD 5, x.getLsbD 4, x.getLsbD 3, x.getLsbD 2, x.getLsbD 1, x.getLsbD 0].foldl
            (fun (r : BitVec 8) (bit : Bool) => if r.msb = bit then r <<< 1 else (r <<< 1) ^^^ 0x07#8) (crc8 bs))
    ∧ (∀ (b : BayNo) (e : EngineNo) (i : Fin 16) (n : Nat) (on : Bool) (x : Aspect),
        (Job.heat b on).kind = .heat ∧ (Job.signal b x).kind = .signal ∧ Job.allOff.kind = .allOff ∧ (Job.lampStep e b i).kind = .lampStep
        ∧ (Job.lampRead e b i).kind = .lampRead ∧ (Job.lampEnd e b).kind = .lampEnd ∧ (Job.sense b).kind = .sense
        ∧ (Job.ident b).kind = .ident ∧ (Job.faultPage b n).kind = .faultPage ∧ (Job.ping b).kind = .ping)
    ∧ ∀ (r : PostReply) (j : Job) (st : PostStatus),
      let form := (j.kind ∈ [.heat, .signal, .lampStep, .lampEnd, .ping] ∧ r.payload = .empty)
        ∨ (j.kind = .sense ∧ ∃ x, r.payload = .sense x)
        ∨ (j.kind ∈ [.lampRead, .ident, .faultPage] ∧ st ≠ .ok ∧ r.payload = .empty)
        ∨ (j.kind = .lampRead ∧ st = .ok ∧ ∃ i, r.payload = .current i)
        ∨ (j.kind = .ident ∧ st = .ok ∧ ∃ id cls, r.payload = .coach id cls)
        ∨ (j.kind = .faultPage ∧ st = .ok ∧ ∃ version rs more, r.payload = .page version rs more ∧ rs.length ≤ 4)
      goodStatus r j = some st ↔ (∃ b : BayNo, j.bay = some b ∧ r.address.toNat = b.val) ∧ r.kind = some j.kind ∧ r.status = some st
        ∧ r.check = crc8 (r.address :: r.kindCode :: r.length :: r.body) ∧ r.length.toNat = r.body.length ∧ form)
  ∧ (∀ (x : InFlight) (b : BayNo) (st : PostStatus) (a : PostReply) (order : FailureOrder) (s : State), s.resetHeld = false →
    s.bus.wire = .busy x → x.job.bay = some b → answersTo a x.job st .empty →
    let c : Instr := .postResponse a order
    let post := s.bus.posts[b]
    let freed : State := { s with bus := { s.bus with
      wire := .free
      idle := 1000
      posts := s.bus.posts.set b (if post.silent then post else { post with failures := 0 }) } }
    ((∃ on, x.job = .heat b on) ∨ (∃ a, x.job = .signal b a) → exec c s = .next (arbitrate freed))
    ∧ (x.job = .ping b → x.discarded = true ∨ post.silent = false → exec c s = .next (arbitrate freed))
    ∧ (x.job = .ping b → x.discarded = false → post.silent = true → ∃ t, exec c s = .next t
      ∧ t.bus.posts[b] = ⟨false, 0, none⟩
      ∧ ((s.bay b).state ≠ .closed → t.outstanding (Job.isSenseFor b) = true ∧ (t.bay b).sense = some 5000)
      ∧ (s.seq.commanded[b].on = false → t.outstanding (· == .heat b false) = true)
      ∧ t.outstanding (· == .signal b s.clearance.signals[b]) = true
      ∧ (∀ l, (t.port l).notices = (s.port l).notices.add .post (BaySet.single b))
      ∧ { t with
          bays := s.bays
          bus := s.bus
          dispatch := { t.dispatch with notices := s.dispatch.notices }
          workshop := { t.workshop with notices := s.workshop.notices } } = s))
  ∧ (∀ (x : InFlight) (r : PostReply) (b : BayNo) (order : FailureOrder) (s : State), s.resetHeld = false → s.bus.wire = .busy x →
    x.job.bay = some b →
    (goodStatus r x.job = none → ∀ cause, exec (.postResponse r order) s = exec (.badResponse cause order) s)
    ∧ (∀ st, goodStatus r x.job = some st → x.discarded = true →
        exec (.postResponse r order) s = .next (arbitrate (clearFailures b (freeWire s)))))
  ∧ (∀ (b : BayNo) (s : State), s.resetHeld = false →
    let reloaded : State := { s with bus := { s.bus with
      posts := s.bus.posts.set b { s.bus.posts[b] with probe := some 2000 } } }
    let goes : State → Prop := fun t => exec (.probeTimerExpiry b) s = .next t
    (s.bus.posts[b].probe = none → goes s)
    ∧ (s.bus.posts[b].probe ≠ none → s.outstanding (Job.isPingFor b) = true → goes (arbitrate reloaded))
    ∧ (s.bus.posts[b].probe ≠ none → s.outstanding (Job.isPingFor b) = false → goes (arbitrate (placeJob (.ping b) reloaded))))
  ∧ ∀ s : State, s.resetHeld = false →
    let freed : State := { s with bus := { s.bus with wire := .free, idle := 1000 } }
    let idled : State := { s with bus := { s.bus with idle := 0 } }
    ((∃ x, s.bus.wire = .busy x ∧ x.job = .allOff) → exec .allOffSent s = .next (arbitrate freed))
    ∧ (s.bus.wire = .free → (∃ r ∈ s.bus.waiting, r.job = .allOff) → exec .allOffSent s = exec .allOffSent (arbitrate s))
    ∧ ((∃ x, s.bus.wire = .busy x ∧ x.job ≠ .allOff) ∨ s.bus.wire = .quiet → exec .allOffSent s = .next s)
    ∧ (s.bus.wire = .free → s.bus.waiting = [] →
        exec .idleTimerExpiry s = .next { s with bus := { s.bus with wire := .quiet, idle := 0 } })
    ∧ ((∃ x, s.bus.wire = .busy x) ∨ (s.bus.wire = .free ∧ s.bus.waiting ≠ []) → exec .idleTimerExpiry s = .next idled)
    ∧ (s.bus.wire = .quiet → exec .idleTimerExpiry s = .next s ∧ exec .quietFrameSent s = .next (arbitrate freed))
    ∧ (s.bus.wire ≠ .quiet → exec .quietFrameSent s = .next s)

/-- The arbiter at the end of an event (log 11): what it grants, and what a grant records. The 20 ms of the response window run from the grant
itself (log 12, DESIGN CHOICE). -/
def Obligations.ArbiterGrants : Prop :=
  ∀ s : State,
    let u := s.bus
    let next : Bus := { u with event := u.event + 1 }
    let turn : Option BayNo → BayNo → Nat := fun last b => last.elim b.val fun x => (b.val + 23 - x.val) % 24
    let last : Nat → Option BayNo := fun k => if k = 1 then u.last1 else if k = 3 then u.last3 else if k = 4 then u.last4 else u.last5
    (u.wire ≠ .free ∨ u.waiting = [] → arbitrate s = { s with bus := next })
    ∧ (u.wire = .free → u.waiting ≠ [] → ∃ r ∈ u.waiting,
      { (arbitrate s).bus with last1 := u.last1, last3 := u.last3, last4 := u.last4, last5 := u.last5, lastEngine := u.lastEngine }
        = { next with
            waiting := u.waiting.erase r
            wire := .busy ⟨r.job, false, if r.job = .allOff then none else some 20, false⟩ }
      ∧ { arbitrate s with bus := u } = s
      ∧ ((∃ q ∈ u.waiting, q.job = .allOff) → r.job = .allOff)
      ∧ (∀ q ∈ u.waiting, r.job.cls ≤ q.job.cls)
      ∧ (r.job.cls = 2 → r.job.engine = some (arbitrate s).bus.lastEngine
          ∧ ((∀ e : EngineNo, ∃ q ∈ u.waiting, q.job.engine = some e) → r.job.engine ≠ some u.lastEngine))
      ∧ (∀ b : BayNo, r.job.cls ≠ 2 → r.job.bay = some b →
          (∀ q ∈ u.waiting, ∀ x : BayNo, q.job.cls = r.job.cls → q.job.bay = some x → turn (last r.job.cls) b ≤ turn (last r.job.cls) x)
          ∧ (∀ q ∈ u.waiting, q.job.cls = r.job.cls → q.job.bay = some b → r.placed ≤ q.placed
              ∧ (r.placed = q.placed → (∃ on, q.job = .heat b on) → ∃ on, r.job = .heat b on))
          ∧ (r.job.cls = 1 → (arbitrate s).bus.last1 = some b) ∧ (r.job.cls = 3 → (arbitrate s).bus.last3 = some b)
          ∧ (r.job.cls = 4 → (arbitrate s).bus.last4 = some b) ∧ (r.job.cls = 5 → (arbitrate s).bus.last5 = some b))
      ∧ (∀ k ∈ [1, 3, 4, 5], k ≠ r.job.cls ∨ r.job = .allOff →
          (k = 1 → (arbitrate s).bus.last1 = u.last1) ∧ (k = 3 → (arbitrate s).bus.last3 = u.last3)
          ∧ (k = 4 → (arbitrate s).bus.last4 = u.last4) ∧ (k = 5 → (arbitrate s).bus.last5 = u.last5)))

/-! ## Time -/

/-- CLOCK_SECOND and OVERDUE_RISE, which come whatever their timers have left (log 8, DESIGN CHOICE). The rise of a record that is not in the
book or not overdue changes nothing (log 7, DESIGN CHOICE). -/
def Obligations.ClockAndOverdue : Prop :=
  (∀ s : State, s.resetHeld = false → s.book.sound →
    let goes : State → Prop := fun t => exec .clockSecond s = .next t
    (s.clock.isSet = false → goes s)
    ∧ (s.clock.isSet = true → s.clock.second < 59 →
        goes { s with clock := { s.clock with phase := 1000, second := s.clock.second + 1 } })
    ∧ (s.clock.isSet = true → 59 ≤ s.clock.second →
      let m := if 1439 ≤ s.clock.minute then 0 else s.clock.minute + 1
      let passes : Departure → Bool := fun d => d.overdue.isNone && (d.minute + 1440 - s.clock.minute) % 1440 == 0
      let passed := s.book.records.filter passes
      ∃ t, goes t
        ∧ t.clock = ⟨true, m, 0, 1000⟩
        ∧ t.book.records.Perm (s.book.records.map fun d => if passes d then { d with overdue := some ⟨1, 60000⟩ } else d)
        ∧ t.book.records.Pairwise (fun x y => y.before m x = false)
        ∧ { t.book with records := s.book.records } = s.book
        ∧ (∀ l, (t.port l).notices.departure = (s.port l).notices.departure ||| BaySet.ofList (passed.filterMap (·.bay))
            ∧ ((t.port l).notices = if passed = [] then (s.port l).notices
                else (s.port l).notices.add .departure (BaySet.ofList (passed.filterMap (·.bay)))))
        ∧ { t with
            clock := s.clock
            book := s.book
            dispatch := { t.dispatch with notices := s.dispatch.notices }
            workshop := { t.workshop with notices := s.workshop.notices } } = s))
  ∧ ∀ (ref : Half) (s : State), s.resetHeld = false → s.book.sound →
    let goes : State → Prop := fun t => exec (.overdueRise ref) s = .next t
    ((∀ d ∈ s.book.records, d.ref = ref.toNat → d.overdue = none) → goes s)
    ∧ ∀ d ∈ s.book.records, d.ref = ref.toNat → ∀ o : Overdue, d.overdue = some o →
      let n := min 1440 (o.minutes + 1)
      (d.state = .cleared ∨ n < 240 → ∃ rs : List Departure,
        goes { s with book := { s.book with records := rs } }
        ∧ rs.Perm (s.book.records.map fun x => if x.ref = d.ref then { x with overdue := some ⟨n, 60000⟩ } else x)
        ∧ rs.Pairwise (fun x y => y.before s.clock.minute x = false))
      ∧ (d.state ≠ .cleared → 240 ≤ n → ∃ t, goes t
        ∧ (∀ x ∈ t.book.records, x.ref ≠ d.ref) ∧ t.book.records.length + 1 = s.book.records.length
        ∧ t.book.log.getLast?.map (fun e => (e.ref, e.outcome, e.bay, e.minute))
            = some (d.ref, .autoCancelled, d.bay, s.clock.minute)
        ∧ (∀ l, (t.port l).notices.kinds &&& NoticeKind.departure.bit ≠ 0#8)
        ∧ { t with
            book := s.book
            clearance := { t.clearance with pending := s.clearance.pending }
            dispatch := { t.dispatch with notices := s.dispatch.notices }
            workshop := { t.workshop with notices := s.workshop.notices } } = s)

/-- SLOT_TIMER_EXPIRY, whatever the slot timer has left (log 8, DESIGN CHOICE): the next slot, the round boundary with the layout of a new round,
and the walk, entry by entry. -/
def Obligations.SlotsAndRounds : Prop :=
  (∀ s : State, s.resetHeld = false → ∃ t, exec .slotTimerExpiry s = .next t
    ∧ (let ms := (if s.seq.index < 15 then s.planner.inForce else s.planner.slotLength) * 1000
      t.seq.index = (if s.seq.index < 15 then s.seq.index + 1 else 0) ∧ t.seq.timer = ms)
    ∧ (s.seq.index < 15 → t = arbitrate (slotWalk { s with seq := { s.seq with
        index := s.seq.index + 1, timer := s.planner.inForce * 1000 } }))
    ∧ (15 ≤ s.seq.index → ∃ u, t = arbitrate (slotWalk u) ∧
      let begun : State := { s with planner := { s.planner with inForce := s.planner.slotLength } }
      let passed : BayNo → Bool := fun b => decide (b.val < s.bayCount) && ((s.bay b).state == .bound || (s.bay b).state == .cleared)
      let count : BayNo → Nat := fun b =>
        if (s.bay b).plug = true ∧ s.bus.posts[b].silent = false ∧ (s.bay b).hold = false ∧ s.inhibited b = false
          ∧ s.classOf b ≠ none ∧ s.seq.feedAlarm = false then (begun.passOf b).turns else 0
      let ahead : Departure → Nat := fun d => if d.overdue.isSome then 0 else (d.minute + 1440 - s.clock.minute) % 1440
      let basis : BayNo → Option Nat := fun b => ((s.book.boundTo b).filter fun d => d.state == .cleared || decide (ahead d ≤ d.lead)).map
        fun d => s.book.records.findIdx (·.ref == d.ref)
      let pins : List Entry := (s.seq.chain.filter (·.pinned)).map fun e => { e with status := .waiting }
      (∃ order : List BayNo, order.Nodup ∧ (∀ b, b ∈ order ↔ passed b = true)
        ∧ order.Pairwise (fun x y => match basis x, basis y with
          | some p, some q => p ≤ q
          | some _, none => True
          | none, some _ => False
          | none, none => x ≤ y)
        ∧ u.seq.chain = (pins ++ (List.range 16).flatMap fun p =>
            (order.filter fun b => decide (p < count b)).map fun b => (⟨b, false, .waiting⟩ : Entry)).take 64)
      ∧ { u.seq with chain := s.seq.chain, missed := s.seq.missed }
          = { s.seq with index := 0, timer := s.planner.slotLength * 1000 }
      ∧ (∀ b : BayNo, b.val < s.bayCount →
          u.seq.missed[b] = s.seq.chain.countP fun e => e.bay == b && (e.status == .waiting || e.status == .missed))
      ∧ { u.planner with results := s.planner.results, sticky := s.planner.sticky } = begun.planner
      ∧ (∀ b : BayNo, passed b = false → u.planner.results[b] = ⟨0, 0#6⟩)
      ∧ (∀ b : BayNo, passed b = true →
          let r := begun.passOf b
          let placed := u.seq.chain.countP fun e => e.bay == b && !e.pinned
          let causes : CauseSet := if placed < count b then r.causes ||| 0b100000#6 else r.causes
          u.planner.results[b] = ⟨r.turns, causes⟩ ∧ placed ≤ count b ∧ causes &&& ~~~u.planner.sticky = 0#6
          ∧ ∀ l, (causes &&& (s.port l).plannerMask ≠ 0#6 → (u.port l).notices.planner.getLsbD b = true))
      ∧ { u with
          seq := s.seq
          planner := s.planner
          dispatch := { u.dispatch with notices := s.dispatch.notices }
          workshop := { u.workshop with notices := s.workshop.notices } } = s))
  ∧ ∀ s : State,
    let t := slotWalk s
    let units : List UnitsOn → Nat := fun us => (us.map (·.units)).sum
    let on : Fin 4 → List UnitsOn → List UnitsOn := fun f us => us.filter (·.feeder == f)
    let standing : List UnitsOn := s.seq.stuck.toList.filterMap id
    let noWalk := s.seq.feedAlarm = true ∨ s.seq.total < units standing ∨ ∃ f : Fin 4, s.seq.feeders[f] < units (on f standing)
    let eligible : BayNo → Prop := fun b => (s.bay b).state ∈ [.bound, .cleared] ∧ (s.bay b).plug = true ∧ s.bus.posts[b].silent = false
      ∧ (s.bay b).hold = false ∧ (∀ d ∈ s.store.lists[b], d.action = .inhibit → d.state ∉ [.opened, .acknowledged])
      ∧ (∀ e : EngineNo, s.lamp.engines[e] ≠ .releasing b ∧ ∀ x, s.lamp.engines[e] = .running x → x.bay ≠ b) ∧ s.classOf b ≠ none
      ∧ s.seq.feedAlarm = false
    let joined : Nat → List Member := fun i => t.seq.onSet.filter fun m => m.entry.any (· < i)
    let counted : Nat → (BayNo → Bool) → List UnitsOn := fun i p => (joined i).map (fun m => (⟨m.units, m.feeder⟩ : UnitsOn))
      ++ (List.finRange 24).filterMap fun b => if p b || (joined i).any (·.bay == b) then none else s.seq.stuck[b]
    let stops : Nat → Entry → Prop := fun i e =>
      s.seq.total ≤ units (counted i fun _ => false) ∨ (eligible e.bay ∧ ∃ m ∈ joined i, m.bay = e.bay)
    let stopped : Nat → Prop := fun i => ∃ k e, k ≤ i ∧ s.seq.chain[k]? = some e ∧ e.status = .waiting ∧ stops k e
    let fits : Nat → BayNo → ClassRecord → Prop := fun i b c =>
      let all := counted i (· == b)
      units all + c.units ≤ s.seq.total ∧ units (on (s.bay b).feeder all) + c.units ≤ s.seq.feeders[(s.bay b).feeder]
    (∀ b : BayNo, t.seq.held[b] = none)
    ∧ t.seq.loadSound
    ∧ (noWalk → t.seq.onSet = [] ∧ t.seq.chain = s.seq.chain ∧ t.seq.stuck = s.seq.stuck)
    ∧ (¬ noWalk →
      t.seq.chain.length = s.seq.chain.length
      ∧ (t.seq.onSet.filterMap (·.entry)).Pairwise (· < ·) ∧ (t.seq.onSet.map (·.bay)).Nodup
      ∧ (∀ m ∈ t.seq.onSet, ∃ (i : Nat) (e : Entry) (c : ClassRecord), s.seq.chain[i]? = some e ∧ e.status = .waiting ∧ e.bay = m.bay
          ∧ s.classOf m.bay = some c ∧ m = ⟨e.bay, c.units, (s.bay e.bay).feeder, some i⟩
          ∧ t.seq.chain[i]? = some { e with status := .taken })
      ∧ (∀ (i : Nat) (e : Entry), s.seq.chain[i]? = some e →
        let stands := t.seq.chain[i]? = some e
        (e.status ≠ .waiting ∨ stopped i → stands)
        ∧ (e.status = .waiting → ¬ stopped i →
          (¬ eligible e.bay → t.seq.chain[i]? = some { e with status := .missed })
          ∧ ∀ c, eligible e.bay → s.classOf e.bay = some c →
            (fits i e.bay c → t.seq.chain[i]? = some { e with status := .taken }
              ∧ ⟨e.bay, c.units, (s.bay e.bay).feeder, some i⟩ ∈ t.seq.onSet)
            ∧ (¬ fits i e.bay c → stands)))
      ∧ ∀ b : BayNo, t.seq.stuck[b] = if t.seq.onSet.any (·.bay == b) then none else s.seq.stuck[b])
    ∧ (∀ b : BayNo,
      let was := s.seq.onSet.any (·.bay == b)
      let is := t.seq.onSet.any (·.bay == b)
      t.seq.commanded[b] = (if was = is ∨ s.seq.commanded[b].on = is then s.seq.commanded[b] else ⟨is, s.now⟩)
      ∧ (t.seq.commanded[b].on ≠ s.seq.commanded[b].on → s.bus.posts[b].silent = false → t.waits (· == .heat b is) = true))
    ∧ { t.seq with
        chain := s.seq.chain
        onSet := s.seq.onSet
        held := s.seq.held
        stuck := s.seq.stuck
        commanded := s.seq.commanded } = s.seq
    ∧ { t with
        seq := s.seq
        store := s.store
        bus := s.bus
        dispatch := { t.dispatch with notices := s.dispatch.notices }
        workshop := { t.workshop with notices := s.workshop.notices } } = s

/-- DEFERRAL_EXPIRY, PENDING_TIMER_EXPIRY, ALERT_TIMER_EXPIRY and AGE_RISE; the deferral is a timer in ms (log 6). An age stands in ms and
counts from its own start with each millisecond of the time base, held at 65535 of its seconds or minutes; AGE_RISE adds one second or minute to
every age of that unit (log 5). An expiry whose timer does not run changes nothing (log 7), and one whose timer runs fires whatever it has left
(log 8, DESIGN CHOICE). -/
def Obligations.TimedEvents : Prop :=
  (∀ (id : Half) (s : State), s.resetHeld = false →
    let goes : State → Prop := fun t => exec (.deferralExpiry id) s = .next t
    ((∀ b : BayNo, ∀ d ∈ s.store.lists[b], d.id ≠ id.toNat) → goes s)
    ∧ ∀ (b : BayNo) (d : Defect), s.store.find id.toNat = some (b, d) →
      let opened : State := notifyBay .defect b { s with store := { s.store with
        lists := s.store.lists.set b (s.store.lists[b].map fun e => if e.id = id.toNat then { e with state := .opened } else e) } }
      (d.state ∈ [.opened, .acknowledged] → goes s)
      ∧ (∀ ms, d.state = .deferred ms →
        (d.action = .note → goes (arbitrate opened))
        ∧ (d.action = .inhibit → goes (arbitrate (leaveOnSet b opened)))
        ∧ (d.action = .block → goes (arbitrate (reportToClearance b opened)))))
  ∧ (∀ (ref : Half) (s : State), s.resetHeld = false → s.book.sound →
    let goes : State → Prop := fun t => exec (.pendingTimerExpiry ref) s = .next t
    ((∀ p ∈ s.clearance.pending, p.ref ≠ ref.toNat) → goes s)
    ∧ ∀ p : PendingClearance, s.clearance.find ref.toNat = some p →
      let rs : ReasonSet := 0x400#12 ||| (if s.testActive p.bay then 0x020#12 else 0#12)
        ||| (if s.reader.reading[p.bay] ≠ none then 0x040#12 else 0#12)
      goes (notifyBay .clearance p.bay { s with
        book := { s.book with records := s.book.records.map fun x =>
          if x.ref = ref.toNat then { x with state := .bound, reasons := some rs } else x }
        clearance := { s.clearance with pending := s.clearance.pending.filter (·.ref != ref.toNat) } }))
  ∧ (∀ (b : BayNo) (s : State), s.resetHeld = false →
    let stopped := s.clearance.alerts.set b none
    (s.clearance.alerts[b] = none → exec (.alertTimerExpiry b) s = .next s)
    ∧ (s.clearance.alerts[b] ≠ none → s.clearance.signals[b] ≠ .alert →
        exec (.alertTimerExpiry b) s = .next { s with clearance := { s.clearance with alerts := stopped } })
    ∧ (s.clearance.alerts[b] ≠ none → s.clearance.signals[b] = .alert →
      let red : State := { s with clearance := { s.clearance with signals := s.clearance.signals.set b .red, alerts := stopped } }
      (s.bus.posts[b].silent = true → exec (.alertTimerExpiry b) s = .next (arbitrate red))
      ∧ (s.bus.posts[b].silent = false → s.waits (Job.isSignalFor b) = false →
          exec (.alertTimerExpiry b) s = .next (arbitrate (placeJob (.signal b .red) red)))
      ∧ (s.bus.posts[b].silent = false → s.waits (Job.isSignalFor b) = true →
          exec (.alertTimerExpiry b) s = .next (arbitrate { red with bus := { s.bus with
            waiting := s.bus.waiting.map fun r => if r.job.isSignalFor b then { r with job := .signal b .red } else r } }))))
  ∧ ∀ s : State, s.resetHeld = false →
    let up : Nat → Nat → Nat → Nat := fun unit ms a => min (65535 * unit) (a + ms)
    let cabins : (Nat → Nat) → Vector Bay 24 → Vector Bay 24 := fun f bays =>
      bays.map fun r => { r with cabin := r.cabin.map fun c => { c with age := f c.age } }
    let aged : (Nat → Nat) → State → State := fun f u => { u with
        planner := { u.planner with outdoorAge := u.planner.outdoorAge.map f }
        lamp := { u.lamp with results := u.lamp.results.map fun o => o.map fun r => { r with age := f r.age } }
        store := { u.store with lists := u.store.lists.map fun ds => ds.map fun d => { d with age := f d.age } }
        reader := { u.reader with last := u.reader.last.map fun o => o.map fun r => { r with age := f r.age } } }
    exec (.ageRise .second) s = .next { s with bays := cabins (up 1000 1000) s.bays }
    ∧ exec (.ageRise .minute) s = .next (aged (up 60000 60000) s)
    ∧ (passMillisecond s).now = s.now + 1
    ∧ (passMillisecond s).bays.map (·.cabin) = (cabins (up 1000 1) s.bays).map (·.cabin)
    ∧ (passMillisecond s).planner = (aged (up 60000 1) s).planner
    ∧ (passMillisecond s).lamp.results = (aged (up 60000 1) s).lamp.results
    ∧ (passMillisecond s).reader.last = (aged (up 60000 1) s).reader.last
    ∧ ∀ b : BayNo, (passMillisecond s).store.lists[b].map (·.age) = s.store.lists[b].map fun d => up 60000 1 d.age

/-! ## The planning computation -/

/-- The eight stages, from the inputs to the turns and the causes; and what a pass makes of the bay's records. An exact turn
count above 2047 raises CLAMP alone, not SAT (log 41, DEDUCED). Ages stand in ms (log 5). -/
def Obligations.PlanComputed : Prop :=
  (∀ x : PlanInputs,
    let word : Int → Int := fun v => max (-2048) (min 2047 v)
    let need : Int := if x.target - x.cabin ≤ 4 then 0 else x.target - x.cabin
    let rounds : Int := match x.ahead with
      | some m => max 1 (m / x.roundLength : Nat)
      | none => 1
    let rise : Int := -(-(word need) / rounds)
    let lossExact := roundLoss x.rounding ((x.roundLength : Int) * x.loss * (x.cabin - x.outdoor))
    let loss := word lossExact
    let heat := max 0 (word (word rise + loss))
    let gainExact : Int := (x.roundLength * x.gain / 16 : Nat)
    let gain := word gainExact
    let r := computePlan x
    let n : Int := r.turns
    let net := gain * n / 16 - loss
    let projection := max (-960) (min 1600 (x.cabin + rounds * word net))
    let outside := ∃ v ∈ [need, rise, lossExact, word rise + loss, gainExact], word v ≠ v
    (r.turns ≤ 16 ∧ 0 ≤ heat ∧ -2048 ≤ loss ∧ loss ≤ 2047)
    ∧ (gain = 0 → r.turns = 0 ∧ (r.causes.getLsbD 0 = true ↔ outside) ∧ r.causes &&& 0b111110#6 = 0b000010#6)
    ∧ (gain ≠ 0 →
      ((r.turns < 16 → 16 * heat ≤ n * gain) ∧ (0 < r.turns → (n - 1) * gain < 16 * heat))
      ∧ (r.causes.getLsbD 2 = true ↔ 16 * gain < 16 * heat)
      ∧ (r.causes.getLsbD 3 = true ↔ x.ahead ≠ none ∧ projection < x.target - x.tolerance)
      ∧ (r.causes.getLsbD 0 = true ↔ outside ∨ (x.ahead ≠ none ∧ word net ≠ net))
      ∧ r.causes.getLsbD 1 = false ∧ r.causes.getLsbD 4 = false ∧ r.causes.getLsbD 5 = false))
  ∧ ∀ (b : BayNo) (s : State),
    let r := s.passOf b
    let stale := (∀ c, (s.bay b).cabin = some c → 2 * s.planner.inForce < c.age / 1000) ∨ ∀ a, s.planner.outdoorAge = some a → 60 < a / 60000
    (r.causes.getLsbD 4 = true ↔ stale)
    ∧ (s.classOf b = none → r.turns = 0 ∧ r.causes.getLsbD 1 = true)
    ∧ ((s.bay b).cabin = none → r.turns = 0 ∧ (r.causes.getLsbD 1 = true ↔ s.classOf b = none))
    ∧ ∀ (k : ClassRecord) (c : Cabin), s.classOf b = some k → (s.bay b).cabin = some c → ∃ x : PlanInputs,
      (r.turns = (computePlan x).turns ∧ r.causes &&& 0b101111#6 = (computePlan x).causes)
      ∧ (x.cabin = c.temperature ∧ x.outdoor = s.planner.outdoor ∧ x.loss = k.loss ∧ x.gain = k.gain)
      ∧ (x.roundLength = s.planner.inForce * 16 / 60 ∧ x.rounding = s.planner.rounding ∧ x.tolerance = s.planner.tolerance)
      ∧ ((s.book.boundTo b = none → x.ahead = none ∧ x.target = s.planner.frostFloor)
        ∧ ∀ d, s.book.boundTo b = some d →
          let m := if d.overdue.isSome then 0 else (d.minute + 1440 - s.clock.minute) % 1440
          (d.state = .cleared ∨ m ≤ d.lead → x.ahead = some m ∧ x.target = d.target.getD s.planner.defaultTarget)
          ∧ (d.state ≠ .cleared → d.lead < m → x.ahead = none ∧ x.target = s.planner.frostFloor))

/-- The rounding of the loss per round, to the nearest with halves to the even, or toward zero, and its saturation. -/
def Obligations.LossRounded : Prop :=
  ∀ (mode : Rounding) (length loss : Nat) (cabin outdoor : Int),
    let n : Int := length * loss * (cabin - outdoor)
    let l := stageLoss mode length loss cabin outdoor
    (mode = .nearest → 2 * (l * 65536 - n).natAbs ≤ 65536 ∧ (2 * (l * 65536 - n).natAbs = 65536 → l % 2 = 0))
    ∧ (mode = .towardZero → l.natAbs = n.natAbs / 65536 ∧ (0 ≤ n → 0 ≤ l) ∧ (n ≤ 0 → l ≤ 0))
    ∧ stageLoss mode length loss outdoor cabin = -l
    ∧ (planWord l = max (-2048) (min 2047 l) ∧ (planSat l = 0b000001#6 ↔ l < -2048 ∨ 2047 < l) ∧ (planSat l = 0#6 ∨ planSat l = 0b000001#6))

/-! ## What holds at all times -/

/-- R137 through every step. -/
def Obligations.StoreKept : Prop := ∀ s t : State, s.store.sound → step s = .next t → t.store.sound

/-- R89 through every step. -/
def Obligations.LoadKept : Prop := ∀ s t : State, s.seq.loadSound → step s = .next t → t.seq.loadSound

/-- R81 through every step. -/
def Obligations.ChainKept : Prop := ∀ s t : State, s.seq.chainSound → step s = .next t → t.seq.chainSound

/-- R104 through every step. -/
def Obligations.LampKept : Prop := ∀ s t : State, s.lamp.sound → step s = .next t → t.lamp.sound

/-- R13 through every step. -/
def Obligations.PlugKept : Prop := ∀ s t : State, s.plugSound → step s = .next t → t.plugSound

/-- R38 through every step. -/
def Obligations.BookKept : Prop := ∀ s t : State, s.book.sound → step s = .next t → t.book.sound

/-- The laws at reset. -/
def Obligations.LawsAtReset : Prop :=
  let s := State.reset
  s.store.sound ∧ s.seq.loadSound ∧ s.seq.chainSound ∧ s.lamp.sound ∧ s.plugSound ∧ s.book.sound

end Statements
end

