-- ==== Sys2Proof/Laws/State.lean ====
section
/-! SUPPORT. What each update of the state does to each field of it: true by rfl, for simp. -/

namespace Sys2Proof.Machine

@[simp] theorem updBook_resetHeld (s : State) (f : Book → Book) :
    (s.updBook f).resetHeld = s.resetHeld := rfl
@[simp] theorem updBook_bayCount (s : State) (f : Book → Book) :
    (s.updBook f).bayCount = s.bayCount := rfl
@[simp] theorem updBook_feedStrap (s : State) (f : Book → Book) :
    (s.updBook f).feedStrap = s.feedStrap := rfl
@[simp] theorem updBook_now (s : State) (f : Book → Book) :
    (s.updBook f).now = s.now := rfl
@[simp] theorem updBook_choices (s : State) (f : Book → Book) :
    (s.updBook f).choices = s.choices := rfl
@[simp] theorem updBook_clock (s : State) (f : Book → Book) :
    (s.updBook f).clock = s.clock := rfl
@[simp] theorem updBook_bays (s : State) (f : Book → Book) :
    (s.updBook f).bays = s.bays := rfl
@[simp] theorem updBook_classes (s : State) (f : Book → Book) :
    (s.updBook f).classes = s.classes := rfl
@[simp] theorem updBook_book (s : State) (f : Book → Book) :
    (s.updBook f).book = f s.book := rfl
@[simp] theorem updBook_planner (s : State) (f : Book → Book) :
    (s.updBook f).planner = s.planner := rfl
@[simp] theorem updBook_seq (s : State) (f : Book → Book) :
    (s.updBook f).seq = s.seq := rfl
@[simp] theorem updBook_lamp (s : State) (f : Book → Book) :
    (s.updBook f).lamp = s.lamp := rfl
@[simp] theorem updBook_reader (s : State) (f : Book → Book) :
    (s.updBook f).reader = s.reader := rfl
@[simp] theorem updBook_store (s : State) (f : Book → Book) :
    (s.updBook f).store = s.store := rfl
@[simp] theorem updBook_clearance (s : State) (f : Book → Book) :
    (s.updBook f).clearance = s.clearance := rfl
@[simp] theorem updBook_bus (s : State) (f : Book → Book) :
    (s.updBook f).bus = s.bus := rfl
@[simp] theorem updBook_dispatch (s : State) (f : Book → Book) :
    (s.updBook f).dispatch = s.dispatch := rfl
@[simp] theorem updBook_workshop (s : State) (f : Book → Book) :
    (s.updBook f).workshop = s.workshop := rfl
@[simp] theorem updBook_pending (s : State) (f : Book → Book) :
    (s.updBook f).pending = s.pending := rfl

@[simp] theorem updSeq_resetHeld (s : State) (f : Sequencer → Sequencer) :
    (s.updSeq f).resetHeld = s.resetHeld := rfl
@[simp] theorem updSeq_bayCount (s : State) (f : Sequencer → Sequencer) :
    (s.updSeq f).bayCount = s.bayCount := rfl
@[simp] theorem updSeq_feedStrap (s : State) (f : Sequencer → Sequencer) :
    (s.updSeq f).feedStrap = s.feedStrap := rfl
@[simp] theorem updSeq_now (s : State) (f : Sequencer → Sequencer) :
    (s.updSeq f).now = s.now := rfl
@[simp] theorem updSeq_choices (s : State) (f : Sequencer → Sequencer) :
    (s.updSeq f).choices = s.choices := rfl
@[simp] theorem updSeq_clock (s : State) (f : Sequencer → Sequencer) :
    (s.updSeq f).clock = s.clock := rfl
@[simp] theorem updSeq_bays (s : State) (f : Sequencer → Sequencer) :
    (s.updSeq f).bays = s.bays := rfl
@[simp] theorem updSeq_classes (s : State) (f : Sequencer → Sequencer) :
    (s.updSeq f).classes = s.classes := rfl
@[simp] theorem updSeq_book (s : State) (f : Sequencer → Sequencer) :
    (s.updSeq f).book = s.book := rfl
@[simp] theorem updSeq_planner (s : State) (f : Sequencer → Sequencer) :
    (s.updSeq f).planner = s.planner := rfl
@[simp] theorem updSeq_seq (s : State) (f : Sequencer → Sequencer) :
    (s.updSeq f).seq = f s.seq := rfl
@[simp] theorem updSeq_lamp (s : State) (f : Sequencer → Sequencer) :
    (s.updSeq f).lamp = s.lamp := rfl
@[simp] theorem updSeq_reader (s : State) (f : Sequencer → Sequencer) :
    (s.updSeq f).reader = s.reader := rfl
@[simp] theorem updSeq_store (s : State) (f : Sequencer → Sequencer) :
    (s.updSeq f).store = s.store := rfl
@[simp] theorem updSeq_clearance (s : State) (f : Sequencer → Sequencer) :
    (s.updSeq f).clearance = s.clearance := rfl
@[simp] theorem updSeq_bus (s : State) (f : Sequencer → Sequencer) :
    (s.updSeq f).bus = s.bus := rfl
@[simp] theorem updSeq_dispatch (s : State) (f : Sequencer → Sequencer) :
    (s.updSeq f).dispatch = s.dispatch := rfl
@[simp] theorem updSeq_workshop (s : State) (f : Sequencer → Sequencer) :
    (s.updSeq f).workshop = s.workshop := rfl
@[simp] theorem updSeq_pending (s : State) (f : Sequencer → Sequencer) :
    (s.updSeq f).pending = s.pending := rfl

@[simp] theorem updLamp_resetHeld (s : State) (f : LampUnit → LampUnit) :
    (s.updLamp f).resetHeld = s.resetHeld := rfl
@[simp] theorem updLamp_bayCount (s : State) (f : LampUnit → LampUnit) :
    (s.updLamp f).bayCount = s.bayCount := rfl
@[simp] theorem updLamp_feedStrap (s : State) (f : LampUnit → LampUnit) :
    (s.updLamp f).feedStrap = s.feedStrap := rfl
@[simp] theorem updLamp_now (s : State) (f : LampUnit → LampUnit) :
    (s.updLamp f).now = s.now := rfl
@[simp] theorem updLamp_choices (s : State) (f : LampUnit → LampUnit) :
    (s.updLamp f).choices = s.choices := rfl
@[simp] theorem updLamp_clock (s : State) (f : LampUnit → LampUnit) :
    (s.updLamp f).clock = s.clock := rfl
@[simp] theorem updLamp_bays (s : State) (f : LampUnit → LampUnit) :
    (s.updLamp f).bays = s.bays := rfl
@[simp] theorem updLamp_classes (s : State) (f : LampUnit → LampUnit) :
    (s.updLamp f).classes = s.classes := rfl
@[simp] theorem updLamp_book (s : State) (f : LampUnit → LampUnit) :
    (s.updLamp f).book = s.book := rfl
@[simp] theorem updLamp_planner (s : State) (f : LampUnit → LampUnit) :
    (s.updLamp f).planner = s.planner := rfl
@[simp] theorem updLamp_seq (s : State) (f : LampUnit → LampUnit) :
    (s.updLamp f).seq = s.seq := rfl
@[simp] theorem updLamp_lamp (s : State) (f : LampUnit → LampUnit) :
    (s.updLamp f).lamp = f s.lamp := rfl
@[simp] theorem updLamp_reader (s : State) (f : LampUnit → LampUnit) :
    (s.updLamp f).reader = s.reader := rfl
@[simp] theorem updLamp_store (s : State) (f : LampUnit → LampUnit) :
    (s.updLamp f).store = s.store := rfl
@[simp] theorem updLamp_clearance (s : State) (f : LampUnit → LampUnit) :
    (s.updLamp f).clearance = s.clearance := rfl
@[simp] theorem updLamp_bus (s : State) (f : LampUnit → LampUnit) :
    (s.updLamp f).bus = s.bus := rfl
@[simp] theorem updLamp_dispatch (s : State) (f : LampUnit → LampUnit) :
    (s.updLamp f).dispatch = s.dispatch := rfl
@[simp] theorem updLamp_workshop (s : State) (f : LampUnit → LampUnit) :
    (s.updLamp f).workshop = s.workshop := rfl
@[simp] theorem updLamp_pending (s : State) (f : LampUnit → LampUnit) :
    (s.updLamp f).pending = s.pending := rfl

@[simp] theorem updReader_resetHeld (s : State) (f : FaultReader → FaultReader) :
    (s.updReader f).resetHeld = s.resetHeld := rfl
@[simp] theorem updReader_bayCount (s : State) (f : FaultReader → FaultReader) :
    (s.updReader f).bayCount = s.bayCount := rfl
@[simp] theorem updReader_feedStrap (s : State) (f : FaultReader → FaultReader) :
    (s.updReader f).feedStrap = s.feedStrap := rfl
@[simp] theorem updReader_now (s : State) (f : FaultReader → FaultReader) :
    (s.updReader f).now = s.now := rfl
@[simp] theorem updReader_choices (s : State) (f : FaultReader → FaultReader) :
    (s.updReader f).choices = s.choices := rfl
@[simp] theorem updReader_clock (s : State) (f : FaultReader → FaultReader) :
    (s.updReader f).clock = s.clock := rfl
@[simp] theorem updReader_bays (s : State) (f : FaultReader → FaultReader) :
    (s.updReader f).bays = s.bays := rfl
@[simp] theorem updReader_classes (s : State) (f : FaultReader → FaultReader) :
    (s.updReader f).classes = s.classes := rfl
@[simp] theorem updReader_book (s : State) (f : FaultReader → FaultReader) :
    (s.updReader f).book = s.book := rfl
@[simp] theorem updReader_planner (s : State) (f : FaultReader → FaultReader) :
    (s.updReader f).planner = s.planner := rfl
@[simp] theorem updReader_seq (s : State) (f : FaultReader → FaultReader) :
    (s.updReader f).seq = s.seq := rfl
@[simp] theorem updReader_lamp (s : State) (f : FaultReader → FaultReader) :
    (s.updReader f).lamp = s.lamp := rfl
@[simp] theorem updReader_reader (s : State) (f : FaultReader → FaultReader) :
    (s.updReader f).reader = f s.reader := rfl
@[simp] theorem updReader_store (s : State) (f : FaultReader → FaultReader) :
    (s.updReader f).store = s.store := rfl
@[simp] theorem updReader_clearance (s : State) (f : FaultReader → FaultReader) :
    (s.updReader f).clearance = s.clearance := rfl
@[simp] theorem updReader_bus (s : State) (f : FaultReader → FaultReader) :
    (s.updReader f).bus = s.bus := rfl
@[simp] theorem updReader_dispatch (s : State) (f : FaultReader → FaultReader) :
    (s.updReader f).dispatch = s.dispatch := rfl
@[simp] theorem updReader_workshop (s : State) (f : FaultReader → FaultReader) :
    (s.updReader f).workshop = s.workshop := rfl
@[simp] theorem updReader_pending (s : State) (f : FaultReader → FaultReader) :
    (s.updReader f).pending = s.pending := rfl

@[simp] theorem updStore_resetHeld (s : State) (f : Store → Store) :
    (s.updStore f).resetHeld = s.resetHeld := rfl
@[simp] theorem updStore_bayCount (s : State) (f : Store → Store) :
    (s.updStore f).bayCount = s.bayCount := rfl
@[simp] theorem updStore_feedStrap (s : State) (f : Store → Store) :
    (s.updStore f).feedStrap = s.feedStrap := rfl
@[simp] theorem updStore_now (s : State) (f : Store → Store) :
    (s.updStore f).now = s.now := rfl
@[simp] theorem updStore_choices (s : State) (f : Store → Store) :
    (s.updStore f).choices = s.choices := rfl
@[simp] theorem updStore_clock (s : State) (f : Store → Store) :
    (s.updStore f).clock = s.clock := rfl
@[simp] theorem updStore_bays (s : State) (f : Store → Store) :
    (s.updStore f).bays = s.bays := rfl
@[simp] theorem updStore_classes (s : State) (f : Store → Store) :
    (s.updStore f).classes = s.classes := rfl
@[simp] theorem updStore_book (s : State) (f : Store → Store) :
    (s.updStore f).book = s.book := rfl
@[simp] theorem updStore_planner (s : State) (f : Store → Store) :
    (s.updStore f).planner = s.planner := rfl
@[simp] theorem updStore_seq (s : State) (f : Store → Store) :
    (s.updStore f).seq = s.seq := rfl
@[simp] theorem updStore_lamp (s : State) (f : Store → Store) :
    (s.updStore f).lamp = s.lamp := rfl
@[simp] theorem updStore_reader (s : State) (f : Store → Store) :
    (s.updStore f).reader = s.reader := rfl
@[simp] theorem updStore_store (s : State) (f : Store → Store) :
    (s.updStore f).store = f s.store := rfl
@[simp] theorem updStore_clearance (s : State) (f : Store → Store) :
    (s.updStore f).clearance = s.clearance := rfl
@[simp] theorem updStore_bus (s : State) (f : Store → Store) :
    (s.updStore f).bus = s.bus := rfl
@[simp] theorem updStore_dispatch (s : State) (f : Store → Store) :
    (s.updStore f).dispatch = s.dispatch := rfl
@[simp] theorem updStore_workshop (s : State) (f : Store → Store) :
    (s.updStore f).workshop = s.workshop := rfl
@[simp] theorem updStore_pending (s : State) (f : Store → Store) :
    (s.updStore f).pending = s.pending := rfl

@[simp] theorem updClearance_resetHeld (s : State) (f : Clearance → Clearance) :
    (s.updClearance f).resetHeld = s.resetHeld := rfl
@[simp] theorem updClearance_bayCount (s : State) (f : Clearance → Clearance) :
    (s.updClearance f).bayCount = s.bayCount := rfl
@[simp] theorem updClearance_feedStrap (s : State) (f : Clearance → Clearance) :
    (s.updClearance f).feedStrap = s.feedStrap := rfl
@[simp] theorem updClearance_now (s : State) (f : Clearance → Clearance) :
    (s.updClearance f).now = s.now := rfl
@[simp] theorem updClearance_choices (s : State) (f : Clearance → Clearance) :
    (s.updClearance f).choices = s.choices := rfl
@[simp] theorem updClearance_clock (s : State) (f : Clearance → Clearance) :
    (s.updClearance f).clock = s.clock := rfl
@[simp] theorem updClearance_bays (s : State) (f : Clearance → Clearance) :
    (s.updClearance f).bays = s.bays := rfl
@[simp] theorem updClearance_classes (s : State) (f : Clearance → Clearance) :
    (s.updClearance f).classes = s.classes := rfl
@[simp] theorem updClearance_book (s : State) (f : Clearance → Clearance) :
    (s.updClearance f).book = s.book := rfl
@[simp] theorem updClearance_planner (s : State) (f : Clearance → Clearance) :
    (s.updClearance f).planner = s.planner := rfl
@[simp] theorem updClearance_seq (s : State) (f : Clearance → Clearance) :
    (s.updClearance f).seq = s.seq := rfl
@[simp] theorem updClearance_lamp (s : State) (f : Clearance → Clearance) :
    (s.updClearance f).lamp = s.lamp := rfl
@[simp] theorem updClearance_reader (s : State) (f : Clearance → Clearance) :
    (s.updClearance f).reader = s.reader := rfl
@[simp] theorem updClearance_store (s : State) (f : Clearance → Clearance) :
    (s.updClearance f).store = s.store := rfl
@[simp] theorem updClearance_clearance (s : State) (f : Clearance → Clearance) :
    (s.updClearance f).clearance = f s.clearance := rfl
@[simp] theorem updClearance_bus (s : State) (f : Clearance → Clearance) :
    (s.updClearance f).bus = s.bus := rfl
@[simp] theorem updClearance_dispatch (s : State) (f : Clearance → Clearance) :
    (s.updClearance f).dispatch = s.dispatch := rfl
@[simp] theorem updClearance_workshop (s : State) (f : Clearance → Clearance) :
    (s.updClearance f).workshop = s.workshop := rfl
@[simp] theorem updClearance_pending (s : State) (f : Clearance → Clearance) :
    (s.updClearance f).pending = s.pending := rfl

@[simp] theorem updBus_resetHeld (s : State) (f : Bus → Bus) :
    (s.updBus f).resetHeld = s.resetHeld := rfl
@[simp] theorem updBus_bayCount (s : State) (f : Bus → Bus) :
    (s.updBus f).bayCount = s.bayCount := rfl
@[simp] theorem updBus_feedStrap (s : State) (f : Bus → Bus) :
    (s.updBus f).feedStrap = s.feedStrap := rfl
@[simp] theorem updBus_now (s : State) (f : Bus → Bus) :
    (s.updBus f).now = s.now := rfl
@[simp] theorem updBus_choices (s : State) (f : Bus → Bus) :
    (s.updBus f).choices = s.choices := rfl
@[simp] theorem updBus_clock (s : State) (f : Bus → Bus) :
    (s.updBus f).clock = s.clock := rfl
@[simp] theorem updBus_bays (s : State) (f : Bus → Bus) :
    (s.updBus f).bays = s.bays := rfl
@[simp] theorem updBus_classes (s : State) (f : Bus → Bus) :
    (s.updBus f).classes = s.classes := rfl
@[simp] theorem updBus_book (s : State) (f : Bus → Bus) :
    (s.updBus f).book = s.book := rfl
@[simp] theorem updBus_planner (s : State) (f : Bus → Bus) :
    (s.updBus f).planner = s.planner := rfl
@[simp] theorem updBus_seq (s : State) (f : Bus → Bus) :
    (s.updBus f).seq = s.seq := rfl
@[simp] theorem updBus_lamp (s : State) (f : Bus → Bus) :
    (s.updBus f).lamp = s.lamp := rfl
@[simp] theorem updBus_reader (s : State) (f : Bus → Bus) :
    (s.updBus f).reader = s.reader := rfl
@[simp] theorem updBus_store (s : State) (f : Bus → Bus) :
    (s.updBus f).store = s.store := rfl
@[simp] theorem updBus_clearance (s : State) (f : Bus → Bus) :
    (s.updBus f).clearance = s.clearance := rfl
@[simp] theorem updBus_bus (s : State) (f : Bus → Bus) :
    (s.updBus f).bus = f s.bus := rfl
@[simp] theorem updBus_dispatch (s : State) (f : Bus → Bus) :
    (s.updBus f).dispatch = s.dispatch := rfl
@[simp] theorem updBus_workshop (s : State) (f : Bus → Bus) :
    (s.updBus f).workshop = s.workshop := rfl
@[simp] theorem updBus_pending (s : State) (f : Bus → Bus) :
    (s.updBus f).pending = s.pending := rfl

@[simp] theorem updPlanner_resetHeld (s : State) (f : Planner → Planner) :
    (s.updPlanner f).resetHeld = s.resetHeld := rfl
@[simp] theorem updPlanner_bayCount (s : State) (f : Planner → Planner) :
    (s.updPlanner f).bayCount = s.bayCount := rfl
@[simp] theorem updPlanner_feedStrap (s : State) (f : Planner → Planner) :
    (s.updPlanner f).feedStrap = s.feedStrap := rfl
@[simp] theorem updPlanner_now (s : State) (f : Planner → Planner) :
    (s.updPlanner f).now = s.now := rfl
@[simp] theorem updPlanner_choices (s : State) (f : Planner → Planner) :
    (s.updPlanner f).choices = s.choices := rfl
@[simp] theorem updPlanner_clock (s : State) (f : Planner → Planner) :
    (s.updPlanner f).clock = s.clock := rfl
@[simp] theorem updPlanner_bays (s : State) (f : Planner → Planner) :
    (s.updPlanner f).bays = s.bays := rfl
@[simp] theorem updPlanner_classes (s : State) (f : Planner → Planner) :
    (s.updPlanner f).classes = s.classes := rfl
@[simp] theorem updPlanner_book (s : State) (f : Planner → Planner) :
    (s.updPlanner f).book = s.book := rfl
@[simp] theorem updPlanner_planner (s : State) (f : Planner → Planner) :
    (s.updPlanner f).planner = f s.planner := rfl
@[simp] theorem updPlanner_seq (s : State) (f : Planner → Planner) :
    (s.updPlanner f).seq = s.seq := rfl
@[simp] theorem updPlanner_lamp (s : State) (f : Planner → Planner) :
    (s.updPlanner f).lamp = s.lamp := rfl
@[simp] theorem updPlanner_reader (s : State) (f : Planner → Planner) :
    (s.updPlanner f).reader = s.reader := rfl
@[simp] theorem updPlanner_store (s : State) (f : Planner → Planner) :
    (s.updPlanner f).store = s.store := rfl
@[simp] theorem updPlanner_clearance (s : State) (f : Planner → Planner) :
    (s.updPlanner f).clearance = s.clearance := rfl
@[simp] theorem updPlanner_bus (s : State) (f : Planner → Planner) :
    (s.updPlanner f).bus = s.bus := rfl
@[simp] theorem updPlanner_dispatch (s : State) (f : Planner → Planner) :
    (s.updPlanner f).dispatch = s.dispatch := rfl
@[simp] theorem updPlanner_workshop (s : State) (f : Planner → Planner) :
    (s.updPlanner f).workshop = s.workshop := rfl
@[simp] theorem updPlanner_pending (s : State) (f : Planner → Planner) :
    (s.updPlanner f).pending = s.pending := rfl

@[simp] theorem updBay_resetHeld (s : State) (b : BayNo) (f : Bay → Bay) :
    (s.updBay b f).resetHeld = s.resetHeld := rfl
@[simp] theorem updBay_bayCount (s : State) (b : BayNo) (f : Bay → Bay) :
    (s.updBay b f).bayCount = s.bayCount := rfl
@[simp] theorem updBay_feedStrap (s : State) (b : BayNo) (f : Bay → Bay) :
    (s.updBay b f).feedStrap = s.feedStrap := rfl
@[simp] theorem updBay_now (s : State) (b : BayNo) (f : Bay → Bay) :
    (s.updBay b f).now = s.now := rfl
@[simp] theorem updBay_choices (s : State) (b : BayNo) (f : Bay → Bay) :
    (s.updBay b f).choices = s.choices := rfl
@[simp] theorem updBay_clock (s : State) (b : BayNo) (f : Bay → Bay) :
    (s.updBay b f).clock = s.clock := rfl
@[simp] theorem updBay_bays (s : State) (b : BayNo) (f : Bay → Bay) :
    (s.updBay b f).bays = modifyAt s.bays b f := rfl
@[simp] theorem updBay_classes (s : State) (b : BayNo) (f : Bay → Bay) :
    (s.updBay b f).classes = s.classes := rfl
@[simp] theorem updBay_book (s : State) (b : BayNo) (f : Bay → Bay) :
    (s.updBay b f).book = s.book := rfl
@[simp] theorem updBay_planner (s : State) (b : BayNo) (f : Bay → Bay) :
    (s.updBay b f).planner = s.planner := rfl
@[simp] theorem updBay_seq (s : State) (b : BayNo) (f : Bay → Bay) :
    (s.updBay b f).seq = s.seq := rfl
@[simp] theorem updBay_lamp (s : State) (b : BayNo) (f : Bay → Bay) :
    (s.updBay b f).lamp = s.lamp := rfl
@[simp] theorem updBay_reader (s : State) (b : BayNo) (f : Bay → Bay) :
    (s.updBay b f).reader = s.reader := rfl
@[simp] theorem updBay_store (s : State) (b : BayNo) (f : Bay → Bay) :
    (s.updBay b f).store = s.store := rfl
@[simp] theorem updBay_clearance (s : State) (b : BayNo) (f : Bay → Bay) :
    (s.updBay b f).clearance = s.clearance := rfl
@[simp] theorem updBay_bus (s : State) (b : BayNo) (f : Bay → Bay) :
    (s.updBay b f).bus = s.bus := rfl
@[simp] theorem updBay_dispatch (s : State) (b : BayNo) (f : Bay → Bay) :
    (s.updBay b f).dispatch = s.dispatch := rfl
@[simp] theorem updBay_workshop (s : State) (b : BayNo) (f : Bay → Bay) :
    (s.updBay b f).workshop = s.workshop := rfl
@[simp] theorem updBay_pending (s : State) (b : BayNo) (f : Bay → Bay) :
    (s.updBay b f).pending = s.pending := rfl

@[simp] theorem updPost_resetHeld (s : State) (b : BayNo) (f : Post → Post) :
    (s.updPost b f).resetHeld = s.resetHeld := rfl
@[simp] theorem updPost_bayCount (s : State) (b : BayNo) (f : Post → Post) :
    (s.updPost b f).bayCount = s.bayCount := rfl
@[simp] theorem updPost_feedStrap (s : State) (b : BayNo) (f : Post → Post) :
    (s.updPost b f).feedStrap = s.feedStrap := rfl
@[simp] theorem updPost_now (s : State) (b : BayNo) (f : Post → Post) :
    (s.updPost b f).now = s.now := rfl
@[simp] theorem updPost_choices (s : State) (b : BayNo) (f : Post → Post) :
    (s.updPost b f).choices = s.choices := rfl
@[simp] theorem updPost_clock (s : State) (b : BayNo) (f : Post → Post) :
    (s.updPost b f).clock = s.clock := rfl
@[simp] theorem updPost_bays (s : State) (b : BayNo) (f : Post → Post) :
    (s.updPost b f).bays = s.bays := rfl
@[simp] theorem updPost_classes (s : State) (b : BayNo) (f : Post → Post) :
    (s.updPost b f).classes = s.classes := rfl
@[simp] theorem updPost_book (s : State) (b : BayNo) (f : Post → Post) :
    (s.updPost b f).book = s.book := rfl
@[simp] theorem updPost_planner (s : State) (b : BayNo) (f : Post → Post) :
    (s.updPost b f).planner = s.planner := rfl
@[simp] theorem updPost_seq (s : State) (b : BayNo) (f : Post → Post) :
    (s.updPost b f).seq = s.seq := rfl
@[simp] theorem updPost_lamp (s : State) (b : BayNo) (f : Post → Post) :
    (s.updPost b f).lamp = s.lamp := rfl
@[simp] theorem updPost_reader (s : State) (b : BayNo) (f : Post → Post) :
    (s.updPost b f).reader = s.reader := rfl
@[simp] theorem updPost_store (s : State) (b : BayNo) (f : Post → Post) :
    (s.updPost b f).store = s.store := rfl
@[simp] theorem updPost_clearance (s : State) (b : BayNo) (f : Post → Post) :
    (s.updPost b f).clearance = s.clearance := rfl
@[simp] theorem updPost_bus (s : State) (b : BayNo) (f : Post → Post) :
    (s.updPost b f).bus = { s.bus with posts := modifyAt s.bus.posts b f } := rfl
@[simp] theorem updPost_dispatch (s : State) (b : BayNo) (f : Post → Post) :
    (s.updPost b f).dispatch = s.dispatch := rfl
@[simp] theorem updPost_workshop (s : State) (b : BayNo) (f : Post → Post) :
    (s.updPost b f).workshop = s.workshop := rfl
@[simp] theorem updPost_pending (s : State) (b : BayNo) (f : Post → Post) :
    (s.updPost b f).pending = s.pending := rfl

@[simp] theorem updPort_resetHeld (s : State) (l : Link) (f : Port → Port) :
    (s.updPort l f).resetHeld = s.resetHeld := by cases l <;> rfl
@[simp] theorem updPort_bayCount (s : State) (l : Link) (f : Port → Port) :
    (s.updPort l f).bayCount = s.bayCount := by cases l <;> rfl
@[simp] theorem updPort_feedStrap (s : State) (l : Link) (f : Port → Port) :
    (s.updPort l f).feedStrap = s.feedStrap := by cases l <;> rfl
@[simp] theorem updPort_now (s : State) (l : Link) (f : Port → Port) :
    (s.updPort l f).now = s.now := by cases l <;> rfl
@[simp] theorem updPort_choices (s : State) (l : Link) (f : Port → Port) :
    (s.updPort l f).choices = s.choices := by cases l <;> rfl
@[simp] theorem updPort_clock (s : State) (l : Link) (f : Port → Port) :
    (s.updPort l f).clock = s.clock := by cases l <;> rfl
@[simp] theorem updPort_bays (s : State) (l : Link) (f : Port → Port) :
    (s.updPort l f).bays = s.bays := by cases l <;> rfl
@[simp] theorem updPort_classes (s : State) (l : Link) (f : Port → Port) :
    (s.updPort l f).classes = s.classes := by cases l <;> rfl
@[simp] theorem updPort_book (s : State) (l : Link) (f : Port → Port) :
    (s.updPort l f).book = s.book := by cases l <;> rfl
@[simp] theorem updPort_planner (s : State) (l : Link) (f : Port → Port) :
    (s.updPort l f).planner = s.planner := by cases l <;> rfl
@[simp] theorem updPort_seq (s : State) (l : Link) (f : Port → Port) :
    (s.updPort l f).seq = s.seq := by cases l <;> rfl
@[simp] theorem updPort_lamp (s : State) (l : Link) (f : Port → Port) :
    (s.updPort l f).lamp = s.lamp := by cases l <;> rfl
@[simp] theorem updPort_reader (s : State) (l : Link) (f : Port → Port) :
    (s.updPort l f).reader = s.reader := by cases l <;> rfl
@[simp] theorem updPort_store (s : State) (l : Link) (f : Port → Port) :
    (s.updPort l f).store = s.store := by cases l <;> rfl
@[simp] theorem updPort_clearance (s : State) (l : Link) (f : Port → Port) :
    (s.updPort l f).clearance = s.clearance := by cases l <;> rfl
@[simp] theorem updPort_bus (s : State) (l : Link) (f : Port → Port) :
    (s.updPort l f).bus = s.bus := by cases l <;> rfl
@[simp] theorem updPort_dispatch (s : State) (f : Port → Port) :
    (s.updPort .dispatch f).dispatch = f s.dispatch := rfl
@[simp] theorem updPort_other_dispatch (s : State) (f : Port → Port) :
    (s.updPort .workshop f).dispatch = s.dispatch := rfl
@[simp] theorem updPort_workshop (s : State) (f : Port → Port) :
    (s.updPort .workshop f).workshop = f s.workshop := rfl
@[simp] theorem updPort_other_workshop (s : State) (f : Port → Port) :
    (s.updPort .dispatch f).workshop = s.workshop := rfl
@[simp] theorem updPort_pending (s : State) (l : Link) (f : Port → Port) :
    (s.updPort l f).pending = s.pending := by cases l <;> rfl

/-! ## The ports of the two links -/

@[simp] theorem port_updPort_same (s : State) (l : Link) (f : Port → Port) :
    (s.updPort l f).port l = f (s.port l) := by cases l <;> rfl
theorem port_updPort_of_ne (s : State) (l m : Link) (f : Port → Port) (h : l ≠ m) :
    (s.updPort l f).port m = s.port m := by cases l <;> cases m <;> first | rfl | exact absurd rfl h

/-! ## One place of a vector -/

@[simp] theorem modifyAt_same {α : Type} {n : Nat} (v : Vector α n) (i : Fin n) (f : α → α) : (modifyAt v i f)[i.val] = f v[i.val] := by
  simp [modifyAt]
theorem modifyAt_of_ne {α : Type} {n : Nat} (v : Vector α n) (i j : Fin n) (f : α → α) (h : i ≠ j) :
    (modifyAt v i f)[j.val] = v[j.val] := by
  have : i.val ≠ j.val := fun e => h (Fin.ext e)
  simp [modifyAt, this]
@[simp] theorem bay_updBay_same (s : State) (b : BayNo) (f : Bay → Bay) : (s.updBay b f).bay b = f (s.bay b) := by
  simp [State.bay]
theorem bay_updBay_of_ne (s : State) (b c : BayNo) (f : Bay → Bay) (h : b ≠ c) : (s.updBay b f).bay c = s.bay c := by
  simp only [State.bay, updBay_bays]
  exact modifyAt_of_ne s.bays b c f h

end Sys2Proof.Machine
end

