-- ==== Sys2Proof/Laws/Frames.lean ====
section
/-! SUPPORT. What the shared operations touch, one lemma each: an operation changes only the blocks named on the right; what leaves the
on-set or is signalled; and what the checks of a frame say. -/

namespace Sys2Proof.Machine

/-! ## Ports and the bus -/

theorem notify_frame (k : NoticeKind) (bs : BaySet) (s : State) :
    notify k bs s = { s with dispatch := (notify k bs s).dispatch, workshop := (notify k bs s).workshop } := rfl

theorem notifyBay_frame (k : NoticeKind) (b : BayNo) (s : State) :
    notifyBay k b s = { s with dispatch := (notifyBay k b s).dispatch, workshop := (notifyBay k b s).workshop } := rfl

theorem placeOrReplace_asked (p : Job → Bool) (j : Job) (s : State) : placeOrReplace p j s = { s with bus := s.asked p j } := by
  unfold placeOrReplace State.asked placeJob State.waits
  split <;> rfl

theorem placeOrReplace_frame (p : Job → Bool) (j : Job) (s : State) :
    placeOrReplace p j s = { s with bus := (placeOrReplace p j s).bus } := by
  rw [placeOrReplace_asked]

theorem withdraw_withdrawn (p : Job → Bool) (s : State) : withdraw p s = { s with bus := s.withdrawn p } := by
  obtain ⟨_, _, _, _, _, _, _, _, _, _, _, _, _, _, _, ⟨_, wire, _, _, _, _, _, _, _, _⟩, _, _, _⟩ := s
  unfold withdraw discardFlying withdrawWaiting State.withdrawn
  cases wire with
  | busy x =>
    obtain ⟨j, r, t, d⟩ := x
    cases hp : p j <;> simp [hp]
  | free => rfl
  | quiet => rfl

theorem withdraw_frame (p : Job → Bool) (s : State) : withdraw p s = { s with bus := (withdraw p s).bus } := by
  rw [withdraw_withdrawn]

theorem setBayState_frame (b : BayNo) (st : BayState) (s : State) :
    setBayState b st s =
      { s with
        bays := (setBayState b st s).bays
        dispatch := (setBayState b st s).dispatch
        workshop := (setBayState b st s).workshop } := by
  unfold setBayState; split <;> rfl

theorem answer_frame (l : Link) (r : Response) (s : State) :
    answer l r s = { s with dispatch := (answer l r s).dispatch, workshop := (answer l r s).workshop } := by cases l <;> rfl

/-! ## The sequencer -/

theorem requestHeat_frame (b : BayNo) (on : Bool) (s : State) : requestHeat b on s = { s with bus := (requestHeat b on s).bus } := by
  unfold requestHeat
  split
  · rfl
  · exact placeOrReplace_frame _ _ _

theorem commandHeat_frame (b : BayNo) (on : Bool) (s : State) :
    commandHeat b on s = { s with seq := (commandHeat b on s).seq, bus := (commandHeat b on s).bus } := by
  unfold commandHeat
  split
  · rfl
  · rw [requestHeat_frame]; rfl

theorem leaveOnSet_frame (b : BayNo) (s : State) :
    leaveOnSet b s = { s with seq := (leaveOnSet b s).seq, bus := (leaveOnSet b s).bus } := by
  unfold leaveOnSet
  split
  · rfl
  · rw [commandHeat_frame]; rfl

theorem silenceHeating_frame (b : BayNo) (s : State) :
    silenceHeating b s = { s with seq := (silenceHeating b s).seq, bus := (silenceHeating b s).bus } := by
  unfold silenceHeating
  split
  · rfl
  · rw [leaveOnSet_frame]; rfl

theorem tearDownHeating_frame (b : BayNo) (s : State) :
    tearDownHeating b s = { s with seq := (tearDownHeating b s).seq, bus := (tearDownHeating b s).bus } := by
  unfold tearDownHeating
  rw [commandHeat_frame, leaveOnSet_frame]; rfl

theorem shedSome_frame (n : Nat) (s : State) :
    shedSome n s = { s with seq := (shedSome n s).seq, bus := (shedSome n s).bus } := by
  induction n generalizing s with
  | zero => rfl
  | succ n ih =>
    unfold shedSome
    split
    · rfl
    · rw [ih, leaveOnSet_frame]

theorem shedAll_frame (s : State) : shedAll s = { s with seq := (shedAll s).seq, bus := (shedAll s).bus } := by
  unfold shedAll
  generalize s.seq.onSet.reverse = l
  induction l generalizing s with
  | nil => rfl
  | cons m l ih => rw [List.foldl_cons, ih, leaveOnSet_frame]

theorem shed_frame (s : State) : shed s = { s with seq := (shed s).seq, bus := (shed s).bus } := by
  unfold shed
  split
  · exact shedAll_frame s
  · exact shedSome_frame _ s

/-! ## The clearance unit and the book -/

theorem requestSignal_frame (b : BayNo) (a : Aspect) (s : State) :
    requestSignal b a s = { s with bus := (requestSignal b a s).bus } := by
  unfold requestSignal
  split
  · rfl
  · exact placeOrReplace_frame _ _ _

theorem setSignal_frame (b : BayNo) (a : Aspect) (s : State) :
    setSignal b a s = { s with clearance := (setSignal b a s).clearance, bus := (setSignal b a s).bus } := by
  unfold setSignal
  split
  · rfl
  · rw [requestSignal_frame]; rfl

theorem removeAndNotify_frame (d : Departure) (o : LogOutcome) (a : Bool) (s : State) :
    removeAndNotify d o a s =
      { s with
        book := (removeAndNotify d o a s).book
        dispatch := (removeAndNotify d o a s).dispatch
        workshop := (removeAndNotify d o a s).workshop } := by
  unfold removeAndNotify
  cases a <;> rfl

theorem bindWhere_frame (p : Departure → Bool) (b : BayNo) (s : State) :
    bindWhere p b s =
      { s with book := (bindWhere p b s).book, dispatch := (bindWhere p b s).dispatch, workshop := (bindWhere p b s).workshop } := by
  unfold bindWhere
  split
  · split
    · rfl
    · split <;> rfl
  · rfl

/-! ## What leaves the on-set, what is signalled -/

theorem requestSignal_bus (b : BayNo) (a : Aspect) (s : State) :
    requestSignal b a s = { s with bus := if s.bus.posts[b].silent then s.bus else s.signalled b a } := by
  unfold requestSignal State.silent State.signalled
  split
  · rfl
  · exact placeOrReplace_asked _ _ _

theorem requestHeat_bus (b : BayNo) (on : Bool) (s : State) :
    requestHeat b on s = { s with bus := if s.bus.posts[b].silent then s.bus else s.asked (Job.isHeatFor b) (.heat b on) } := by
  unfold requestHeat State.silent
  split
  · rfl
  · exact placeOrReplace_asked _ _ _

theorem setSignal_of_ne {b : BayNo} {a : Aspect} {s : State} (h : s.clearance.signals[b] ≠ a) :
    setSignal b a s =
      { s with
        clearance := { s.clearance with
          signals := s.clearance.signals.set b a
          alerts := s.clearance.alerts.set b (if a = .alert then some 300000 else none) }
        bus := if s.bus.posts[b].silent then s.bus else s.signalled b a } := by
  unfold setSignal
  rw [if_neg h, requestSignal_bus]; rfl

/-- With no bay twice in the on-set, the entry of the bay's member is the one entry that a leaving member names. -/
theorem markMissed_eq {on : List Member} {b : BayNo} {m : Member} (hn : (on.map (·.bay)).Nodup) (hf : on.find? (·.bay == b) = some m)
    (chain : List Entry) : markMissed chain m.entry
      = chain.mapIdx fun i e => if on.any fun x => x.bay == b && x.entry == some i then { e with status := .missed } else e := by
  have hm : m ∈ on ∧ m.bay = b := ⟨List.mem_of_find?_eq_some hf, by simpa using List.find?_some hf⟩
  have key : ∀ i, (on.any fun x => x.bay == b && x.entry == some i) = (m.entry == some i) := by
    intro i
    rw [Bool.eq_iff_iff]
    simp only [List.any_eq_true, Bool.and_eq_true, beq_iff_eq]
    constructor
    · rintro ⟨x, hx, hb, he⟩
      rw [List.inj_on_of_nodup_map hn hm.1 hx (hm.2.trans hb.symm)]; exact he
    · intro he; exact ⟨m, hm.1, hm.2, he⟩
  simp only [key]
  apply List.ext_getElem?
  intro i
  cases he : m.entry with
  | none => simp [markMissed]
  | some k => simp [markMissed, List.getElem?_modify]

theorem requestHeat_waits {b : BayNo} {on : Bool} {s : State} (h : s.silent b = false) :
    (requestHeat b on s).waits (· == .heat b on) = true := by
  unfold requestHeat placeOrReplace placeJob State.waits
  rw [if_neg (by simp [h])]
  split
  · rename_i hw
    simp only [List.any_map]
    rw [List.any_eq_true] at hw ⊢
    obtain ⟨r, hr, hp⟩ := hw
    exact ⟨r, hr, by simp [hp]⟩
  · simp

/-- A HEAT request touches nothing but the waiting requests. -/
theorem requestHeat_waiting (b : BayNo) (on : Bool) (s : State) :
    requestHeat b on s = { s with bus := { s.bus with waiting := (requestHeat b on s).bus.waiting } } := by
  unfold requestHeat placeOrReplace placeJob
  split
  · rfl
  · split <;> rfl

/-- A HEAT request touches no other request. -/
theorem requestHeat_others {b : BayNo} {on : Bool} {s : State} (q : Request → Bool) (h : ∀ r : Request, r.job.isHeatFor b = true → q r = false) :
    (requestHeat b on s).bus.waiting.filter q = s.bus.waiting.filter q := by
  have hq : ∀ n, q ⟨.heat b on, n⟩ = false := fun n => h _ (by simp [Job.isHeatFor])
  unfold requestHeat placeOrReplace placeJob
  split
  · rfl
  · split
    · show (s.bus.waiting.map _).filter q = _
      induction s.bus.waiting with
      | nil => rfl
      | cons r rs ih =>
        rw [List.map_cons, List.filter_cons, List.filter_cons, ih]
        by_cases hr : r.job.isHeatFor b = true
        · simp [hr, h r hr, hq]
        · simp [hr]
    · simp [hq]

theorem leaveOnSet_leaves (b : BayNo) (s : State) : s.leaves (leaveOnSet b s) (· == b) := by
  cases hm : s.seq.member b with
  | none =>
    have hl : leaveOnSet b s = s := by simp [leaveOnSet, hm]
    have hn : ∀ m ∈ s.seq.onSet, m.bay ≠ b := by simpa [Sequencer.member] using hm
    rw [hl]
    refine ⟨(List.filter_eq_self.2 (by simpa using hn)).symm, ?_, ?_, ?_, rfl, rfl⟩
    · apply Vector.ext; intro i hi; simp; grind
    · intro _; apply List.ext_getElem?; intro i; simp; grind
    · intro c; simp; grind
  | some m =>
    have hb : (s.seq.onSet.any (·.bay == b)) = true := by
      rw [List.any_eq_true]
      exact ⟨m, List.mem_of_find?_eq_some hm, List.find?_some (p := fun x : Member => x.bay == b) hm⟩
    have hoff : ∀ c : BayNo, (s.seq.onSet.any (·.bay == c) && c == b && s.seq.commanded[c].on) = (c == b && s.seq.commanded[b].on) := by
      intro c; by_cases hc : c = b
      · subst hc; simp [hb]
      · rw [beq_false_of_ne hc, Bool.and_false, Bool.false_and, Bool.false_and]
    have hfilter : s.seq.onSet.filter (·.bay != b) = s.seq.onSet.filter fun m => !(m.bay == b) := rfl
    cases hon : s.seq.commanded[b].on with
    | false =>
      have hl : leaveOnSet b s = { s with seq := { s.seq with
          onSet := s.seq.onSet.filter (·.bay != b), chain := markMissed s.seq.chain m.entry } } := by
        have hon' : s.seq.commanded[b.val].on = false := hon
        simp [leaveOnSet, hm, commandHeat, State.updSeq, hon']
      simp only [State.leaves, hoff, hl, hon, Bool.and_false]
      exact ⟨hfilter, by apply Vector.ext; intro i hi; simp, fun hn => markMissed_eq hn hm _, by simp, trivial, trivial⟩
    | true =>
      have hl : leaveOnSet b s = requestHeat b false { s with seq := { s.seq with
          onSet := s.seq.onSet.filter (·.bay != b)
          chain := markMissed s.seq.chain m.entry
          commanded := s.seq.commanded.set b ⟨false, s.now⟩ } } := by
        have hon' : s.seq.commanded[b.val].on = true := hon
        simp [leaveOnSet, hm, commandHeat, State.updSeq, hon']
      rw [hl]
      simp only [State.leaves, hoff, hon, Bool.and_true]
      refine ⟨by rw [requestHeat_waiting]; exact hfilter, ?_, fun hn => by rw [requestHeat_waiting]; exact markMissed_eq hn hm _, ?_, ?_, ?_⟩
      · rw [requestHeat_waiting]; apply Vector.ext; intro i hi; simp; grind
      · intro c hc hs
        obtain rfl : c = b := by simpa using hc
        exact requestHeat_waits hs
      · apply requestHeat_others
        intro r hr
        cases hj : r.job <;> simp_all [Job.isHeatFor]
      · rw [requestHeat_waiting]

/-! ## Frames of the post bus and of the links -/

theorem clearanceRef_of_two_le {payload : List Byte} (free : Half) (h : 2 ≤ payload.length) :
    (clearanceRef payload free).toNat = wordAt payload 0 := by
  match payload, h with
  | hi :: lo :: _, _ =>
    have h : (hi ++ lo : BitVec (8 + 8)).toNat = 256 * hi.toNat + lo.toNat := by
      rw [BitVec.toNat_append, ← Nat.shiftLeft_add_eq_or_of_lt lo.isLt, Nat.shiftLeft_eq, Nat.mul_comm]
    simpa [clearanceRef, half, wordAt, byteAt] using h

theorem goodStatus_eq_some (r : PostReply) (j : Job) (st : PostStatus) :
    goodStatus r j = some st ↔
      (∃ b : BayNo, j.bay = some b ∧ r.address.toNat = b.val) ∧ r.kind = some j.kind ∧ r.status = some st ∧ soundFrame r j.kind st = true := by
  unfold goodStatus
  cases j.bay <;> cases r.status <;> simp
  grind

theorem crc8_append (bs : List Byte) (x : Byte) : crc8 (bs ++ [x]) = (byteBits x).foldl crc8Bit (crc8 bs) := by
  simp [crc8, List.foldl_append]

theorem crc16_append (bs : List Byte) (x : Byte) : crc16 (bs ++ [x]) = (byteBits x).foldl crc16Bit (crc16 bs) := by
  simp [crc16, List.foldl_append]

theorem olderBy_le (unit ms age : Nat) : olderBy unit ms age ≤ 65535 * unit := Nat.min_le_left ..

end Sys2Proof.Machine
end

