-- ==== Sys2Proof/Laws/Decisions.lean ====
section
/-! SUPPORT. What a decision of the clearance unit and a write of the defect store may change: each touches the blocks named here, and of the bus
only the waiting requests and the mark of the transaction in flight. -/

namespace Sys2Proof.Machine

/-! ## Requests -/

theorem requestSignal_waiting (b : BayNo) (a : Aspect) (s : State) :
    requestSignal b a s = { s with bus := { s.bus with waiting := (requestSignal b a s).bus.waiting } } := by
  unfold requestSignal placeOrReplace placeJob
  split
  · rfl
  · split <;> rfl

theorem setSignal_waiting (b : BayNo) (a : Aspect) (s : State) :
    setSignal b a s =
      { s with clearance := (setSignal b a s).clearance, bus := { s.bus with waiting := (setSignal b a s).bus.waiting } } := by
  unfold setSignal
  split
  · rfl
  · rw [requestSignal_waiting]; rfl

theorem leaveOnSet_waiting (b : BayNo) (s : State) :
    leaveOnSet b s = { s with seq := (leaveOnSet b s).seq, bus := { s.bus with waiting := (leaveOnSet b s).bus.waiting } } := by
  unfold leaveOnSet commandHeat
  split
  · rfl
  · split
    · rfl
    · rw [requestHeat_waiting]; rfl

/-! ## Decisions -/

/-- t comes from s by a decision of the clearance unit: the lamp unit, the reader, the sequencer, the store, the posts and the rest stand. -/
def State.decidedFrom (t s : State) : Prop :=
  t = { s with
    bays := t.bays
    book := t.book
    clearance := t.clearance
    bus := { s.bus with waiting := t.bus.waiting, wire := t.bus.wire }
    dispatch := t.dispatch
    workshop := t.workshop }

theorem State.decidedFrom.trans {u t s : State} (h : u.decidedFrom t) (h' : t.decidedFrom s) : u.decidedFrom s := by
  unfold decidedFrom at *; rw [h, h']

theorem notifyBay_decided (k : NoticeKind) (b : BayNo) (s : State) : (notifyBay k b s).decidedFrom s := rfl

theorem updBook_decided (f : Book → Book) (s : State) : (s.updBook f).decidedFrom s := rfl

theorem updClearance_decided (f : Clearance → Clearance) (s : State) : (s.updClearance f).decidedFrom s := rfl

theorem setBayState_decided (b : BayNo) (st : BayState) (s : State) : (setBayState b st s).decidedFrom s := by
  rw [setBayState_frame]; rfl

theorem setSignal_decided (b : BayNo) (a : Aspect) (s : State) : (setSignal b a s).decidedFrom s := by rw [setSignal_waiting]; rfl

theorem withdraw_decided (p : Job → Bool) (s : State) : (withdraw p s).decidedFrom s := by rw [withdraw_withdrawn]; rfl

theorem bindWhere_decided (p : Departure → Bool) (b : BayNo) (s : State) : (bindWhere p b s).decidedFrom s := by
  rw [bindWhere_frame]; rfl

theorem removeAndNotify_decided (d : Departure) (o : LogOutcome) (a : Bool) (s : State) : (removeAndNotify d o a s).decidedFrom s := by
  rw [removeAndNotify_frame]; rfl

theorem grant_decided (ref : Nat) (b : BayNo) (s : State) : (grant ref b s).decidedFrom s :=
  (notifyBay_decided ..).trans <| (setSignal_decided ..).trans <| (updClearance_decided ..).trans <|
    (setBayState_decided ..).trans <| (withdraw_decided ..).trans <| updBook_decided ..

theorem refuse_decided (ref : Nat) (b : BayNo) (rs : ReasonSet) (s : State) : (refuse ref b rs s).decidedFrom s :=
  (notifyBay_decided ..).trans <| (updClearance_decided ..).trans <| updBook_decided ..

theorem returnBay_decided (b : BayNo) (s : State) : (returnBay b s).decidedFrom s :=
  (setSignal_decided ..).trans <| setBayState_decided ..

theorem cancelRecord_decided (d : Departure) (o : LogOutcome) (s : State) : (cancelRecord d o s).decidedFrom s := by
  unfold cancelRecord
  have h := removeAndNotify_decided d o false s
  split
  · exact (bindWhere_decided ..).trans h
  · exact (bindWhere_decided ..).trans <| (notifyBay_decided ..).trans <| (updClearance_decided ..).trans h
  · exact (bindWhere_decided ..).trans <| (returnBay_decided ..).trans h
  all_goals exact h

theorem autoCancel_decided (ref : Nat) (s : State) : (autoCancel ref s).decidedFrom s := by
  unfold autoCancel
  split
  · rfl
  · split
    · rfl
    · split
      · exact cancelRecord_decided ..
      · rfl

theorem reportToClearance_decided (b : BayNo) (s : State) : (reportToClearance b s).decidedFrom s := by
  unfold reportToClearance
  split
  · rfl
  · split
    · exact (autoCancel_decided ..).trans <| (notifyBay_decided ..).trans <| (returnBay_decided ..).trans <| updBook_decided ..
    · rfl

theorem pendingCompletion_decided (b : BayNo) (s : State) : (pendingCompletion b s).decidedFrom s := by
  unfold pendingCompletion
  split
  · rfl
  · split
    · rfl
    · split
      · rfl
      · dsimp only
        split
        · exact grant_decided ..
        · split
          · rfl
          · exact refuse_decided ..

/-! ## Writes of the defect store -/

/-- t comes from s by a write of the defect store with its reports: the lamp unit, the reader, the posts and the rest stand. -/
def State.reportedFrom (t s : State) : Prop :=
  t = { s with
    bays := t.bays
    book := t.book
    seq := t.seq
    store := t.store
    clearance := t.clearance
    bus := { s.bus with waiting := t.bus.waiting, wire := t.bus.wire }
    dispatch := t.dispatch
    workshop := t.workshop }

theorem State.reportedFrom.trans {u t s : State} (h : u.reportedFrom t) (h' : t.reportedFrom s) : u.reportedFrom s := by
  unfold reportedFrom at *; rw [h, h']

theorem State.decidedFrom.reported {t s : State} (h : t.decidedFrom s) : t.reportedFrom s := by
  unfold decidedFrom reportedFrom at *; rw [h]

theorem leaveOnSet_reported (b : BayNo) (s : State) : (leaveOnSet b s).reportedFrom s := by rw [leaveOnSet_waiting]; rfl

theorem reportWrite_reported (b : BayNo) (e : Effect) (notable : Bool) (s : State) : (reportWrite b e notable s).reportedFrom s := by
  unfold reportWrite
  dsimp only
  have h1 : (if notable = true then notifyBay .defect b s else s).reportedFrom s := by
    split
    · exact (notifyBay_decided ..).reported
    · rfl
  generalize (if notable = true then notifyBay .defect b s else s) = u at h1
  have h2 : (if e.inhibits = true then leaveOnSet b u else u).reportedFrom s := by
    split
    · exact (leaveOnSet_reported ..).trans h1
    · exact h1
  split
  · exact (reportToClearance_decided ..).reported.trans h2
  · exact h2

theorem mergeInto_reported (b : BayNo) (m : Store → Store × Effect) (s : State) : (mergeInto b m s).reportedFrom s := by
  unfold mergeInto
  split
  · exact (reportWrite_reported ..).trans rfl
  · rfl

/-- What a decision or a write leaves of the lamp unit, the reader and the posts. -/
theorem State.reportedFrom.keeps {t s : State} (h : t.reportedFrom s) :
    t.lamp = s.lamp ∧ t.reader = s.reader ∧ t.bus.posts = s.bus.posts := by
  unfold reportedFrom at h
  rw [h]
  exact ⟨rfl, rfl, rfl⟩

end Sys2Proof.Machine
end

