-- ==== Sys2Proof/Laws/Kept.lean ====
section
/-! SUPPORT. What a step can do, said once: a property of states that each elementary change keeps (Kept) is kept by every operation of
the machine, and so by every step. An invariant is proved by giving its Kept. -/

namespace Sys2Proof.Machine

/-- The elementary changes of the state, each with what the machine knows when it makes it. -/
structure Kept (P : State → Prop) : Prop where
  port : ∀ l f s, P s → P (s.updPort l f)
  bus : ∀ f s, P s → P (s.updBus f)
  reorder : ∀ s, P s → P (reorder s)
  updRecord : ∀ ref f s, (∀ d, (f d).ref = d.ref) → P s → P (updRecord ref f s)
  removeRecord : ∀ d o a s, P s → P (removeRecord d o a s)
  addRecord : ∀ a s, s.bookRefusal a = none → P s → P (addRecord a s)
  bookNumber : ∀ n s, P s → P (s.updBook fun k => { k with nextBooking := n })
  clearance : ∀ f s, P s → P (s.updClearance f)
  reader : ∀ f s, P s → P (s.updReader f)
  planner : ∀ f s, P s → P (s.updPlanner f)
  clock : ∀ c (s : State), P s → P { s with clock := c }
  classes : ∀ c (s : State), P s → P { s with classes := c }
  queue : ∀ q (s : State), P s → P { s with pending := q }
  choices : ∀ n (s : State), P s → P { s with choices := n }
  held : ∀ (s : State), P s → P { s with resetHeld := true }
  powerOn : ∀ b f a q n, P { State.powerOn b f a q with choices := n }
  timers : ∀ s, P s → P s.runTimers
  cabinAges : ∀ ms s, P s → P (ageCabins ms s)
  recordAges : ∀ ms s, P s → P (ageRecords ms s)
  /-- a bay's fields other than its state and plug -/
  bayField : ∀ b f s, (∀ r, (f r).state = r.state ∧ (f r).plug = r.plug) → P s → P (s.updBay b f)
  bayState : ∀ b st s, st ≠ .cleared → st ≠ .leaving → P s → P (s.updBay b fun r => { r with state := st })
  bayGrant : ∀ b s, P s → P (s.updBay b fun r => { r with state := if (s.bay b).plug then .cleared else .leaving })
  bayPlug : ∀ b v f s, (∀ r, (f r).state = r.state ∧ (f r).plug = v) → (v = true → (s.bay b).state ≠ .leaving) →
    (v = false → (s.bay b).state ≠ .cleared) → P s → P (s.updBay b f)
  plugDrawn : ∀ b s, (s.bay b).state = .cleared → P s →
    P (setBayState b .leaving (recordUnplug b (s.updBay b fun r => { r with plug := false })))
  plugBack : ∀ b s, (s.bay b).state = .leaving → P s →
    P (setBayState b .cleared ((s.updBay b fun r => { r with plug := true }).updBay b fun r => { r with cabinAtUnplug := none }))
  /-- the sequencer -/
  command : ∀ b on s, P s → P (commandHeat b on s)
  leave : ∀ b s, P s → P (leaveOnSet b s)
  silence : ∀ b s, P s → P (silenceHeating b s)
  tearHeating : ∀ b s, P s → P (tearDownHeating b s)
  alarm : ∀ v s, P s → P (s.updSeq fun q => { q with feedAlarm := v })
  slotTimer : ∀ i t s, P s → P (s.updSeq fun q => { q with index := i, timer := t })
  limits : ∀ a s, P s → P (shed (setLimits a s))
  stuck : ∀ (b : BayNo) u s, P s → P (shed (s.updSeq fun q => { q with stuck := q.stuck.set b (some u) }))
  unstuck : ∀ (b : BayNo) s, P s → P (s.updSeq fun q => { q with stuck := q.stuck.set b none })
  endSlot : ∀ s, P s → P (s.updSeq fun q => { q with held := Vector.replicate 24 none, onSet := [] })
  walk : ∀ s, s.seq.held = Vector.replicate 24 none → s.seq.onSet = [] → s.seq.stuckExceed = false → P s →
    P (s.updSeq fun q =>
      { q with
        onSet := (walkFrom s ⟨[], s.seq.stuck, [], false⟩ 0 s.seq.chain).1.joined
        stuck := (walkFrom s ⟨[], s.seq.stuck, [], false⟩ 0 s.seq.chain).1.stuck
        chain := (walkFrom s ⟨[], s.seq.stuck, [], false⟩ 0 s.seq.chain).2 })
  closeRound : ∀ s, P s → P (closeRound s)
  layOut : ∀ hs s, (hs.map (·.bay)).Nodup → s.seq.chain.all (·.pinned) = true → P s → P (s.updSeq (·.layOut hs))
  lateAppend : ∀ b n s, P s → P (s.updSeq (·.lateAppend b n))
  pin : ∀ b s, s.seq.pinned < 16 → s.seq.chain.length < 64 → P s → P (s.updSeq (·.addPin b))
  unpin : ∀ p s, P s → P (s.updSeq (·.removeEntry p))
  closeHeating : ∀ b s, P s → P (closeHeating b s)
  restartHeating : ∀ s, P s → P (restartHeating s)
  /-- the lamp unit -/
  lampFree : ∀ g s, (∀ u, (g u).queue = u.queue ∧ (g u).engines = u.engines) → P s → P (s.updLamp g)
  engineOff : ∀ e x s, x.testing = none → P s → P (setEngine e x s)
  engineRun : ∀ (e : EngineNo) t t' s, s.lamp.engines[e] = .running t → t'.bay = t.bay → P s → P (setEngine e (.running t') s)
  engineStart : ∀ (e : EngineNo) t s, s.lamp.engines[e] = .free → s.testActive t.bay = false → P s → P (setEngine e (.running t) s)
  enqueueUrgent : ∀ b s, s.testActive b = false → s.lamp.queue.length < 8 → P s →
    P (s.updLamp fun u => { u with queue := insertUrgent b u.queue })
  enqueueRoutine : ∀ b s, s.testActive b = false → s.lamp.queue.length < 8 → P s →
    P (s.updLamp fun u => { u with queue := u.queue ++ [⟨b, .routine⟩] })
  promote : ∀ b s, s.lamp.queue.contains ⟨b, .routine⟩ = true → P s → P (s.updLamp fun u => { u with queue := promote b u.queue })
  dequeue : ∀ b s, P s → P (s.updLamp fun u => { u with queue := u.queue.filter (·.bay != b) })
  /-- the defect store -/
  finding : ∀ b f s, P s → P { s with store := (s.store.applyFinding b f).1 }
  remove : ∀ b p s, P s → P (s.updStore (·.removeWhere b p))
  update : ∀ b p f s, (∀ d, (f d).slot = d.slot ∧ (f d).source = d.source ∧ (f d).code = d.code) → P s →
    P (s.updStore (·.updateWhere b p f))
  marks : ∀ m s, P s → P (s.updStore fun st => { st with marks := m })
  manual : ∀ b code x st s, s.hasManual b code = false → s.store.create b (manualDefect code x) = some st → P s →
    P { s with store := st }
  restartStore : ∀ s, P s → P (restartStore s)

namespace Kept

variable {P : State → Prop} (K : Kept P)
include K

/-! ## Choices and folds -/

omit K in
theorem ite {c : Prop} [Decidable c] {a b : State} (ha : P a) (hb : P b) : P (if c then a else b) := by split <;> assumption

omit K in
theorem foldl {α : Type} (g : State → α → State) (hg : ∀ s x, P s → P (g s x)) (xs : List α) (s : State) (h : P s) :
    P (xs.foldl g s) := by
  induction xs generalizing s with
  | nil => exact h
  | cons x xs ih => exact ih _ (hg s x h)

/-! ## Flags -/

theorem postTo (l : Link) (k : NoticeKind) (bs : BaySet) (s : State) (h : P s) : P (postTo l k bs s) := by
  unfold Machine.postTo
  try dsimp only
  repeat' first
    | assumption
    | with_reducible refine Kept.foldl _ (fun _ _ _ => ?_) _ _ ?_
    | with_reducible apply Kept.ite
    | with_reducible apply K.port

theorem notify (k : NoticeKind) (bs : BaySet) (s : State) (h : P s) : P (notify k bs s) := by
  unfold Machine.notify
  try dsimp only
  repeat' first
    | assumption
    | with_reducible refine Kept.foldl _ (fun _ _ _ => ?_) _ _ ?_
    | with_reducible apply Kept.ite
    | with_reducible apply K.postTo

theorem notifyBay (k : NoticeKind) (b : BayNo) (s : State) (h : P s) : P (notifyBay k b s) := by
  unfold Machine.notifyBay
  try dsimp only
  repeat' first
    | assumption
    | with_reducible refine Kept.foldl _ (fun _ _ _ => ?_) _ _ ?_
    | with_reducible apply Kept.ite
    | with_reducible apply K.notify

theorem markAnomaly (s : State) (h : P s) : P (markAnomaly s) := by
  unfold Machine.markAnomaly
  try dsimp only
  repeat' first
    | assumption
    | with_reducible refine Kept.foldl _ (fun _ _ _ => ?_) _ _ ?_
    | with_reducible apply Kept.ite
    | with_reducible apply K.port

/-! ## Ops -/

theorem stateSet (b : BayNo) (st : BayState) (s : State) (h : P s) (h' : P (s.updBay b fun r => { r with state := st })) :
    P (setBayState b st s) := by
  unfold Machine.setBayState
  exact Kept.ite h (K.notifyBay _ _ _ h')

/-- A bay's state other than CLEARED and LEAVING. -/
theorem setBayState (b : BayNo) (st : BayState) (s : State) (h1 : st ≠ .cleared) (h2 : st ≠ .leaving) (h : P s) :
    P (setBayState b st s) := K.stateSet b st s h (K.bayState b st s h1 h2 h)

theorem setConflict (b : BayNo) (on : Bool) (s : State) (h : P s) : P (setConflict b on s) :=
  Kept.ite h (K.notifyBay _ _ _ (K.bayField _ _ _ (fun _ => ⟨rfl, rfl⟩) h))

theorem setHold (b : BayNo) (on : Bool) (s : State) (h : P s) : P (setHold b on s) :=
  Kept.ite h (K.notifyBay _ _ _ (K.bayField _ _ _ (fun _ => ⟨rfl, rfl⟩) h))

theorem updPost (b : BayNo) (f : Post → Post) (s : State) (h : P s) : P (s.updPost b f) := K.bus (fun _ => _) s h

theorem placeJob (j : Job) (s : State) (h : P s) : P (placeJob j s) := K.bus (fun _ => _) s h

theorem placeOrReplace (p : Job → Bool) (j : Job) (s : State) (h : P s) : P (placeOrReplace p j s) :=
  Kept.ite (K.bus (fun _ => _) s h) (K.placeJob j s h)

theorem withdrawWaiting (p : Job → Bool) (s : State) (h : P s) : P (withdrawWaiting p s) := K.bus (fun _ => _) s h

theorem discardFlying (p : Job → Bool) (s : State) (h : P s) : P (discardFlying p s) := by
  unfold Machine.discardFlying
  split
  · exact Kept.ite (K.bus (fun _ => _) s h) h
  · exact h
  · exact h

theorem withdraw (p : Job → Bool) (s : State) (h : P s) : P (withdraw p s) := by
  unfold Machine.withdraw
  try dsimp only
  repeat' first
    | assumption
    | with_reducible refine Kept.foldl _ (fun _ _ _ => ?_) _ _ ?_
    | with_reducible apply Kept.ite
    | with_reducible apply K.discardFlying
    | with_reducible apply K.withdrawWaiting

theorem arbitrate  (s : State) (h : P s) : P (arbitrate s) := K.bus (fun _ => _) s h

/-! ## Sequencer -/

theorem requestHeat (b : BayNo) (on : Bool) (s : State) (h : P s) : P (requestHeat b on s) := by
  unfold Machine.requestHeat
  try dsimp only
  repeat' first
    | assumption
    | with_reducible refine Kept.foldl _ (fun _ _ _ => ?_) _ _ ?_
    | with_reducible apply Kept.ite
    | with_reducible apply K.placeOrReplace

theorem restoreHeating (b : BayNo) (s : State) (h : P s) : P (restoreHeating b s) := by
  unfold Machine.restoreHeating
  try dsimp only
  repeat' first
    | assumption
    | with_reducible refine Kept.foldl _ (fun _ _ _ => ?_) _ _ ?_
    | with_reducible apply Kept.ite
    | with_reducible apply K.requestHeat

theorem shedAll (s : State) (h : P s) : P (shedAll s) := by
  unfold Machine.shedAll
  try dsimp only
  repeat' first
    | assumption
    | with_reducible refine Kept.foldl _ (fun _ _ _ => ?_) _ _ ?_
    | with_reducible apply Kept.ite
    | with_reducible apply K.leave

theorem withdrawIdent (b : BayNo) (s : State) (h : P s) : P (withdrawIdent b s) := by
  unfold Machine.withdrawIdent
  try dsimp only
  repeat' first
    | assumption
    | with_reducible refine Kept.foldl _ (fun _ _ _ => ?_) _ _ ?_
    | with_reducible apply Kept.ite
    | with_reducible apply K.withdraw

/-! ## Book -/

theorem bindWhere (p : Departure → Bool) (b : BayNo) (s : State) (h : P s) : P (bindWhere p b s) := by
  unfold Machine.bindWhere
  try dsimp only
  repeat' first
    | assumption
    | with_reducible refine Kept.foldl _ (fun _ _ _ => ?_) _ _ ?_
    | with_reducible apply Kept.ite
    | with_reducible refine K.updRecord _ _ _ (fun _ => rfl) ?_
    | with_reducible apply K.notifyBay
    | split

theorem bindFirst (b : BayNo) (s : State) (h : P s) : P (bindFirst b s) := by
  unfold Machine.bindFirst
  try dsimp only
  repeat' first
    | assumption
    | with_reducible refine Kept.foldl _ (fun _ _ _ => ?_) _ _ ?_
    | with_reducible apply Kept.ite
    | with_reducible apply K.bindWhere

theorem bindRecord (ref : Nat) (s : State) (h : P s) : P (bindRecord ref s) := by
  unfold Machine.bindRecord
  try dsimp only
  repeat' first
    | assumption
    | with_reducible refine Kept.foldl _ (fun _ _ _ => ?_) _ _ ?_
    | with_reducible apply Kept.ite
    | with_reducible apply K.bindWhere
    | split

theorem unbind (ref : Nat) (b : BayNo) (s : State) (h : P s) : P (unbind ref b s) := by
  unfold Machine.unbind
  try dsimp only
  repeat' first
    | assumption
    | with_reducible refine Kept.foldl _ (fun _ _ _ => ?_) _ _ ?_
    | with_reducible apply Kept.ite
    | with_reducible refine K.updRecord _ _ _ (fun _ => rfl) ?_
    | with_reducible apply K.notifyBay

theorem removeAndNotify (d : Departure) (outcome : LogOutcome) (anomaly : Bool) (s : State) (h : P s) : P (removeAndNotify d outcome anomaly s) := by
  unfold Machine.removeAndNotify
  try dsimp only
  repeat' first
    | assumption
    | with_reducible refine Kept.foldl _ (fun _ _ _ => ?_) _ _ ?_
    | with_reducible apply Kept.ite
    | with_reducible apply K.removeRecord
    | with_reducible apply K.markAnomaly
    | with_reducible apply K.notify

/-! ## Clearance -/

theorem requestSignal (b : BayNo) (a : Aspect) (s : State) (h : P s) : P (requestSignal b a s) := by
  unfold Machine.requestSignal
  try dsimp only
  repeat' first
    | assumption
    | with_reducible refine Kept.foldl _ (fun _ _ _ => ?_) _ _ ?_
    | with_reducible apply Kept.ite
    | with_reducible apply K.placeOrReplace

theorem setSignal (b : BayNo) (a : Aspect) (s : State) (h : P s) : P (setSignal b a s) := by
  unfold Machine.setSignal
  try dsimp only
  repeat' first
    | assumption
    | with_reducible refine Kept.foldl _ (fun _ _ _ => ?_) _ _ ?_
    | with_reducible apply Kept.ite
    | with_reducible apply K.requestSignal
    | with_reducible apply K.clearance

theorem restoreSignal (b : BayNo) (s : State) (h : P s) : P (restoreSignal b s) := by
  unfold Machine.restoreSignal
  try dsimp only
  repeat' first
    | assumption
    | with_reducible refine Kept.foldl _ (fun _ _ _ => ?_) _ _ ?_
    | with_reducible apply Kept.ite
    | with_reducible apply K.requestSignal

theorem endPending (ref : Nat) (s : State) (h : P s) : P (endPending ref s) := by
  unfold Machine.endPending
  try dsimp only
  repeat' first
    | assumption
    | with_reducible refine Kept.foldl _ (fun _ _ _ => ?_) _ _ ?_
    | with_reducible apply Kept.ite
    | with_reducible apply K.clearance

theorem dropPending (ref : Nat) (b : BayNo) (s : State) (h : P s) : P (dropPending ref b s) := by
  unfold Machine.dropPending
  try dsimp only
  repeat' first
    | assumption
    | with_reducible refine Kept.foldl _ (fun _ _ _ => ?_) _ _ ?_
    | with_reducible apply Kept.ite
    | with_reducible apply K.endPending
    | with_reducible apply K.notifyBay

theorem grant (ref : Nat) (b : BayNo) (s : State) (h : P s) : P (grant ref b s) := by
  have h1 := K.updRecord ref (fun d => { d with state := .cleared, reasons := none }) s (fun _ => rfl) h
  have h2 := K.withdrawIdent b _ h1
  exact K.notifyBay _ _ _ (K.setSignal _ _ _ (K.endPending _ _ (K.stateSet _ _ _ h2 (K.bayGrant _ _ h2))))

theorem refuse (ref : Nat) (b : BayNo) (rs : ReasonSet) (s : State) (h : P s) : P (refuse ref b rs s) := by
  unfold Machine.refuse
  try dsimp only
  repeat' first
    | assumption
    | with_reducible refine Kept.foldl _ (fun _ _ _ => ?_) _ _ ?_
    | with_reducible apply Kept.ite
    | with_reducible apply K.endPending
    | with_reducible refine K.updRecord _ _ _ (fun _ => rfl) ?_
    | with_reducible apply K.notifyBay

theorem returnBay (b : BayNo) (s : State) (h : P s) : P (returnBay b s) :=
  K.setSignal _ _ _ (K.setBayState _ _ _ (by decide) (by decide) h)

theorem cancelRecord (d : Departure) (outcome : LogOutcome) (s : State) (h : P s) : P (cancelRecord d outcome s) := by
  have h0 := K.removeAndNotify d outcome false s h
  unfold Machine.cancelRecord
  split
  · exact K.bindFirst _ _ h0
  · exact K.bindFirst _ _ (K.dropPending _ _ _ h0)
  · exact K.bindFirst _ _ (K.returnBay _ _ h0)
  all_goals exact h0

theorem autoCancel (ref : Nat) (s : State) (h : P s) : P (autoCancel ref s) := by
  unfold Machine.autoCancel
  try dsimp only
  repeat' first
    | assumption
    | with_reducible refine Kept.foldl _ (fun _ _ _ => ?_) _ _ ?_
    | with_reducible apply Kept.ite
    | with_reducible apply K.cancelRecord
    | split

theorem revoke (ref : Nat) (b : BayNo) (s : State) (h : P s) : P (revoke ref b s) := by
  unfold Machine.revoke
  try dsimp only
  repeat' first
    | assumption
    | with_reducible refine Kept.foldl _ (fun _ _ _ => ?_) _ _ ?_
    | with_reducible apply Kept.ite
    | with_reducible apply K.autoCancel
    | with_reducible apply K.returnBay
    | with_reducible refine K.updRecord _ _ _ (fun _ => rfl) ?_
    | with_reducible apply K.notifyBay

theorem reportToClearance (b : BayNo) (s : State) (h : P s) : P (reportToClearance b s) := by
  unfold Machine.reportToClearance
  try dsimp only
  repeat' first
    | assumption
    | with_reducible refine Kept.foldl _ (fun _ _ _ => ?_) _ _ ?_
    | with_reducible apply Kept.ite
    | with_reducible apply K.revoke
    | split

theorem pendingCompletion (b : BayNo) (s : State) (h : P s) : P (pendingCompletion b s) := by
  unfold Machine.pendingCompletion
  try dsimp only
  repeat' first
    | assumption
    | with_reducible refine Kept.foldl _ (fun _ _ _ => ?_) _ _ ?_
    | with_reducible apply Kept.ite
    | with_reducible apply K.refuse
    | with_reducible apply K.grant
    | split

/-! ## Store -/

theorem reportWrite (b : BayNo) (e : Effect) (notable : Bool) (s : State) (h : P s) : P (reportWrite b e notable s) := by
  have h1 : P (if notable then Machine.notifyBay .defect b s else s) := Kept.ite (K.notifyBay _ _ _ h) h
  unfold Machine.reportWrite
  dsimp only
  generalize (if notable = true then Machine.notifyBay .defect b s else s) = s1 at *
  have h2 : P (if e.inhibits then leaveOnSet b s1 else s1) := Kept.ite (K.leave _ _ h1) h1
  generalize (if e.inhibits = true then leaveOnSet b s1 else s1) = s2 at *
  exact Kept.ite (K.reportToClearance _ _ h2) h2

/-- The store after one finding, in any state that has the store. -/
theorem findingIn (b : BayNo) (f : Finding) (st : Store) (s : State) (h : P { s with store := st }) :
    P { s with store := (st.applyFinding b f).1 } := K.finding b f { s with store := st } h

theorem applyAllIn (b : BayNo) (fs : List Finding) (st : Store) (s : State) (h : P { s with store := st }) :
    P { s with store := (Store.applyAll b fs st).1 } := by
  induction fs generalizing st with
  | nil => exact h
  | cons f fs ih => exact ih _ (K.findingIn b f st s h)

theorem settleMarkIn (b : BayNo) (src : Source) (r : Store × Effect) (s : State) (h : P { s with store := r.1 }) :
    P { s with store := (Store.settleMark b src r).1 } := by
  unfold Store.settleMark
  split
  · exact h
  · exact K.marks _ { s with store := r.1 } h

theorem removePassedIn (cs : Vector CircuitResult 16) (b : BayNo) (c : Fin 16) (st : Store) (s : State)
    (h : P { s with store := st }) : P { s with store := Store.removePassed cs b st c } := by
  unfold Store.removePassed
  split
  · exact K.remove b _ { s with store := st } h
  · exact h

theorem removedIn (cs : Vector CircuitResult 16) (b : BayNo) (xs : List (Fin 16)) (st : Store) (s : State)
    (h : P { s with store := st }) : P { s with store := xs.foldl (Store.removePassed cs b) st } := by
  induction xs generalizing st with
  | nil => exact h
  | cons c xs ih => exact ih _ (K.removePassedIn cs b c st s h)

theorem mergeFaultsIn (b : BayNo) (complete : Bool) (rs : List (Gathered × Action)) (s : State) (h : P s) :
    P { s with store := (s.store.mergeFaults b complete rs).1 } := by
  unfold Store.mergeFaults
  dsimp only
  split
  · exact K.settleMarkIn _ _ _ _ (K.applyAllIn _ _ _ _ h)
  · exact K.applyAllIn _ _ _ _ h

theorem mergeLampsIn (b : BayNo) (cs : Vector CircuitResult 16) (s : State) (h : P s) :
    P { s with store := (s.store.mergeLamps b cs).1 } := by
  unfold Store.mergeLamps
  exact K.settleMarkIn b .lamp (_, _) s (K.applyAllIn _ _ _ _ (K.removedIn _ _ _ _ s h))

theorem applyPostIn (b : BayNo) (f : Finding) (s : State) (h : P s) : P { s with store := (s.store.applyPost b f).1 } := by
  unfold Store.applyPost
  dsimp only
  split
  · exact K.settleMarkIn _ _ _ _ (K.findingIn _ _ _ s h)
  · exact K.findingIn _ _ _ s h

theorem mergeInto (b : BayNo) (m : Store → Store × Effect) (s : State) (hm : P { s with store := (m s.store).1 }) (h : P s) :
    P (mergeInto b m s) := Kept.ite (K.reportWrite _ _ _ _ hm) h

theorem postFinding (b : BayNo) (f : Finding) (s : State) (h : P s) : P (postFinding b f s) :=
  Kept.ite (K.reportWrite _ _ _ _ (K.applyPostIn b f s h)) h

theorem clearPostMark (b : BayNo) (s : State) (h : P s) : P (clearPostMark b s) :=
  Kept.ite (K.notifyBay _ _ _ (K.marks _ s h)) h

theorem tearDownStore (b : BayNo) (s : State) (h : P s) : P (tearDownStore b s) :=
  K.notifyBay _ _ _ (K.bayField _ _ _ (fun _ => ⟨rfl, rfl⟩)
    (K.marks (s.store.marks.set b Marks.clear) _ (K.remove b (fun _ => true) s h)))

/-! ## Lamp -/

theorem writeResult (b : BayNo) (o : LampOutcome) (cs : Option (Vector CircuitResult 16)) (s : State) (h : P s) :
    P (writeResult b o cs s) := K.lampFree _ s (fun _ => ⟨rfl, rfl⟩) h

theorem endTest (b : BayNo) (s : State) (h : P s) : P (endTest b s) := by
  unfold Machine.endTest
  try dsimp only
  repeat' first
    | assumption
    | with_reducible refine Kept.foldl _ (fun _ _ _ => ?_) _ _ ?_
    | with_reducible apply Kept.ite
    | with_reducible apply K.pendingCompletion
    | with_reducible apply K.notifyBay

theorem endRelease (e : EngineNo) (s : State) (h : P s) : P (endRelease e s) := K.engineOff _ _ _ rfl h

theorem startRelease (e : EngineNo) (b : BayNo) (s : State) (h : P s) : P (startRelease e b s) :=
  Kept.ite (K.endRelease _ _ h) (K.placeJob _ _ (K.engineOff _ _ _ rfl h))

theorem stopSteps (e : EngineNo) (s : State) (h : P s) : P (stopSteps e s) := by
  unfold Machine.stopSteps
  try dsimp only
  repeat' first
    | assumption
    | with_reducible refine Kept.foldl _ (fun _ _ _ => ?_) _ _ ?_
    | with_reducible apply Kept.ite
    | with_reducible apply K.withdraw

theorem abortTest (e : EngineNo) (reason : LampReason) (s : State) (h : P s) : P (abortTest e reason s) := by
  unfold Machine.abortTest
  split
  · exact h
  · exact h
  · next t _ =>
    have h1 := K.writeResult t.bay (.incomplete reason) (some t.results) _
      (K.engineOff e (.releasing t.bay) _ rfl (K.stopSteps e s h))
    have h2 := K.endTest t.bay _ (K.mergeInto t.bay (fun st => st.mergePartial t.bay t.results) _
      (K.applyAllIn _ _ _ _ h1) h1)
    exact Kept.ite (K.endRelease _ _ h2) (K.startRelease _ _ _ h2)

theorem requestStep (e : EngineNo) (b : BayNo) (c : Fin 16) (s : State) (h : P s) : P (requestStep e b c s) := by
  unfold Machine.requestStep
  try dsimp only
  repeat' first
    | assumption
    | with_reducible refine Kept.foldl _ (fun _ _ _ => ?_) _ _ ?_
    | with_reducible apply Kept.ite
    | with_reducible apply K.abortTest
    | with_reducible apply K.placeJob

theorem requestRead (e : EngineNo) (b : BayNo) (c : Fin 16) (s : State) (h : P s) : P (requestRead e b c s) := by
  unfold Machine.requestRead
  try dsimp only
  repeat' first
    | assumption
    | with_reducible refine Kept.foldl _ (fun _ _ _ => ?_) _ _ ?_
    | with_reducible apply Kept.ite
    | with_reducible apply K.abortTest
    | with_reducible apply K.placeJob

theorem completeTest (e : EngineNo) (t : RunningTest) (s : State) (h : P s) : P (completeTest e t s) := by
  have h1 := K.writeResult t.bay (completeOutcome t.results) (some t.results) _
    (K.engineOff e (.releasing t.bay) _ rfl h)
  exact K.startRelease _ _ _ (K.endTest _ _ (K.mergeInto t.bay (fun st => st.mergeLamps t.bay t.results) _
    (K.mergeLampsIn _ _ _ h1) h1))

theorem startTest (e : EngineNo) (b : BayNo) (c : ClassRecord) (s : State) (he : s.lamp.engines[e] = .free)
    (hb : s.testActive b = false) (h : P s) : P (startTest e b c s) := by
  unfold Machine.startTest
  split
  · exact h
  · exact K.requestStep _ _ _ _ (K.leave _ _ (K.engineStart e _ s he hb h))

theorem takeTest (e : EngineNo) (b : BayNo) (s : State) (he : s.lamp.engines[e] = .free) (hb : s.testActive b = false) (h : P s) :
    P (takeTest e b s) := by
  unfold Machine.takeTest
  split
  · exact K.endTest _ _ (K.writeResult _ _ _ _ h)
  · split
    · exact h
    · exact K.startTest _ _ _ _ he hb h

omit K in
/-- A bay under no test, its entries gone from the queue, has no test queued or running. -/
theorem testActive_dequeued (s : State) (b : BayNo) (h : s.underTest b = false) :
    (s.updLamp fun u => { u with queue := u.queue.filter (·.bay != b) }).testActive b = false := by
  simp only [State.underTest, List.any_eq_false] at h
  simp only [State.testActive, updLamp_lamp, Bool.or_eq_false_iff, List.any_eq_false]
  refine ⟨fun q hq => ?_, fun x hx => ?_⟩
  · have := (List.mem_filter.mp hq).2
    simp_all
  · have := h x hx
    cases x <;> simp_all [Engine.bay]

theorem takeTests (n : Nat) (s : State) (h : P s) : P (takeTests n s) := by
  induction n generalizing s with
  | zero => exact h
  | succ n ih =>
    unfold Machine.takeTests
    split
    · next e q he hq =>
      refine ih _ (K.takeTest _ _ _ ?_ ?_ (K.dequeue _ _ h))
      · have := List.find?_some he
        simpa using this
      · have := List.find?_some hq
        exact testActive_dequeued s q.bay (by simpa using this)
    · exact h

theorem takeAll (s : State) (h : P s) : P (takeAll s) := K.takeTests _ _ h



theorem requestTest (b : BayNo) (lv : Level) (s : State) (h : P s) : P (requestTest b lv s).1 := by
  unfold Machine.requestTest
  split
  · exact h
  split
  · split
    · next hc => exact K.promote b s hc.2 h
    · exact h
  split
  · exact h
  · next ha hl =>
    refine K.takeAll _ ?_
    cases lv
    · exact K.enqueueUrgent b s (by simpa using ha) (by simpa [queueRoom] using hl) h
    · exact K.enqueueRoutine b s (by simpa using ha) (by simpa [queueRoom] using hl) h

theorem requestAutoTest (b : BayNo) (s : State) (h : P s) : P (requestAutoTest b s) := by
  unfold Machine.requestAutoTest
  try dsimp only
  repeat' first
    | assumption
    | with_reducible refine Kept.foldl _ (fun _ _ _ => ?_) _ _ ?_
    | with_reducible apply Kept.ite
    | with_reducible apply K.requestTest
    | with_reducible apply K.notifyBay

theorem takeStepResponse (e : EngineNo) (st : PostStatus) (s : State) (h : P s) : P (takeStepResponse e st s) := by
  unfold Machine.takeStepResponse
  split
  · exact h
  · exact h
  · next t ht => exact Kept.ite (K.engineRun e t _ s ht rfl h) (K.takeAll _ (K.abortTest _ _ _ h))

theorem takeReading (e : EngineNo) (t : RunningTest) (i : Nat) (s : State) (ht : s.lamp.engines[e] = .running t) (h : P s) :
    P (takeReading e t i s) := by
  unfold Machine.takeReading
  split
  · exact h
  · dsimp only
    split
    · exact K.requestStep _ _ _ _ (K.engineRun e t _ s ht rfl h)
    · exact K.completeTest _ _ _ h

theorem takeReadResponse (e : EngineNo) (st : PostStatus) (i : Nat) (s : State) (h : P s) : P (takeReadResponse e st i s) := by
  unfold Machine.takeReadResponse
  split
  · exact h
  · exact h
  · next t ht => exact K.takeAll _ (Kept.ite (K.takeReading e t i s ht h) (K.abortTest _ _ _ h))

theorem failStep (e : EngineNo) (s : State) (h : P s) : P (failStep e s) := by
  unfold Machine.failStep
  try dsimp only
  repeat' first
    | assumption
    | with_reducible refine Kept.foldl _ (fun _ _ _ => ?_) _ _ ?_
    | with_reducible apply Kept.ite
    | with_reducible apply K.takeAll
    | with_reducible apply K.abortTest

theorem finishRelease (e : EngineNo) (s : State) (h : P s) : P (finishRelease e s) := by
  unfold Machine.finishRelease
  try dsimp only
  repeat' first
    | assumption
    | with_reducible refine Kept.foldl _ (fun _ _ _ => ?_) _ _ ?_
    | with_reducible apply Kept.ite
    | with_reducible apply K.takeAll
    | with_reducible apply K.endRelease
    | split

theorem abortTestOn (b : BayNo) (reason : LampReason) (s : State) (h : P s) : P (abortTestOn b reason s) := by
  unfold Machine.abortTestOn
  try dsimp only
  repeat' first
    | assumption
    | with_reducible refine Kept.foldl _ (fun _ _ _ => ?_) _ _ ?_
    | with_reducible apply Kept.ite
    | with_reducible apply K.takeAll
    | with_reducible apply K.abortTest
    | split

theorem tearDownLamp (b : BayNo) (s : State) (h : P s) : P (tearDownLamp b s) := by
  have clear : ∀ s, P s → P (s.updLamp fun u => { u with queue := u.queue.filter (·.bay != b), results := u.results.set b none }) :=
    fun s h => K.lampFree (fun u => { u with results := u.results.set b none }) _ (fun _ => ⟨rfl, rfl⟩) (K.dequeue b s h)
  unfold Machine.tearDownLamp
  dsimp only
  split
  · exact K.endTest _ _ (clear _ (K.startRelease _ _ _ (K.stopSteps _ _ h)))
  · exact Kept.ite (K.endTest _ _ (clear _ h)) (clear _ h)

end Kept
end Sys2Proof.Machine
end

