-- ==== Sys2Proof/Laws/KeptHeat.lean ====
section
/-! SUPPORT. Kept, continued: Planner, Walk, Reader, Bays. -/

namespace Sys2Proof.Machine
namespace Kept

variable {P : State → Prop} (K : Kept P)
include K

/-! ## Planner -/

theorem setPlan (b : BayNo) (r : PlanResult) (s : State) (h : P s) : P (setPlan b r s) := by
  unfold Machine.setPlan
  try dsimp only
  repeat' first
    | assumption
    | with_reducible refine Kept.foldl _ (fun _ _ _ => ?_) _ _ ?_
    | with_reducible apply Kept.ite
    | with_reducible apply K.planner

theorem notifyPlanner (l : Link) (b : BayNo) (causes : CauseSet) (s : State) (h : P s) : P (notifyPlanner l b causes s) := by
  unfold Machine.notifyPlanner
  try dsimp only
  repeat' first
    | assumption
    | with_reducible refine Kept.foldl _ (fun _ _ _ => ?_) _ _ ?_
    | with_reducible apply Kept.ite
    | with_reducible apply K.postTo

theorem endPass (b : BayNo) (s : State) (h : P s) : P (endPass b s) := by
  unfold Machine.endPass
  try dsimp only
  repeat' first
    | assumption
    | with_reducible refine Kept.foldl _ (fun _ _ _ => ?_) _ _ ?_
    | with_reducible apply Kept.ite
    | with_reducible apply K.notifyPlanner
    | with_reducible apply K.planner

theorem raiseCapped (b : BayNo) (s : State) (h : P s) : P (raiseCapped b s) := by
  unfold Machine.raiseCapped
  try dsimp only
  repeat' first
    | assumption
    | with_reducible refine Kept.foldl _ (fun _ _ _ => ?_) _ _ ?_
    | with_reducible apply Kept.ite
    | with_reducible apply K.planner

theorem latePass (b : BayNo) (s : State) (h : P s) : P (latePass b s) := by
  have h1 := K.lateAppend b (s.handedOf b (s.passOf b).turns).count _ (K.setPlan b (s.passOf b) s h)
  exact K.endPass _ _ (Kept.ite (K.raiseCapped _ _ h1) h1)

omit K in
theorem setPlans_seq (rs : List (BayNo × PlanResult)) (s : State) :
    (rs.foldl (fun s r => Machine.setPlan r.1 r.2 s) s).seq = s.seq := by
  induction rs generalizing s with
  | nil => rfl
  | cons r rs ih => exact ih _

omit K in
theorem passedBays_nodup (s : State) : s.passedBays.Nodup := (List.nodup_finRange 24).filter _

/-- A full pass, asked for when the chain holds pinned entries only (R84). -/
theorem fullPass (s : State) (hp : s.seq.chain.all (·.pinned) = true) (h : P s) : P (fullPass s) := by
  unfold Machine.fullPass
  dsimp only
  refine Kept.foldl _ (fun s b h => K.endPass _ _ h) _ _ ?_
  refine Kept.foldl _ (fun s r h => K.raiseCapped _ _ h) _ _ ?_
  refine K.layOut _ _ ?_ ?_ (Kept.foldl _ (fun s r h => K.setPlan _ _ _ h) _ _ (K.planner _ _ h))
  · simpa [List.map_map, Function.comp_def, State.handedOf] using passedBays_nodup s
  · rw [setPlans_seq]
    exact hp

theorem restartPlanner (s : State) (h : P s) : P (restartPlanner s) := by
  unfold Machine.restartPlanner
  try dsimp only
  repeat' first
    | assumption
    | with_reducible refine Kept.foldl _ (fun _ _ _ => ?_) _ _ ?_
    | with_reducible apply Kept.ite
    | with_reducible apply K.planner

/-! ## Walk -/

theorem commandChanges (old : List Member) (new : List Member) (s : State) (h : P s) : P (commandChanges old new s) := by
  unfold Machine.commandChanges
  try dsimp only
  repeat' first
    | assumption
    | with_reducible refine Kept.foldl _ (fun _ _ _ => ?_) _ _ ?_
    | with_reducible apply Kept.ite
    | with_reducible apply K.command

theorem slotWalk (s : State) (h : P s) : P (slotWalk s) := by
  have h1 := K.endSlot s h
  unfold Machine.slotWalk
  dsimp only
  generalize hs : (s.updSeq fun q => { q with held := Vector.replicate 24 none, onSet := [] }) = s1 at *
  split
  · exact K.commandChanges _ _ _ h1
  · next hx =>
    refine Kept.foldl _ (fun s b h => K.postFinding _ _ _ h) _ _ (K.commandChanges _ _ _ ?_)
    refine K.walk s1 (by rw [← hs]; rfl) (by rw [← hs]; rfl) ?_ h1
    exact (by simpa using hx : s1.seq.feedAlarm = false ∧ s1.seq.stuckExceed = false).2

theorem beginRound (s : State) (h : P s) : P (beginRound s) := K.slotTimer 0 _ _ (K.planner _ s h)

omit K in
/-- R84, step 2: a closed round leaves pinned entries only. -/
theorem closeRound_pinned (s : State) : (Machine.beginRound (Machine.closeRound s)).seq.chain.all (·.pinned) = true := by
  simp only [Machine.beginRound, Machine.closeRound, updSeq_seq, updPlanner_seq, List.all_map, List.all_eq_true]
  intro e he
  exact (List.mem_filter.mp he).2

theorem roundBoundary (s : State) (h : P s) : P (roundBoundary s) :=
  K.slotWalk _ (K.fullPass _ (closeRound_pinned s) (K.beginRound _ (K.closeRound s h)))

theorem nextSlot (s : State) (h : P s) : P (nextSlot s) :=
  Kept.ite (K.slotWalk _ (K.slotTimer _ _ s h)) (K.roundBoundary s h)

theorem endStuck (b : BayNo) (s : State) (h : P s) : P (endStuck b s) := K.postFinding _ _ _ (K.unstuck b s h)

theorem raiseStuck (b : BayNo) (s : State) (h : P s) : P (raiseStuck b s) := K.postFinding _ _ _ (K.stuck b _ s h)

theorem raiseNoCurrent (b : BayNo) (s : State) (h : P s) : P (raiseNoCurrent b s) := by
  unfold Machine.raiseNoCurrent
  try dsimp only
  repeat' first
    | assumption
    | with_reducible refine Kept.foldl _ (fun _ _ _ => ?_) _ _ ?_
    | with_reducible apply Kept.ite
    | with_reducible apply K.postFinding
    | with_reducible apply K.leave

theorem checkCurrent (b : BayNo) (present : Bool) (s : State) (h : P s) : P (checkCurrent b present s) := by
  unfold Machine.checkCurrent
  try dsimp only
  repeat' first
    | assumption
    | with_reducible refine Kept.foldl _ (fun _ _ _ => ?_) _ _ ?_
    | with_reducible apply Kept.ite
    | with_reducible apply K.raiseNoCurrent
    | with_reducible apply K.raiseStuck
    | with_reducible apply K.endStuck
    | with_reducible apply K.clearPostMark

theorem assertAlarm (s : State) (h : P s) : P (assertAlarm s) := K.shedAll _ (K.alarm true s h)

/-! ## Reader -/

theorem setReading (b : BayNo) (r : Option Reading) (s : State) (h : P s) : P (setReading b r s) := by
  unfold Machine.setReading
  try dsimp only
  repeat' first
    | assumption
    | with_reducible refine Kept.foldl _ (fun _ _ _ => ?_) _ _ ?_
    | with_reducible apply Kept.ite
    | with_reducible apply K.reader

theorem setScan (b : BayNo) (t : Option Nat) (s : State) (h : P s) : P (setScan b t s) := by
  unfold Machine.setScan
  try dsimp only
  repeat' first
    | assumption
    | with_reducible refine Kept.foldl _ (fun _ _ _ => ?_) _ _ ?_
    | with_reducible apply Kept.ite
    | with_reducible apply K.reader

theorem reloadScan (b : BayNo) (s : State) (h : P s) : P (reloadScan b s) := by
  unfold Machine.reloadScan
  try dsimp only
  repeat' first
    | assumption
    | with_reducible refine Kept.foldl _ (fun _ _ _ => ?_) _ _ ?_
    | with_reducible apply Kept.ite
    | with_reducible apply K.setScan

theorem endRead (b : BayNo) (r : Reading) (o : ReadOutcome) (s : State) (h : P s) : P (endRead b r o s) := by
  unfold Machine.endRead
  dsimp only
  refine K.pendingCompletion _ _ (Kept.ite (K.notifyBay _ _ _ ?_) ?_) <;>
    exact K.reloadScan _ _ (K.reader _ _ (Kept.ite (K.mergeInto _ _ _ (K.mergeFaultsIn _ _ _ _ h) h) h))

theorem failRead (b : BayNo) (reason : ReadReason) (s : State) (h : P s) : P (failRead b reason s) := by
  unfold Machine.failRead
  try dsimp only
  repeat' first
    | assumption
    | with_reducible refine Kept.foldl _ (fun _ _ _ => ?_) _ _ ?_
    | with_reducible apply Kept.ite
    | with_reducible apply K.endRead
    | with_reducible apply K.withdraw
    | split

theorem requestPage (b : BayNo) (p : Nat) (s : State) (h : P s) : P (requestPage b p s) := by
  unfold Machine.requestPage
  try dsimp only
  repeat' first
    | assumption
    | with_reducible refine Kept.foldl _ (fun _ _ _ => ?_) _ _ ?_
    | with_reducible apply Kept.ite
    | with_reducible apply K.failRead
    | with_reducible apply K.placeJob

theorem startRead (b : BayNo) (s : State) (h : P s) : P (startRead b s) := by
  unfold Machine.startRead
  try dsimp only
  repeat' first
    | assumption
    | with_reducible refine Kept.foldl _ (fun _ _ _ => ?_) _ _ ?_
    | with_reducible apply Kept.ite
    | with_reducible apply K.requestPage
    | with_reducible apply K.endRead
    | with_reducible apply K.setReading
    | split

theorem requestFaultReading (b : BayNo) (s : State) (h : P s) : P (requestFaultReading b s).1 := by
  unfold Machine.requestFaultReading
  try dsimp only
  repeat' first
    | assumption
    | with_reducible refine Kept.foldl _ (fun _ _ _ => ?_) _ _ ?_
    | with_reducible apply Kept.ite
    | with_reducible apply K.startRead
    | split

theorem gatherPage (b : BayNo) (r : Reading) (version : Nat) (records : List Gathered) (more : Bool) (s : State) (h : P s) : P (gatherPage b r version records more s) := by
  unfold Machine.gatherPage
  try dsimp only
  repeat' first
    | assumption
    | with_reducible refine Kept.foldl _ (fun _ _ _ => ?_) _ _ ?_
    | with_reducible apply Kept.ite
    | with_reducible apply K.requestPage
    | with_reducible apply K.endRead
    | with_reducible apply K.setReading

theorem restartRead (b : BayNo) (r : Reading) (s : State) (h : P s) : P (restartRead b r s) := by
  unfold Machine.restartRead
  try dsimp only
  repeat' first
    | assumption
    | with_reducible refine Kept.foldl _ (fun _ _ _ => ?_) _ _ ?_
    | with_reducible apply Kept.ite
    | with_reducible apply K.requestPage
    | with_reducible apply K.endRead
    | with_reducible apply K.setReading

theorem takePage (b : BayNo) (version : Byte) (records : List FaultRecord) (more : Bool) (s : State) (h : P s) : P (takePage b version records more s) := by
  unfold Machine.takePage
  try dsimp only
  repeat' first
    | assumption
    | with_reducible refine Kept.foldl _ (fun _ _ _ => ?_) _ _ ?_
    | with_reducible apply Kept.ite
    | with_reducible apply K.restartRead
    | with_reducible apply K.gatherPage
    | split

theorem refusePage (b : BayNo) (reason : ReadReason) (s : State) (h : P s) : P (refusePage b reason s) := by
  unfold Machine.refusePage
  try dsimp only
  repeat' first
    | assumption
    | with_reducible refine Kept.foldl _ (fun _ _ _ => ?_) _ _ ?_
    | with_reducible apply Kept.ite
    | with_reducible apply K.failRead
    | with_reducible apply K.setReading
    | split

theorem tearDownReader (b : BayNo) (s : State) (h : P s) : P (tearDownReader b s) := by
  unfold Machine.tearDownReader
  try dsimp only
  repeat' first
    | assumption
    | with_reducible refine Kept.foldl _ (fun _ _ _ => ?_) _ _ ?_
    | with_reducible apply Kept.ite
    | with_reducible apply K.reader
    | with_reducible apply K.withdraw

/-! ## Bays -/

theorem startRetry (b : BayNo) (s : State) (h : P s) : P (startRetry b s) := by
  unfold Machine.startRetry
  try dsimp only
  repeat' first
    | assumption
    | with_reducible refine Kept.foldl _ (fun _ _ _ => ?_) _ _ ?_
    | with_reducible apply Kept.ite
    | with_reducible refine K.bayField _ _ _ (fun _ => ⟨rfl, rfl⟩) ?_

theorem stopRetry (b : BayNo) (s : State) (h : P s) : P (stopRetry b s) := by
  unfold Machine.stopRetry
  try dsimp only
  repeat' first
    | assumption
    | with_reducible refine Kept.foldl _ (fun _ _ _ => ?_) _ _ ?_
    | with_reducible apply Kept.ite
    | with_reducible refine K.bayField _ _ _ (fun _ => ⟨rfl, rfl⟩) ?_

theorem requestSense (b : BayNo) (s : State) (h : P s) : P (requestSense b s) := by
  unfold Machine.requestSense
  try dsimp only
  repeat' first
    | assumption
    | with_reducible refine Kept.foldl _ (fun _ _ _ => ?_) _ _ ?_
    | with_reducible apply Kept.ite
    | with_reducible apply K.placeJob

theorem restoreSense (b : BayNo) (s : State) (h : P s) : P (restoreSense b s) := by
  unfold Machine.restoreSense
  try dsimp only
  repeat' first
    | assumption
    | with_reducible refine Kept.foldl _ (fun _ _ _ => ?_) _ _ ?_
    | with_reducible apply Kept.ite
    | with_reducible apply K.requestSense
    | with_reducible refine K.bayField _ _ _ (fun _ => ⟨rfl, rfl⟩) ?_

theorem requestIdent (b : BayNo) (s : State) (h : P s) : P (requestIdent b s) := by
  unfold Machine.requestIdent
  try dsimp only
  repeat' first
    | assumption
    | with_reducible refine Kept.foldl _ (fun _ _ _ => ?_) _ _ ?_
    | with_reducible apply Kept.ite
    | with_reducible apply K.startRetry
    | with_reducible apply K.placeJob

theorem clearCoach (b : BayNo) (s : State) (h : P s) : P (clearCoach b s) := by
  unfold Machine.clearCoach
  try dsimp only
  repeat' first
    | assumption
    | with_reducible refine Kept.foldl _ (fun _ _ _ => ?_) _ _ ?_
    | with_reducible apply Kept.ite
    | with_reducible apply K.withdrawIdent
    | with_reducible refine K.bayField _ _ _ (fun _ => ⟨rfl, rfl⟩) ?_

theorem tearDown (b : BayNo) (s : State) (h : P s) : P (tearDown b s) := by
  unfold Machine.tearDown
  try dsimp only
  repeat' first
    | assumption
    | with_reducible refine Kept.foldl _ (fun _ _ _ => ?_) _ _ ?_
    | with_reducible apply Kept.ite
    | with_reducible apply K.clearCoach
    | with_reducible apply K.tearDownReader
    | with_reducible apply K.tearDownLamp
    | with_reducible apply K.tearDownStore
    | with_reducible apply K.setSignal
    | with_reducible apply K.tearHeating

theorem startScanning (b : BayNo) (s : State) (h : P s) : P (startScanning b s) := by
  unfold Machine.startScanning
  try dsimp only
  repeat' first
    | assumption
    | with_reducible refine Kept.foldl _ (fun _ _ _ => ?_) _ _ ?_
    | with_reducible apply Kept.ite
    | with_reducible apply K.requestFaultReading
    | with_reducible apply K.reloadScan

theorem bindBay (b : BayNo) (coach : Nat) (cls : Option (Fin 16)) (s : State) (h : P s) : P (bindBay b coach cls s) :=
  K.setConflict _ _ _ (K.setBayState _ _ _ (by decide) (by decide) (K.bayField _ _ _ (fun _ => ⟨rfl, rfl⟩) h))

theorem bindCoach (b : BayNo) (coach : Nat) (cls : Option (Fin 16)) (s : State) (h : P s) : P (bindCoach b coach cls s) := by
  unfold Machine.bindCoach
  try dsimp only
  repeat' first
    | assumption
    | with_reducible refine Kept.foldl _ (fun _ _ _ => ?_) _ _ ?_
    | with_reducible apply Kept.ite
    | with_reducible apply K.bindBay
    | with_reducible apply K.startScanning
    | with_reducible apply K.latePass
    | with_reducible apply K.requestAutoTest
    | with_reducible apply K.bindFirst

theorem identArrived (b : BayNo) (x : IdentResult) (s : State) (h : P s) : P (identArrived b x s) := by
  unfold Machine.identArrived
  try dsimp only
  repeat' first
    | assumption
    | with_reducible refine Kept.foldl _ (fun _ _ _ => ?_) _ _ ?_
    | with_reducible apply Kept.ite
    | with_reducible apply K.bindCoach
    | with_reducible apply K.startRetry
    | with_reducible apply K.setConflict
    | split

theorem leaveBook (b : BayNo) (s : State) (h : P s) : P (leaveBook b s) := by
  unfold Machine.leaveBook
  split
  · exact h
  · exact Kept.ite (K.dropPending _ _ _ (K.unbind _ _ _ h)) (K.unbind _ _ _ h)

theorem replaceCoach (b : BayNo) (s : State) (h : P s) : P (replaceCoach b s) :=
  K.setBayState _ _ _ (by decide) (by decide) (K.takeAll _ (K.tearDown _ _ (K.leaveBook _ _ h)))

theorem identUnconfirmed (b : BayNo) (x : IdentResult) (s : State) (h : P s) : P (identUnconfirmed b x s) := by
  unfold Machine.identUnconfirmed
  split
  · exact K.startRetry _ _ h
  · have h1 := K.bayField b (fun r => { r with unconfirmed := false, cls := ‹Option (Fin 16)› }) s (fun _ => ⟨rfl, rfl⟩) h
    exact Kept.ite (Kept.ite (K.leave _ _ h1) h1) (K.identArrived _ _ _ (K.replaceCoach _ _ h))

theorem takeIdent (b : BayNo) (x : IdentResult) (s : State) (h : P s) : P (takeIdent b x s) :=
  Kept.ite (Kept.ite (K.identArrived _ _ _ h) (K.identUnconfirmed _ _ _ h)) h

theorem enterEmpty (b : BayNo) (s : State) (h : P s) : P (enterEmpty b s) :=
  K.setBayState _ _ _ (by decide) (by decide) (K.setConflict _ _ _ (K.bayField _ _ _ (fun _ => ⟨rfl, rfl⟩) h))

theorem departGone (b : BayNo) (anomaly : Bool) (s : State) (h : P s) : P (departGone b anomaly s) := by
  unfold Machine.departGone
  try dsimp only
  repeat' first
    | assumption
    | with_reducible refine Kept.foldl _ (fun _ _ _ => ?_) _ _ ?_
    | with_reducible apply Kept.ite
    | with_reducible apply K.removeAndNotify
    | split

theorem takeExit (b : BayNo) (s : State) (h : P s) : P (takeExit b s) := by
  unfold Machine.takeExit
  split
  · exact h
  · exact h
  · exact K.enterEmpty _ _ (K.stopRetry _ _ (K.withdrawIdent _ _ h))
  · exact K.enterEmpty _ _ (K.takeAll _ (K.tearDown _ _ (K.leaveBook _ _ h)))
  all_goals exact K.enterEmpty _ _ (K.takeAll _ (K.tearDown _ _ (K.departGone _ _ _ h)))

theorem takeCabin (b : BayNo) (t : Option Int) (s : State) (h : P s) : P (takeCabin b t s) := by
  unfold Machine.takeCabin
  try dsimp only
  repeat' first
    | assumption
    | with_reducible refine Kept.foldl _ (fun _ _ _ => ?_) _ _ ?_
    | with_reducible apply Kept.ite
    | with_reducible refine K.bayField _ _ _ (fun _ => ⟨rfl, rfl⟩) ?_
    | split

theorem takeCurrent (b : BayNo) (present : Bool) (s : State) (h : P s) : P (takeCurrent b present s) := by
  unfold Machine.takeCurrent
  try dsimp only
  repeat' first
    | assumption
    | with_reducible refine Kept.foldl _ (fun _ _ _ => ?_) _ _ ?_
    | with_reducible apply Kept.ite
    | with_reducible apply K.checkCurrent
    | with_reducible refine K.bayField _ _ _ (fun _ => ⟨rfl, rfl⟩) ?_

theorem losePlug (b : BayNo) (s : State) (h : P s) : P (losePlug b s) := by
  unfold Machine.losePlug
  try dsimp only
  repeat' first
    | assumption
    | with_reducible refine Kept.foldl _ (fun _ _ _ => ?_) _ _ ?_
    | with_reducible apply Kept.ite
    | with_reducible apply K.failRead
    | with_reducible apply K.abortTestOn
    | with_reducible apply K.leave

theorem recordUnplug (b : BayNo) (s : State) (h : P s) : P (recordUnplug b s) := by
  unfold Machine.recordUnplug
  try dsimp only
  repeat' first
    | assumption
    | with_reducible refine Kept.foldl _ (fun _ _ _ => ?_) _ _ ?_
    | with_reducible apply Kept.ite
    | with_reducible refine K.bayField _ _ _ (fun _ => ⟨rfl, rfl⟩) ?_

omit K in
theorem updBay_self (b : BayNo) (f : Bay → Bay) (s : State) (h : f (s.bay b) = s.bay b) : s.updBay b f = s := by
  have : modifyAt s.bays b f = s.bays := by
    simp only [modifyAt]
    have h' : f s.bays[b] = s.bays[b] := h
    rw [h']
    exact Vector.set_getElem_self _
  simp [State.updBay, this]

theorem losePlugAt (b : BayNo) (s : State) (h : P s) : P (plugOut b s) ∨ (s.bay b).state = .cleared := by
  unfold Machine.plugOut
  split
  · exact .inl h
  · exact .inl h
  · exact .inl (K.setConflict _ _ _ (K.stopRetry _ _ (K.withdrawIdent _ _ h)))
  · exact .inl (K.losePlug _ _ (K.recordUnplug _ _ (K.stopRetry _ _ (K.withdrawIdent _ _ h))))
  · next hs => exact .inr hs
  · exact .inl (K.losePlug _ _ h)

/-- R7, left column, with the plug field's change. -/
theorem plugOut (b : BayNo) (s : State) (h : P s) :
    P (Machine.plugOut b (s.updBay b fun r => { r with plug := false })) := by
  by_cases hc : (s.bay b).state = .cleared
  · have h1 := K.losePlug b _ (K.stopRetry b _ (K.withdrawIdent b _ (K.plugDrawn b s hc h)))
    have he : Machine.plugOut b (s.updBay b fun r => { r with plug := false })
        = Machine.losePlug b (Machine.stopRetry b (Machine.withdrawIdent b (Machine.setBayState b .leaving
            (Machine.recordUnplug b (s.updBay b fun r => { r with plug := false }))))) := by
      unfold Machine.plugOut
      simp [hc]
    rw [he]
    exact h1
  · have h1 := K.bayPlug b false (fun r => { r with plug := false }) s (fun _ => ⟨rfl, rfl⟩) (by simp) (fun _ => hc) h
    rcases K.losePlugAt b _ h1 with h2 | h2
    · exact h2
    · exact absurd (by simpa using h2) hc

theorem gainPlugAt (b : BayNo) (s : State) (h : P s) : P (plugIn b s) ∨ (s.bay b).state = .leaving := by
  unfold Machine.plugIn
  split
  · exact .inl h
  · exact .inl h
  · exact .inl h
  · exact .inl (K.requestIdent _ _ h)
  · exact .inl (K.requestIdent _ _ (K.bayField _ _ _ (fun _ => ⟨rfl, rfl⟩) h))
  · next hs => exact .inr hs

/-- R7, right column, with the plug field's change. -/
theorem plugIn (b : BayNo) (s : State) (h : P s) :
    P (Machine.plugIn b (s.updBay b fun r => { r with plug := true })) := by
  by_cases hc : (s.bay b).state = .leaving
  · have h1 := K.plugBack b s hc h
    have he : Machine.plugIn b (s.updBay b fun r => { r with plug := true })
        = Machine.setBayState b .cleared
          ((s.updBay b fun r => { r with plug := true }).updBay b fun r => { r with cabinAtUnplug := none }) := by
      unfold Machine.plugIn
      simp [hc]
    rw [he]
    exact h1
  · have h1 := K.bayPlug b true (fun r => { r with plug := true }) s (fun _ => ⟨rfl, rfl⟩) (fun _ => hc) (by simp) h
    rcases K.gainPlugAt b _ h1 with h2 | h2
    · exact h2
    · exact absurd (by simpa using h2) hc

theorem takePlug (b : BayNo) (present : Bool) (s : State) (h : P s) : P (takePlug b present s) := by
  unfold Machine.takePlug
  dsimp only
  split
  · next hw =>
    rw [updBay_self b (fun r => { r with plug := present }) s (by rw [← hw])]
    exact h
  · cases present
    · exact K.plugOut b s h
    · exact K.plugIn b s h

theorem takeLink (b : BayNo) (up : Bool) (s : State) (h : P s) : P (takeLink b up s) := by
  unfold Machine.takeLink
  try dsimp only
  repeat' first
    | assumption
    | with_reducible refine Kept.foldl _ (fun _ _ _ => ?_) _ _ ?_
    | with_reducible apply Kept.ite
    | with_reducible apply K.requestIdent
    | with_reducible apply K.stopRetry
    | with_reducible refine K.bayField _ _ _ (fun _ => ⟨rfl, rfl⟩) ?_

theorem acceptOccupancy (b : BayNo) (occupied : Bool) (s : State) (h : P s) : P (acceptOccupancy b occupied s) := by
  have h1 := K.bayField b (fun r => { r with occupied := occupied, candidate := none }) s (fun _ => ⟨rfl, rfl⟩) h
  exact Kept.ite (Kept.ite (K.requestIdent _ _ (K.setBayState _ _ _ (by decide) (by decide) h1)) h1) (K.takeExit _ _ h1)

theorem takeOccupancy (b : BayNo) (occupied : Bool) (s : State) (h : P s) : P (takeOccupancy b occupied s) := by
  unfold Machine.takeOccupancy
  try dsimp only
  repeat' first
    | assumption
    | with_reducible refine Kept.foldl _ (fun _ _ _ => ?_) _ _ ?_
    | with_reducible apply Kept.ite
    | with_reducible apply K.acceptOccupancy
    | with_reducible refine K.bayField _ _ _ (fun _ => ⟨rfl, rfl⟩) ?_

theorem takeSense (b : BayNo) (x : SenseRecord) (s : State) (h : P s) : P (takeSense b x s) := by
  unfold Machine.takeSense
  try dsimp only
  repeat' first
    | assumption
    | with_reducible refine Kept.foldl _ (fun _ _ _ => ?_) _ _ ?_
    | with_reducible apply Kept.ite
    | with_reducible apply K.takeOccupancy
    | with_reducible apply K.takeLink
    | with_reducible apply K.takePlug
    | with_reducible apply K.takeCurrent
    | with_reducible apply K.takeCabin

theorem openBay (b : BayNo) (s : State) (h : P s) : P (openBay b s) :=
  K.setBayState _ _ _ (by decide) (by decide) (K.bayField _ _ _ (fun _ => ⟨rfl, rfl⟩) h)

/-- R16: an EMPTY bay is closed. -/
theorem closeBay (b : BayNo) (s : State) (he : (s.bay b).state = .empty) (h : P s) : P (closeBay b s) := by
  have h1 := K.withdraw (Job.isSenseFor b) s h
  have hb : ((Machine.withdraw (Job.isSenseFor b) s).bay b).state = .empty := by
    have : (Machine.withdraw (Job.isSenseFor b) s).bays = s.bays := by
      unfold Machine.withdraw Machine.discardFlying Machine.withdrawWaiting
      split <;> [split; skip; skip] <;> rfl
    simp only [State.bay, this]
    exact he
  exact K.closeHeating _ _ (K.setBayState _ _ _ (by decide) (by decide)
    (K.bayPlug b false _ _ (fun _ => ⟨rfl, rfl⟩) (by simp) (by simp [hb]) h1))

theorem restartBay (s : State) (b : BayNo) (h : P s) : P (restartBay s b) :=
  Kept.ite (K.requestIdent _ _ (K.setBayState _ _ _ (by decide) (by decide) (K.setConflict _ _ _ (K.tearDown _ _ h)))) h

end Kept
end Sys2Proof.Machine
end

