-- ==== Sys2Proof/Laws/KeptEvents.lean ====
section
/-! SUPPORT. Kept, continued: PostBus, Timed, Operands, Settings, Bookings. -/

namespace Sys2Proof.Machine
namespace Kept

variable {P : State → Prop} (K : Kept P)
include K

/-! ## PostBus -/

theorem freeWire (s : State) (h : P s) : P (freeWire s) := by
  unfold Machine.freeWire
  try dsimp only
  repeat' first
    | assumption
    | with_reducible refine Kept.foldl _ (fun _ _ _ => ?_) _ _ ?_
    | with_reducible apply Kept.ite
    | with_reducible apply K.bus

theorem restorePost (b : BayNo) (s : State) (h : P s) : P (restorePost b s) := by
  unfold Machine.restorePost
  try dsimp only
  repeat' first
    | assumption
    | with_reducible refine Kept.foldl _ (fun _ _ _ => ?_) _ _ ?_
    | with_reducible apply Kept.ite
    | with_reducible apply K.restoreSense
    | with_reducible apply K.restoreSignal
    | with_reducible apply K.restoreHeating
    | with_reducible apply K.updPost
    | with_reducible apply K.notifyBay

theorem takePageResponse (b : BayNo) (st : PostStatus) (p : PostPayload) (s : State) (h : P s) : P (takePageResponse b st p s) := by
  unfold Machine.takePageResponse
  try dsimp only
  repeat' first
    | assumption
    | with_reducible refine Kept.foldl _ (fun _ _ _ => ?_) _ _ ?_
    | with_reducible apply Kept.ite
    | with_reducible apply K.refusePage
    | with_reducible apply K.takePage
    | split

theorem handSuccess (j : Job) (st : PostStatus) (p : PostPayload) (s : State) (h : P s) : P (handSuccess j st p s) := by
  unfold Machine.handSuccess
  try dsimp only
  repeat' first
    | assumption
    | with_reducible refine Kept.foldl _ (fun _ _ _ => ?_) _ _ ?_
    | with_reducible apply Kept.ite
    | with_reducible apply K.takePageResponse
    | with_reducible apply K.restorePost
    | with_reducible apply K.takeSense
    | with_reducible apply K.takeIdent
    | with_reducible apply K.finishRelease
    | with_reducible apply K.takeReadResponse
    | with_reducible apply K.takeStepResponse
    | split

theorem clearFailures (b : BayNo) (s : State) (h : P s) : P (clearFailures b s) := by
  unfold Machine.clearFailures
  try dsimp only
  repeat' first
    | assumption
    | with_reducible refine Kept.foldl _ (fun _ _ _ => ?_) _ _ ?_
    | with_reducible apply Kept.ite
    | with_reducible apply K.updPost

theorem succeed (t : InFlight) (b : BayNo) (st : PostStatus) (p : PostPayload) (s : State) (h : P s) : P (succeed t b st p s) := by
  unfold Machine.succeed
  try dsimp only
  repeat' first
    | assumption
    | with_reducible refine Kept.foldl _ (fun _ _ _ => ?_) _ _ ?_
    | with_reducible apply Kept.ite
    | with_reducible apply K.clearFailures
    | with_reducible apply K.handSuccess
    | with_reducible apply K.freeWire

theorem handFailure (j : Job) (s : State) (h : P s) : P (handFailure j s) := by
  unfold Machine.handFailure
  try dsimp only
  repeat' first
    | assumption
    | with_reducible refine Kept.foldl _ (fun _ _ _ => ?_) _ _ ?_
    | with_reducible apply Kept.ite
    | with_reducible apply K.takeIdent
    | with_reducible apply K.failRead
    | with_reducible apply K.finishRelease
    | with_reducible apply K.failStep
    | with_reducible apply K.requestSignal
    | split

theorem failWaiting (b : BayNo) (s : State) (h : P s) : P (failWaiting b s) := by
  unfold Machine.failWaiting
  try dsimp only
  repeat' first
    | assumption
    | with_reducible refine Kept.foldl _ (fun _ _ _ => ?_) _ _ ?_
    | with_reducible apply Kept.ite
    | with_reducible apply K.handFailure
    | with_reducible apply K.withdrawWaiting

theorem declareSilent (b : BayNo) (s : State) (h : P s) : P (declareSilent b s) := by
  unfold Machine.declareSilent
  try dsimp only
  repeat' first
    | assumption
    | with_reducible refine Kept.foldl _ (fun _ _ _ => ?_) _ _ ?_
    | with_reducible apply Kept.ite
    | with_reducible apply K.failWaiting
    | with_reducible apply K.failRead
    | with_reducible apply K.abortTestOn
    | with_reducible apply K.reportToClearance
    | with_reducible apply K.silence
    | with_reducible apply K.updPost
    | with_reducible refine K.bayField _ _ _ (fun _ => ⟨rfl, rfl⟩) ?_
    | with_reducible apply K.notifyBay

theorem handFlying (s : State) (h : P s) : P (handFlying s) := by
  unfold Machine.handFlying
  try dsimp only
  repeat' first
    | assumption
    | with_reducible refine Kept.foldl _ (fun _ _ _ => ?_) _ _ ?_
    | with_reducible apply Kept.ite
    | with_reducible apply K.handFailure
    | with_reducible apply K.freeWire
    | split

theorem finalFailure (t : InFlight) (b : BayNo) (order : FailureOrder) (s : State) (h : P s) : P (finalFailure t b order s) := by
  unfold Machine.finalFailure
  try dsimp only
  repeat' first
    | assumption
    | with_reducible refine Kept.foldl _ (fun _ _ _ => ?_) _ _ ?_
    | with_reducible apply Kept.ite
    | with_reducible apply K.handFlying
    | with_reducible apply K.declareSilent
    | with_reducible apply K.freeWire
    | with_reducible apply K.updPost
    | split

theorem noGoodResponse (order : FailureOrder) (s : State) (h : P s) : P (noGoodResponse order s) := by
  unfold Machine.noGoodResponse
  try dsimp only
  repeat' first
    | assumption
    | with_reducible refine Kept.foldl _ (fun _ _ _ => ?_) _ _ ?_
    | with_reducible apply Kept.ite
    | with_reducible apply K.finalFailure
    | with_reducible apply K.bus
    | with_reducible apply K.arbitrate
    | split

theorem takeResponse (r : PostReply) (order : FailureOrder) (s : State) (h : P s) : P (takeResponse r order s) := by
  unfold Machine.takeResponse
  try dsimp only
  repeat' first
    | assumption
    | with_reducible refine Kept.foldl _ (fun _ _ _ => ?_) _ _ ?_
    | with_reducible apply Kept.ite
    | with_reducible apply K.noGoodResponse
    | with_reducible apply K.succeed
    | with_reducible apply K.arbitrate
    | split

theorem probeExpiry (b : BayNo) (s : State) (h : P s) : P (probeExpiry b s) := by
  unfold Machine.probeExpiry
  try dsimp only
  repeat' first
    | assumption
    | with_reducible refine Kept.foldl _ (fun _ _ _ => ?_) _ _ ?_
    | with_reducible apply Kept.ite
    | with_reducible apply K.arbitrate
    | with_reducible apply K.placeJob
    | with_reducible apply K.updPost
    | split

theorem grantWaiting (s : State) (h : P s) : P (grantWaiting s) := by
  unfold Machine.grantWaiting
  try dsimp only
  repeat' first
    | assumption
    | with_reducible refine Kept.foldl _ (fun _ _ _ => ?_) _ _ ?_
    | with_reducible apply Kept.ite
    | with_reducible apply K.arbitrate
    | split

theorem allOffEnd (s : State) (h : P s) : P (allOffEnd s) := by
  unfold Machine.allOffEnd
  try dsimp only
  repeat' first
    | assumption
    | with_reducible refine Kept.foldl _ (fun _ _ _ => ?_) _ _ ?_
    | with_reducible apply Kept.ite
    | with_reducible apply K.grantWaiting
    | with_reducible apply K.freeWire
    | with_reducible apply K.arbitrate
    | split

theorem idleExpiry (s : State) (h : P s) : P (idleExpiry s) := by
  unfold Machine.idleExpiry
  try dsimp only
  repeat' first
    | assumption
    | with_reducible refine Kept.foldl _ (fun _ _ _ => ?_) _ _ ?_
    | with_reducible apply Kept.ite
    | with_reducible apply K.bus
    | split

theorem quietEnd (s : State) (h : P s) : P (quietEnd s) := by
  unfold Machine.quietEnd
  try dsimp only
  repeat' first
    | assumption
    | with_reducible refine Kept.foldl _ (fun _ _ _ => ?_) _ _ ?_
    | with_reducible apply Kept.ite
    | with_reducible apply K.freeWire
    | with_reducible apply K.arbitrate
    | split

theorem senseExpiry (b : BayNo) (s : State) (h : P s) : P (senseExpiry b s) := by
  unfold Machine.senseExpiry
  try dsimp only
  repeat' first
    | assumption
    | with_reducible refine Kept.foldl _ (fun _ _ _ => ?_) _ _ ?_
    | with_reducible apply Kept.ite
    | with_reducible apply K.requestSense
    | with_reducible apply K.arbitrate
    | with_reducible refine K.bayField _ _ _ (fun _ => ⟨rfl, rfl⟩) ?_
    | split

theorem retryExpiry (b : BayNo) (s : State) (h : P s) : P (retryExpiry b s) := by
  unfold Machine.retryExpiry
  try dsimp only
  repeat' first
    | assumption
    | with_reducible refine Kept.foldl _ (fun _ _ _ => ?_) _ _ ?_
    | with_reducible apply Kept.ite
    | with_reducible apply K.requestIdent
    | with_reducible apply K.stopRetry
    | with_reducible apply K.arbitrate
    | split

/-! ## Timed -/

theorem holdReset (s : State) (h : P s) : P (holdReset s) := by
  have h1 := K.held _ (K.bus (fun u => { u with wire := .free }) _ (K.port .workshop
    (fun p => { p with receiver := .idle, gap := 0, responder := .free }) _ (K.port .dispatch
      (fun p => { p with receiver := .idle, gap := 0, responder := .free }) s h)))
  exact h1

theorem becomeOverdue (d : Departure) (minutes : Nat) (s : State) (h : P s) : P (becomeOverdue d minutes s) := by
  unfold Machine.becomeOverdue
  try dsimp only
  repeat' first
    | assumption
    | with_reducible refine Kept.foldl _ (fun _ _ _ => ?_) _ _ ?_
    | with_reducible apply Kept.ite
    | with_reducible refine K.updRecord _ _ _ (fun _ => rfl) ?_
    | with_reducible apply K.notify

theorem minuteChange (s : State) (h : P s) : P (minuteChange s) :=
  K.reorder _ (Kept.foldl _ (fun _ _ h => K.becomeOverdue _ _ _ h) _ _ (K.clock _ s h))

theorem clockTick (s : State) (h : P s) : P (clockTick s) :=
  Kept.ite h (Kept.ite (K.clock _ _ (K.clock _ s h)) (K.minuteChange _ (K.clock _ s h)))

theorem riseOverdue (ref : Nat) (s : State) (h : P s) : P (riseOverdue ref s) := by
  unfold Machine.riseOverdue
  try dsimp only
  repeat' first
    | assumption
    | with_reducible refine Kept.foldl _ (fun _ _ _ => ?_) _ _ ?_
    | with_reducible apply Kept.ite
    | with_reducible apply K.autoCancel
    | with_reducible refine K.updRecord _ _ _ (fun _ => rfl) ?_
    | with_reducible apply K.reorder
    | split

theorem settleExpiry (e : EngineNo) (s : State) (h : P s) : P (settleExpiry e s) := by
  unfold Machine.settleExpiry
  split
  · exact h
  · exact h
  · next t ht =>
    split
    · exact h
    · exact K.arbitrate _ (K.takeAll _ (K.requestRead _ _ _ _ (K.engineRun e t _ s ht rfl h)))

theorem scanExpiry (b : BayNo) (s : State) (h : P s) : P (scanExpiry b s) := by
  unfold Machine.scanExpiry
  try dsimp only
  repeat' first
    | assumption
    | with_reducible refine Kept.foldl _ (fun _ _ _ => ?_) _ _ ?_
    | with_reducible apply Kept.ite
    | with_reducible apply K.requestFaultReading
    | with_reducible apply K.reloadScan
    | with_reducible apply K.arbitrate
    | split

theorem expireDeferral (id : Nat) (s : State) (h : P s) : P (expireDeferral id s) := by
  unfold Machine.expireDeferral
  split
  · exact h
  · next b d _ =>
    split
    · exact h
    · exact h
    · have h1 := K.notifyBay .defect b _ (K.update b (·.id == id) (fun d => { d with state := .opened }) s
        (fun _ => ⟨rfl, rfl, rfl⟩) h)
      refine K.arbitrate _ ?_
      split
      · exact K.reportToClearance _ _ h1
      · exact K.leave _ _ h1
      · exact h1

theorem pendingExpiry (ref : Nat) (s : State) (h : P s) : P (pendingExpiry ref s) := by
  unfold Machine.pendingExpiry
  try dsimp only
  repeat' first
    | assumption
    | with_reducible refine Kept.foldl _ (fun _ _ _ => ?_) _ _ ?_
    | with_reducible apply Kept.ite
    | with_reducible apply K.refuse
    | split

theorem alertExpiry (b : BayNo) (s : State) (h : P s) : P (alertExpiry b s) := by
  unfold Machine.alertExpiry
  try dsimp only
  repeat' first
    | assumption
    | with_reducible refine Kept.foldl _ (fun _ _ _ => ?_) _ _ ?_
    | with_reducible apply Kept.ite
    | with_reducible apply K.setSignal
    | with_reducible apply K.clearance
    | with_reducible apply K.arbitrate
    | split

theorem raiseAges (u : TimeUnit) (s : State) (h : P s) : P (raiseAges u s) := by
  unfold Machine.raiseAges
  try dsimp only
  repeat' first
    | assumption
    | with_reducible refine Kept.foldl _ (fun _ _ _ => ?_) _ _ ?_
    | with_reducible apply Kept.ite
    | with_reducible apply K.recordAges
    | with_reducible apply K.cabinAges
    | split

/-! ## Operands -/

theorem answer (l : Link) (r : Response) (s : State) (h : P s) : P (answer l r s) := by
  unfold Machine.answer
  try dsimp only
  repeat' first
    | assumption
    | with_reducible refine Kept.foldl _ (fun _ _ _ => ?_) _ _ ?_
    | with_reducible apply Kept.ite
    | with_reducible apply K.port

theorem countOverrun (l : Link) (s : State) (h : P s) : P (countOverrun l s) := by
  unfold Machine.countOverrun
  try dsimp only
  repeat' first
    | assumption
    | with_reducible refine Kept.foldl _ (fun _ _ _ => ?_) _ _ ?_
    | with_reducible apply Kept.ite
    | with_reducible apply K.port

theorem takeFrameWith (refused : Status → Response) (l : Link) (code : Byte) (bay : Option Byte) (rule : State → State × Response)
    (s : State) (hr : ∀ s, P s → P (rule s).1) (h : P s) : P (takeFrameWith refused l code bay rule s) :=
  Kept.ite (K.countOverrun _ _ h) (Kept.ite (K.answer _ _ _ h) (Kept.ite (K.answer _ _ _ h) (K.answer _ _ _ (hr s h))))

theorem takeCommand (l : Link) (code : Byte) (bay : Option Byte) (rule : State → State × Response) (s : State)
    (hr : ∀ s, P s → P (rule s).1) (h : P s) : P (takeCommand l code bay rule s) := K.takeFrameWith _ _ _ _ _ s hr h

/-! ## Settings -/

theorem setTime (minute second : Nat) (s : State) (h : P s) : P (setTime minute second s) := K.clock _ s h

theorem judgeBook (s : State) (h : P s) : P (judgeBook s) := by
  unfold Machine.judgeBook
  try dsimp only
  repeat' first
    | assumption
    | with_reducible refine Kept.foldl _ (fun _ _ _ => ?_) _ _ ?_
    | with_reducible apply Kept.ite
    | with_reducible apply K.becomeOverdue
    | with_reducible apply K.autoCancel
    | with_reducible apply K.reorder

theorem ruleSetClock (minute : Half) (second : Byte) (s : State) (h : P s) : P (ruleSetClock minute second s).1 := by
  unfold Machine.ruleSetClock
  try dsimp only
  repeat' first
    | assumption
    | with_reducible refine Kept.foldl _ (fun _ _ _ => ?_) _ _ ?_
    | with_reducible apply Kept.ite
    | with_reducible apply K.judgeBook
    | with_reducible apply K.setTime

theorem takeSetClock (l : Link) (minute : Half) (second : Byte) (s : State) (h : P s) : P (takeSetClock l minute second s) :=
  K.takeCommand _ _ _ _ s (fun s h => K.ruleSetClock _ _ s h) h

theorem ruleSetWeather (temperature : Half) (s : State) (h : P s) : P (ruleSetWeather temperature s).1 := by
  unfold Machine.ruleSetWeather
  try dsimp only
  repeat' first
    | assumption
    | with_reducible refine Kept.foldl _ (fun _ _ _ => ?_) _ _ ?_
    | with_reducible apply Kept.ite
    | with_reducible apply K.planner

theorem takeSetWeather (l : Link) (temperature : Half) (s : State) (h : P s) : P (takeSetWeather l temperature s) :=
  K.takeCommand _ _ _ _ s (fun s h => K.ruleSetWeather _ s h) h

theorem ruleSetFeedLimits (a : FeedLimitArgs) (s : State) (h : P s) : P (ruleSetFeedLimits a s).1 := K.arbitrate _ (K.limits a s h)

theorem takeSetFeedLimits (l : Link) (a : FeedLimitArgs) (s : State) (h : P s) : P (takeSetFeedLimits l a s) :=
  K.takeCommand _ _ _ _ s (fun s h => K.ruleSetFeedLimits _ s h) h

theorem setPlannerSettings (a : PlannerArgs) (mode : Rounding) (s : State) (h : P s) : P (setPlannerSettings a mode s) := by
  unfold Machine.setPlannerSettings
  try dsimp only
  repeat' first
    | assumption
    | with_reducible refine Kept.foldl _ (fun _ _ _ => ?_) _ _ ?_
    | with_reducible apply Kept.ite
    | with_reducible apply K.planner

theorem ruleSetPlanner (a : PlannerArgs) (s : State) (h : P s) : P (ruleSetPlanner a s).1 := by
  unfold Machine.ruleSetPlanner
  try dsimp only
  repeat' first
    | assumption
    | with_reducible refine Kept.foldl _ (fun _ _ _ => ?_) _ _ ?_
    | with_reducible apply Kept.ite
    | with_reducible apply K.setPlannerSettings
    | split

theorem takeSetPlanner (l : Link) (a : PlannerArgs) (s : State) (h : P s) : P (takeSetPlanner l a s) :=
  K.takeCommand _ _ _ _ s (fun s h => K.ruleSetPlanner _ s h) h

theorem ruleSetLampFreshness (minutes : Half) (s : State) (h : P s) : P (ruleSetLampFreshness minutes s).1 := by
  unfold Machine.ruleSetLampFreshness
  try dsimp only
  repeat' first
    | assumption
    | with_reducible refine Kept.foldl _ (fun _ _ _ => ?_) _ _ ?_
    | with_reducible apply Kept.ite
    | with_reducible refine K.lampFree _ _ (fun _ => ⟨rfl, rfl⟩) ?_

theorem takeSetLampFreshness (l : Link) (minutes : Half) (s : State) (h : P s) : P (takeSetLampFreshness l minutes s) :=
  K.takeCommand _ _ _ _ s (fun s h => K.ruleSetLampFreshness _ s h) h

theorem ruleSetClearanceWindow (minutes : Byte) (s : State) (h : P s) : P (ruleSetClearanceWindow minutes s).1 := by
  unfold Machine.ruleSetClearanceWindow
  try dsimp only
  repeat' first
    | assumption
    | with_reducible refine Kept.foldl _ (fun _ _ _ => ?_) _ _ ?_
    | with_reducible apply Kept.ite
    | with_reducible apply K.clearance

theorem takeSetClearanceWindow (l : Link) (minutes : Byte) (s : State) (h : P s) : P (takeSetClearanceWindow l minutes s) :=
  K.takeCommand _ _ _ _ s (fun s h => K.ruleSetClearanceWindow _ s h) h

theorem ruleSetScanPeriod (minutes : Byte) (s : State) (h : P s) : P (ruleSetScanPeriod minutes s).1 := by
  unfold Machine.ruleSetScanPeriod
  try dsimp only
  repeat' first
    | assumption
    | with_reducible refine Kept.foldl _ (fun _ _ _ => ?_) _ _ ?_
    | with_reducible apply Kept.ite
    | with_reducible apply K.reader

theorem takeSetScanPeriod (l : Link) (minutes : Byte) (s : State) (h : P s) : P (takeSetScanPeriod l minutes s) :=
  K.takeCommand _ _ _ _ s (fun s h => K.ruleSetScanPeriod _ s h) h

theorem ruleSetNoticeMask (l : Link) (kinds : Byte) (s : State) (h : P s) : P (ruleSetNoticeMask l kinds s).1 := by
  unfold Machine.ruleSetNoticeMask
  try dsimp only
  repeat' first
    | assumption
    | with_reducible refine Kept.foldl _ (fun _ _ _ => ?_) _ _ ?_
    | with_reducible apply Kept.ite
    | with_reducible apply K.port

theorem takeSetNoticeMask (l : Link) (kinds : Byte) (s : State) (h : P s) : P (takeSetNoticeMask l kinds s) :=
  K.takeCommand _ _ _ _ s (fun s h => K.ruleSetNoticeMask _ _ s h) h

theorem ruleSetPlannerEnables (l : Link) (causes : Byte) (s : State) (h : P s) : P (ruleSetPlannerEnables l causes s).1 := by
  unfold Machine.ruleSetPlannerEnables
  try dsimp only
  repeat' first
    | assumption
    | with_reducible refine Kept.foldl _ (fun _ _ _ => ?_) _ _ ?_
    | with_reducible apply Kept.ite
    | with_reducible apply K.port
    | split

theorem takeSetPlannerEnables (l : Link) (causes : Byte) (s : State) (h : P s) : P (takeSetPlannerEnables l causes s) :=
  K.takeCommand _ _ _ _ s (fun s h => K.ruleSetPlannerEnables _ _ s h) h

theorem ruleClearPlannerFlags (s : State) (h : P s) : P (ruleClearPlannerFlags s).1 := by
  unfold Machine.ruleClearPlannerFlags
  try dsimp only
  repeat' first
    | assumption
    | with_reducible refine Kept.foldl _ (fun _ _ _ => ?_) _ _ ?_
    | with_reducible apply Kept.ite
    | with_reducible apply K.planner

theorem takeClearPlannerFlags (l : Link) (s : State) (h : P s) : P (takeClearPlannerFlags l s) :=
  K.takeCommand _ _ _ _ s (fun s h => K.ruleClearPlannerFlags s h) h

/-! ## Bookings -/

theorem ruleBook (a : BookArgs) (s : State) (h : P s) : P (ruleBook a s).1 := by
  unfold Machine.ruleBook
  split
  · exact h
  · rename_i hr
    exact K.bindRecord _ _ (K.addRecord a s hr h)

theorem takeBook (l : Link) (a : BookArgs) (s : State) (h : P s) : P (takeBook l a s) :=
  K.takeCommand _ _ _ _ s (fun s h => K.ruleBook _ s h) h

theorem ruleAmend (a : AmendArgs) (s : State) (h : P s) : P (ruleAmend a s).1 := by
  unfold Machine.ruleAmend
  try dsimp only
  repeat' first
    | assumption
    | with_reducible refine Kept.foldl _ (fun _ _ _ => ?_) _ _ ?_
    | with_reducible apply Kept.ite
    | with_reducible refine K.updRecord _ _ _ (fun _ => rfl) ?_
    | with_reducible apply K.reorder
    | split

theorem takeAmend (l : Link) (a : AmendArgs) (s : State) (h : P s) : P (takeAmend l a s) :=
  K.takeCommand _ _ _ _ s (fun s h => K.ruleAmend _ s h) h

theorem ruleAssignCoach (ref : Half) (coach : Half) (s : State) (h : P s) : P (ruleAssignCoach ref coach s).1 := by
  unfold Machine.ruleAssignCoach
  try dsimp only
  repeat' first
    | assumption
    | with_reducible refine Kept.foldl _ (fun _ _ _ => ?_) _ _ ?_
    | with_reducible apply Kept.ite
    | with_reducible apply K.bindRecord
    | with_reducible refine K.updRecord _ _ _ (fun _ => rfl) ?_
    | split

theorem takeAssignCoach (l : Link) (ref : Half) (coach : Half) (s : State) (h : P s) : P (takeAssignCoach l ref coach s) :=
  K.takeCommand _ _ _ _ s (fun s h => K.ruleAssignCoach _ _ s h) h

theorem ruleCancel (ref : Half) (s : State) (h : P s) : P (ruleCancel ref s).1 := by
  unfold Machine.ruleCancel
  try dsimp only
  repeat' first
    | assumption
    | with_reducible refine Kept.foldl _ (fun _ _ _ => ?_) _ _ ?_
    | with_reducible apply Kept.ite
    | with_reducible apply K.cancelRecord
    | with_reducible apply K.arbitrate
    | split

theorem takeCancel (l : Link) (ref : Half) (s : State) (h : P s) : P (takeCancel l ref s) :=
  K.takeCommand _ _ _ _ s (fun s h => K.ruleCancel _ s h) h

theorem takeReadDepartureLog (l : Link) (index : Byte) (s : State) (h : P s) : P (takeReadDepartureLog l index s) := K.takeCommand _ _ _ _ s (fun _ h => h) h

theorem takeReadDeparture (l : Link) (sel : DepartureSelector) (s : State) (h : P s) : P (takeReadDeparture l sel s) := K.takeCommand _ _ _ _ s (fun _ h => h) h

end Kept
end Sys2Proof.Machine
end

