-- ==== Sys2Proof/Laws/KeptCommands.lean ====
section
/-! SUPPORT. Kept, continued: ClearanceCommands, Workshop, Reads, Depot, Links, TimeBase. -/

namespace Sys2Proof.Machine
namespace Kept

variable {P : State → Prop} (K : Kept P)
include K

/-! ## ClearanceCommands -/

theorem createPending (ref : Nat) (b : BayNo) (cold : Bool) (s : State) (h : P s) : P (createPending ref b cold s) := by
  unfold Machine.createPending
  try dsimp only
  repeat' first
    | assumption
    | with_reducible refine Kept.foldl _ (fun _ _ _ => ?_) _ _ ?_
    | with_reducible apply Kept.ite
    | with_reducible apply K.notifyBay
    | with_reducible apply K.clearance
    | with_reducible refine K.updRecord _ _ _ (fun _ => rfl) ?_

theorem askTest (ref : Nat) (b : BayNo) (rs : ReasonSet) (s : State) (h : P s) : P (askTest ref b rs s) := by
  unfold Machine.askTest
  try dsimp only
  repeat' first
    | assumption
    | with_reducible refine Kept.foldl _ (fun _ _ _ => ?_) _ _ ?_
    | with_reducible apply Kept.ite
    | with_reducible apply K.requestTest
    | with_reducible apply K.refuse

theorem askRead (ref : Nat) (b : BayNo) (rs : ReasonSet) (s : State) (h : P s) : P (askRead ref b rs s) := by
  unfold Machine.askRead
  try dsimp only
  repeat' first
    | assumption
    | with_reducible refine Kept.foldl _ (fun _ _ _ => ?_) _ _ ?_
    | with_reducible apply Kept.ite
    | with_reducible apply K.requestFaultReading

theorem decideRequest (ref : Nat) (b : BayNo) (cold : Bool) (rs : ReasonSet) (free : ReasonSet) (s : State) (h : P s) : P (decideRequest ref b cold rs free s).1 := by
  unfold Machine.decideRequest
  try dsimp only
  repeat' first
    | assumption
    | with_reducible refine Kept.foldl _ (fun _ _ _ => ?_) _ _ ?_
    | with_reducible apply Kept.ite
    | with_reducible apply K.askRead
    | with_reducible apply K.askTest
    | with_reducible apply K.createPending
    | with_reducible apply K.refuse
    | with_reducible apply K.grant
    | with_reducible apply K.arbitrate
    | split

theorem refuseUnbound (s : State) (h : P s) : P (refuseUnbound s).1 := by
  unfold Machine.refuseUnbound
  try dsimp only
  repeat' first
    | assumption
    | with_reducible refine Kept.foldl _ (fun _ _ _ => ?_) _ _ ?_
    | with_reducible apply Kept.ite
    | with_reducible apply K.notify

theorem mergeRequest (ref : Nat) (cold : Bool) (s : State) (h : P s) : P (mergeRequest ref cold s) := by
  unfold Machine.mergeRequest
  try dsimp only
  repeat' first
    | assumption
    | with_reducible refine Kept.foldl _ (fun _ _ _ => ?_) _ _ ?_
    | with_reducible apply Kept.ite
    | with_reducible apply K.clearance

theorem ruleRequestClearance (ref : Nat) (cold : Bool) (free : ReasonSet) (s : State) (h : P s) : P (ruleRequestClearance ref cold free s).1 := by
  unfold Machine.ruleRequestClearance
  try dsimp only
  repeat' first
    | assumption
    | with_reducible refine Kept.foldl _ (fun _ _ _ => ?_) _ _ ?_
    | with_reducible apply Kept.ite
    | with_reducible apply K.mergeRequest
    | with_reducible apply K.refuseUnbound
    | with_reducible apply K.decideRequest
    | split

theorem withFreeReasons (f : ReasonSet → State → State) (s : State) (hf : ∀ r s, P s → P (f r s)) (h : P s) :
    P (withFreeReasons f s) := hf _ _ (K.choices _ s h)

theorem takeRequestClearance (l : Link) (ref : Half) (cold : Bool) (s : State) (h : P s) : P (takeRequestClearance l ref cold s) :=
  K.withFreeReasons _ _ (fun _ s h => K.takeFrameWith _ _ _ _ _ s (fun s h => K.ruleRequestClearance _ _ _ s h) h) h

theorem ruleWithdrawClearance (ref : Half) (s : State) (h : P s) : P (ruleWithdrawClearance ref s).1 := by
  unfold Machine.ruleWithdrawClearance
  try dsimp only
  repeat' first
    | assumption
    | with_reducible refine Kept.foldl _ (fun _ _ _ => ?_) _ _ ?_
    | with_reducible apply Kept.ite
    | with_reducible apply K.revoke
    | with_reducible apply K.refuse
    | with_reducible apply K.arbitrate
    | split

theorem takeWithdrawClearance (l : Link) (ref : Half) (s : State) (h : P s) : P (takeWithdrawClearance l ref s) :=
  K.takeCommand _ _ _ _ s (fun s h => K.ruleWithdrawClearance _ s h) h

/-! ## Workshop -/

theorem ruleOpenBay (b : BayNo) (s : State) (h : P s) : P (ruleOpenBay b s).1 := by
  unfold Machine.ruleOpenBay
  try dsimp only
  repeat' first
    | assumption
    | with_reducible refine Kept.foldl _ (fun _ _ _ => ?_) _ _ ?_
    | with_reducible apply Kept.ite
    | with_reducible apply K.openBay
    | split

theorem takeOpenBay (l : Link) (bay : Byte) (s : State) (h : P s) : P (takeOpenBay l bay s) :=
  K.takeCommand _ _ _ _ s (fun s h => K.ruleOpenBay _ s h) h

theorem ruleCloseBay (b : BayNo) (s : State) (h : P s) : P (ruleCloseBay b s).1 := by
  unfold Machine.ruleCloseBay
  try dsimp only
  repeat' first
    | assumption
    | with_reducible refine Kept.foldl _ (fun _ _ _ => ?_) _ _ ?_
    | with_reducible apply Kept.ite
    | with_reducible apply K.closeBay
    | split

theorem takeCloseBay (l : Link) (bay : Byte) (s : State) (h : P s) : P (takeCloseBay l bay s) :=
  K.takeCommand _ _ _ _ s (fun s h => K.ruleCloseBay _ s h) h

theorem placeHold (b : BayNo) (s : State) (h : P s) : P (placeHold b s) := by
  unfold Machine.placeHold
  try dsimp only
  repeat' first
    | assumption
    | with_reducible refine Kept.foldl _ (fun _ _ _ => ?_) _ _ ?_
    | with_reducible apply Kept.ite
    | with_reducible apply K.reportToClearance
    | with_reducible apply K.leave
    | with_reducible apply K.arbitrate
    | with_reducible apply K.setHold

theorem ruleHold (b : BayNo) (s : State) (h : P s) : P (ruleHold b s).1 := by
  unfold Machine.ruleHold
  try dsimp only
  repeat' first
    | assumption
    | with_reducible refine Kept.foldl _ (fun _ _ _ => ?_) _ _ ?_
    | with_reducible apply Kept.ite
    | with_reducible apply K.placeHold
    | split

theorem takeHold (l : Link) (bay : Byte) (s : State) (h : P s) : P (takeHold l bay s) :=
  K.takeCommand _ _ _ _ s (fun s h => K.ruleHold _ s h) h

theorem ruleUnhold (b : BayNo) (s : State) (h : P s) : P (ruleUnhold b s).1 := by
  unfold Machine.ruleUnhold
  try dsimp only
  repeat' first
    | assumption
    | with_reducible refine Kept.foldl _ (fun _ _ _ => ?_) _ _ ?_
    | with_reducible apply Kept.ite
    | with_reducible apply K.setHold
    | split

theorem takeUnhold (l : Link) (bay : Byte) (s : State) (h : P s) : P (takeUnhold l bay s) :=
  K.takeCommand _ _ _ _ s (fun s h => K.ruleUnhold _ s h) h

theorem setFeeder (b : BayNo) (f : Fin 4) (s : State) (h : P s) : P (setFeeder b f s) := by
  unfold Machine.setFeeder
  try dsimp only
  repeat' first
    | assumption
    | with_reducible refine Kept.foldl _ (fun _ _ _ => ?_) _ _ ?_
    | with_reducible apply Kept.ite
    | with_reducible refine K.bayField _ _ _ (fun _ => ⟨rfl, rfl⟩) ?_
    | with_reducible apply K.notifyBay

theorem ruleAssignFeeder (b : BayNo) (feeder : Byte) (s : State) (h : P s) : P (ruleAssignFeeder b feeder s).1 := by
  unfold Machine.ruleAssignFeeder
  try dsimp only
  repeat' first
    | assumption
    | with_reducible refine Kept.foldl _ (fun _ _ _ => ?_) _ _ ?_
    | with_reducible apply Kept.ite
    | with_reducible apply K.setFeeder
    | split

theorem takeAssignFeeder (l : Link) (bay : Byte) (feeder : Byte) (s : State) (h : P s) : P (takeAssignFeeder l bay feeder s) :=
  K.takeCommand _ _ _ _ s (fun s h => K.ruleAssignFeeder _ _ s h) h

theorem setClass (c : Fin 16) (r : Option ClassRecord) (s : State) (h : P s) : P (setClass c r s) := K.classes _ s h

theorem ruleWriteClass (a : ClassArgs) (s : State) (h : P s) : P (ruleWriteClass a s).1 := by
  unfold Machine.ruleWriteClass
  try dsimp only
  repeat' first
    | assumption
    | with_reducible refine Kept.foldl _ (fun _ _ _ => ?_) _ _ ?_
    | with_reducible apply Kept.ite
    | with_reducible apply K.setClass
    | split

theorem takeWriteClass (l : Link) (a : ClassArgs) (s : State) (h : P s) : P (takeWriteClass l a s) :=
  K.takeCommand _ _ _ _ s (fun s h => K.ruleWriteClass _ s h) h

theorem dropClass (c : Fin 16) (s : State) (h : P s) : P (dropClass c s) := by
  unfold Machine.dropClass
  try dsimp only
  repeat' first
    | assumption
    | with_reducible refine Kept.foldl _ (fun _ _ _ => ?_) _ _ ?_
    | with_reducible apply Kept.ite
    | with_reducible apply K.leave

theorem ruleClassRemove (cls : Byte) (s : State) (h : P s) : P (ruleClassRemove cls s).1 := by
  unfold Machine.ruleClassRemove
  try dsimp only
  repeat' first
    | assumption
    | with_reducible refine Kept.foldl _ (fun _ _ _ => ?_) _ _ ?_
    | with_reducible apply Kept.ite
    | with_reducible apply K.dropClass
    | with_reducible apply K.setClass
    | with_reducible apply K.arbitrate
    | split

theorem takeClassRemove (l : Link) (cls : Byte) (s : State) (h : P s) : P (takeClassRemove l cls s) :=
  K.takeCommand _ _ _ _ s (fun s h => K.ruleClassRemove _ s h) h

theorem setRule (i : Fin 32) (r : Option Rule) (s : State) (h : P s) : P (setRule i r s) := by
  unfold Machine.setRule
  try dsimp only
  repeat' first
    | assumption
    | with_reducible refine Kept.foldl _ (fun _ _ _ => ?_) _ _ ?_
    | with_reducible apply Kept.ite
    | with_reducible apply K.reader

theorem ruleWriteRule (index : Byte) (a : RuleArgs) (s : State) (h : P s) : P (ruleWriteRule index a s).1 := by
  unfold Machine.ruleWriteRule
  try dsimp only
  repeat' first
    | assumption
    | with_reducible refine Kept.foldl _ (fun _ _ _ => ?_) _ _ ?_
    | with_reducible apply Kept.ite
    | with_reducible apply K.setRule
    | split

theorem takeWriteRule (l : Link) (index : Byte) (a : RuleArgs) (s : State) (h : P s) : P (takeWriteRule l index a s) :=
  K.takeCommand _ _ _ _ s (fun s h => K.ruleWriteRule _ _ s h) h

theorem rulePin (b : BayNo) (s : State) (h : P s) : P (rulePin b s).1 := by
  unfold Machine.rulePin
  split
  · exact h
  · split
    · exact h
    · next hn => exact K.pin b s (by simp [pinRoom] at hn; omega) (by simp [chainRoom] at hn; omega) h

theorem takePin (l : Link) (bay : Byte) (s : State) (h : P s) : P (takePin l bay s) :=
  K.takeCommand _ _ _ _ s (fun s h => K.rulePin _ s h) h

theorem ruleUnpin (position : Byte) (s : State) (h : P s) : P (ruleUnpin position s).1 := by
  unfold Machine.ruleUnpin
  split
  · exact h
  · exact K.unpin _ s h

theorem takeUnpin (l : Link) (position : Byte) (s : State) (h : P s) : P (takeUnpin l position s) :=
  K.takeCommand _ _ _ _ s (fun s h => K.ruleUnpin _ s h) h

theorem changeDefect (b : BayNo) (id : Nat) (f : Defect → Defect) (s : State)
    (hf : ∀ d, (f d).slot = d.slot ∧ (f d).source = d.source ∧ (f d).code = d.code) (h : P s) : P (changeDefect b id f s) :=
  K.notifyBay _ _ _ (K.update _ _ _ _ hf h)

theorem ruleAcknowledge (id : Half) (s : State) (h : P s) : P (ruleAcknowledge id s).1 := by
  unfold Machine.ruleAcknowledge
  split
  · exact h
  · split
    · exact K.changeDefect _ _ _ s (fun _ => ⟨rfl, rfl, rfl⟩) h
    · exact h
    · exact h

theorem takeAcknowledge (l : Link) (id : Half) (s : State) (h : P s) : P (takeAcknowledge l id s) :=
  K.takeCommand _ _ _ _ s (fun s h => K.ruleAcknowledge _ s h) h

theorem ruleDefer (id minutes : Half) (s : State) (h : P s) : P (ruleDefer id minutes s).1 := by
  unfold Machine.ruleDefer
  split
  · exact h
  · exact K.changeDefect _ _ _ s (fun _ => ⟨rfl, rfl, rfl⟩) h

theorem takeDefer (l : Link) (id : Half) (minutes : Half) (s : State) (h : P s) : P (takeDefer l id minutes s) :=
  K.takeCommand _ _ _ _ s (fun s h => K.ruleDefer _ _ s h) h

theorem ruleCloseDefect (id : Half) (s : State) (h : P s) : P (ruleCloseDefect id s).1 := by
  unfold Machine.ruleCloseDefect
  split
  · exact h
  · split
    · exact K.notifyBay _ _ _ (K.remove _ _ s h)
    · exact h

theorem takeCloseDefect (l : Link) (id : Half) (s : State) (h : P s) : P (takeCloseDefect l id s) :=
  K.takeCommand _ _ _ _ s (fun s h => K.ruleCloseDefect _ s h) h

theorem reportManual (b : BayNo) (x : Action) (s : State) (h : P s) : P (reportManual b x s) := by
  unfold Machine.reportManual
  try dsimp only
  repeat' first
    | assumption
    | with_reducible refine Kept.foldl _ (fun _ _ _ => ?_) _ _ ?_
    | with_reducible apply Kept.ite
    | with_reducible apply K.reportToClearance
    | with_reducible apply K.leave
    | with_reducible apply K.notifyBay
    | split

theorem ruleEnterDefect (b : BayNo) (code : Half) (action : Byte) (s : State) (h : P s) :
    P (ruleEnterDefect b code action s).1 := by
  unfold Machine.ruleEnterDefect
  split
  · exact h
  split
  · exact h
  split
  · exact h
  split
  · exact h
  · next hm _ _ hc => exact K.arbitrate _ (K.reportManual _ _ _ (K.manual b _ _ _ s (by simpa using hm) hc h))

theorem takeEnterDefect (l : Link) (bay : Byte) (code : Half) (action : Byte) (s : State) (h : P s) : P (takeEnterDefect l bay code action s) :=
  K.takeCommand _ _ _ _ s (fun s h => K.ruleEnterDefect _ _ _ s h) h

theorem abortQueued (b : BayNo) (s : State) (h : P s) : P (abortQueued b s) :=
  K.endTest _ _ (K.writeResult _ _ _ _ (K.dequeue b s h))

theorem ruleAbortLampTest (b : BayNo) (s : State) (h : P s) : P (ruleAbortLampTest b s).1 := by
  unfold Machine.ruleAbortLampTest
  try dsimp only
  repeat' first
    | assumption
    | with_reducible refine Kept.foldl _ (fun _ _ _ => ?_) _ _ ?_
    | with_reducible apply Kept.ite
    | with_reducible apply K.abortQueued
    | with_reducible apply K.takeAll
    | with_reducible apply K.abortTest
    | with_reducible apply K.arbitrate
    | split

theorem takeAbortLampTest (l : Link) (bay : Byte) (s : State) (h : P s) : P (takeAbortLampTest l bay s) :=
  K.takeCommand _ _ _ _ s (fun s h => K.ruleAbortLampTest _ s h) h

/-! ## Reads -/

theorem takeReadStatus (l : Link) (s : State) (h : P s) : P (takeReadStatus l s) := K.takeCommand _ _ _ _ s (fun _ h => h) h

theorem takeReadBay (l : Link) (bay : Byte) (s : State) (h : P s) : P (takeReadBay l bay s) := K.takeCommand _ _ _ _ s (fun _ h => h) h

theorem takeReadDefects (l : Link) (bay : Byte) (position : Byte) (s : State) (h : P s) : P (takeReadDefects l bay position s) := K.takeCommand _ _ _ _ s (fun _ h => h) h

theorem takeReadLampResult (l : Link) (bay : Byte) (s : State) (h : P s) : P (takeReadLampResult l bay s) := K.takeCommand _ _ _ _ s (fun _ h => h) h

theorem takeReadChain (l : Link) (sel : ChainSelector) (s : State) (h : P s) : P (takeReadChain l sel s) := K.takeCommand _ _ _ _ s (fun _ h => h) h

theorem takeReadClass (l : Link) (cls : Byte) (s : State) (h : P s) : P (takeReadClass l cls s) := K.takeCommand _ _ _ _ s (fun _ h => h) h

theorem takeReadRule (l : Link) (index : Byte) (s : State) (h : P s) : P (takeReadRule l index s) := K.takeCommand _ _ _ _ s (fun _ h => h) h

theorem ruleRequestLampTest (b : BayNo) (s : State) (h : P s) : P (ruleRequestLampTest b s).1 := by
  unfold Machine.ruleRequestLampTest
  try dsimp only
  repeat' first
    | assumption
    | with_reducible refine Kept.foldl _ (fun _ _ _ => ?_) _ _ ?_
    | with_reducible apply Kept.ite
    | with_reducible apply K.requestTest
    | with_reducible apply K.arbitrate

theorem takeRequestLampTest (l : Link) (bay : Byte) (s : State) (h : P s) : P (takeRequestLampTest l bay s) :=
  K.takeCommand _ _ _ _ s (fun s h => K.ruleRequestLampTest _ s h) h

theorem ruleRequestFaultRead (b : BayNo) (s : State) (h : P s) : P (ruleRequestFaultRead b s).1 := by
  unfold Machine.ruleRequestFaultRead
  try dsimp only
  repeat' first
    | assumption
    | with_reducible refine Kept.foldl _ (fun _ _ _ => ?_) _ _ ?_
    | with_reducible apply Kept.ite
    | with_reducible apply K.requestFaultReading
    | with_reducible apply K.arbitrate

theorem takeRequestFaultRead (l : Link) (bay : Byte) (s : State) (h : P s) : P (takeRequestFaultRead l bay s) :=
  K.takeCommand _ _ _ _ s (fun s h => K.ruleRequestFaultRead _ s h) h

theorem ruleReadNotices (l : Link) (s : State) (h : P s) : P (ruleReadNotices l s).1 := by
  unfold Machine.ruleReadNotices
  try dsimp only
  repeat' first
    | assumption
    | with_reducible refine Kept.foldl _ (fun _ _ _ => ?_) _ _ ?_
    | with_reducible apply Kept.ite
    | with_reducible apply K.port

theorem takeReadNotices (l : Link) (s : State) (h : P s) : P (takeReadNotices l s) :=
  K.takeCommand _ _ _ _ s (fun s h => K.ruleReadNotices _ s h) h

/-! ## Depot -/

theorem restartBook (s : State) (h : P s) : P (restartBook s) := by
  unfold Machine.restartBook
  try dsimp only
  repeat' first
    | assumption
    | with_reducible refine Kept.foldl _ (fun _ _ _ => ?_) _ _ ?_
    | with_reducible apply Kept.ite
    | with_reducible apply K.removeRecord
    | with_reducible apply K.bookNumber
    | with_reducible apply K.notify

theorem restartPending (s : State) (h : P s) : P (restartPending s) := by
  unfold Machine.restartPending
  try dsimp only
  repeat' first
    | assumption
    | with_reducible refine Kept.foldl _ (fun _ _ _ => ?_) _ _ ?_
    | with_reducible apply Kept.ite
    | with_reducible apply K.clearance
    | with_reducible apply K.notify

theorem placeAllOff (s : State) (h : P s) : P (placeAllOff s) := by
  unfold Machine.placeAllOff
  try dsimp only
  repeat' first
    | assumption
    | with_reducible refine Kept.foldl _ (fun _ _ _ => ?_) _ _ ?_
    | with_reducible apply Kept.ite
    | with_reducible apply K.placeJob

theorem restart (s : State) (h : P s) : P (restart s) := by
  unfold Machine.restart
  try dsimp only
  repeat' first
    | assumption
    | with_reducible refine Kept.foldl _ (fun _ _ _ => ?_) _ _ ?_
    | with_reducible apply Kept.ite
    | with_reducible apply K.placeAllOff
    | with_reducible apply K.restartPending
    | with_reducible apply K.restartBook
    | with_reducible apply K.restartBay
    | with_reducible apply K.restartHeating
    | with_reducible apply K.restartPlanner
    | with_reducible apply K.takeAll
    | with_reducible apply K.restartStore
    | with_reducible apply K.arbitrate
    | with_reducible apply K.withdrawWaiting

theorem ruleDepotRestart (s : State) (h : P s) : P (ruleDepotRestart s).1 := by
  unfold Machine.ruleDepotRestart
  try dsimp only
  repeat' first
    | assumption
    | with_reducible refine Kept.foldl _ (fun _ _ _ => ?_) _ _ ?_
    | with_reducible apply Kept.ite
    | with_reducible apply K.restart

theorem takeDepotRestart (l : Link) (s : State) (h : P s) : P (takeDepotRestart l s) :=
  K.takeCommand _ _ _ _ s (fun s h => K.ruleDepotRestart s h) h

/-! ## Links -/

theorem runCommand (c : Instr) (s : State) (h : P s) : P (runCommand c s) := by
  unfold Machine.runCommand
  try dsimp only
  repeat' first
    | assumption
    | with_reducible refine Kept.foldl _ (fun _ _ _ => ?_) _ _ ?_
    | with_reducible apply Kept.ite
    | with_reducible apply K.takeDepotRestart
    | with_reducible apply K.takeReadNotices
    | with_reducible apply K.takeRequestFaultRead
    | with_reducible apply K.takeRequestLampTest
    | with_reducible apply K.takeReadRule
    | with_reducible apply K.takeReadClass
    | with_reducible apply K.takeReadChain
    | with_reducible apply K.takeReadLampResult
    | with_reducible apply K.takeReadDefects
    | with_reducible apply K.takeReadBay
    | with_reducible apply K.takeReadStatus
    | with_reducible apply K.takeAbortLampTest
    | with_reducible apply K.takeEnterDefect
    | with_reducible apply K.takeCloseDefect
    | with_reducible apply K.takeDefer
    | with_reducible apply K.takeAcknowledge
    | with_reducible apply K.takeUnpin
    | with_reducible apply K.takePin
    | with_reducible apply K.takeWriteRule
    | with_reducible apply K.takeClassRemove
    | with_reducible apply K.takeWriteClass
    | with_reducible apply K.takeAssignFeeder
    | with_reducible apply K.takeUnhold
    | with_reducible apply K.takeHold
    | with_reducible apply K.takeCloseBay
    | with_reducible apply K.takeOpenBay
    | with_reducible apply K.takeWithdrawClearance
    | with_reducible apply K.takeRequestClearance
    | with_reducible apply K.takeReadDeparture
    | with_reducible apply K.takeReadDepartureLog
    | with_reducible apply K.takeCancel
    | with_reducible apply K.takeAssignCoach
    | with_reducible apply K.takeAmend
    | with_reducible apply K.takeBook
    | with_reducible apply K.takeClearPlannerFlags
    | with_reducible apply K.takeSetPlannerEnables
    | with_reducible apply K.takeSetNoticeMask
    | with_reducible apply K.takeSetScanPeriod
    | with_reducible apply K.takeSetClearanceWindow
    | with_reducible apply K.takeSetLampFreshness
    | with_reducible apply K.takeSetPlanner
    | with_reducible apply K.takeSetFeedLimits
    | with_reducible apply K.takeSetWeather
    | with_reducible apply K.takeSetClock
    | with_reducible apply K.closeBay
    | with_reducible apply K.openBay
    | split

theorem refuseFrame (l : Link) (code : Byte) (payload : List Byte) (st : Status) (s : State) (h : P s) :
    P (refuseFrame l code payload st s) :=
  Kept.ite (K.withFreeReasons _ _ (fun _ _ h => K.answer _ _ _ h) h) (K.answer _ _ _ h)

theorem takeFrame (l : Link) (code : Byte) (payload : List Byte) (s : State) (h : P s) : P (takeFrame l code payload s) := by
  unfold Machine.takeFrame
  try dsimp only
  repeat' first
    | assumption
    | with_reducible refine Kept.foldl _ (fun _ _ _ => ?_) _ _ ?_
    | with_reducible apply Kept.ite
    | with_reducible apply K.refuseFrame
    | with_reducible apply K.runCommand
    | with_reducible apply K.answer
    | split

theorem setReceiver (l : Link) (r : Receiver) (s : State) (h : P s) : P (setReceiver l r s) := by
  unfold Machine.setReceiver
  try dsimp only
  repeat' first
    | assumption
    | with_reducible refine Kept.foldl _ (fun _ _ _ => ?_) _ _ ?_
    | with_reducible apply Kept.ite
    | with_reducible apply K.port

theorem discardFrame (l : Link) (s : State) (h : P s) : P (discardFrame l s) := by
  unfold Machine.discardFrame
  try dsimp only
  repeat' first
    | assumption
    | with_reducible refine Kept.foldl _ (fun _ _ _ => ?_) _ _ ?_
    | with_reducible apply Kept.ite
    | with_reducible apply K.setReceiver
    | with_reducible apply K.port

theorem startOverrun (l : Link) (s : State) (h : P s) : P (startOverrun l s) := by
  unfold Machine.startOverrun
  try dsimp only
  repeat' first
    | assumption
    | with_reducible refine Kept.foldl _ (fun _ _ _ => ?_) _ _ ?_
    | with_reducible apply Kept.ite
    | with_reducible apply K.setReceiver
    | with_reducible apply K.countOverrun

theorem completeFrame (l : Link) (bytes : List Byte) (s : State) (h : P s) : P (completeFrame l bytes s) := by
  unfold Machine.completeFrame
  try dsimp only
  repeat' first
    | assumption
    | with_reducible refine Kept.foldl _ (fun _ _ _ => ?_) _ _ ?_
    | with_reducible apply Kept.ite
    | with_reducible apply K.discardFrame
    | with_reducible apply K.setReceiver
    | with_reducible apply K.takeFrame
    | split

theorem receiveNext (l : Link) (bytes : List Byte) (s : State) (h : P s) : P (receiveNext l bytes s) := by
  unfold Machine.receiveNext
  try dsimp only
  repeat' first
    | assumption
    | with_reducible refine Kept.foldl _ (fun _ _ _ => ?_) _ _ ?_
    | with_reducible apply Kept.ite
    | with_reducible apply K.completeFrame
    | with_reducible apply K.discardFrame
    | with_reducible apply K.setReceiver
    | split

theorem skipNext (l : Link) (left : Option Nat) (byte : Byte) (s : State) (h : P s) : P (skipNext l left byte s) := by
  unfold Machine.skipNext
  try dsimp only
  repeat' first
    | assumption
    | with_reducible refine Kept.foldl _ (fun _ _ _ => ?_) _ _ ?_
    | with_reducible apply Kept.ite
    | with_reducible apply K.setReceiver
    | split

theorem receiveByte (l : Link) (byte : Byte) (stopGood : Bool) (s : State) (h : P s) : P (receiveByte l byte stopGood s) := by
  unfold Machine.receiveByte
  try dsimp only
  repeat' first
    | assumption
    | with_reducible refine Kept.foldl _ (fun _ _ _ => ?_) _ _ ?_
    | with_reducible apply Kept.ite
    | with_reducible apply K.skipNext
    | with_reducible apply K.receiveNext
    | with_reducible apply K.startOverrun
    | with_reducible apply K.discardFrame
    | with_reducible apply K.setReceiver
    | split

theorem takeUnknownCode (l : Link) (code : Byte) (s : State) (h : P s) : P (takeUnknownCode l code s) := by
  unfold Machine.takeUnknownCode
  try dsimp only
  repeat' first
    | assumption
    | with_reducible refine Kept.foldl _ (fun _ _ _ => ?_) _ _ ?_
    | with_reducible apply Kept.ite
    | with_reducible apply K.countOverrun
    | with_reducible apply K.answer

theorem frameDiscarded (l : Link) (cause : DiscardCause) (s : State) (h : P s) : P (frameDiscarded l cause s) := by
  unfold Machine.frameDiscarded
  try dsimp only
  repeat' first
    | assumption
    | with_reducible refine Kept.foldl _ (fun _ _ _ => ?_) _ _ ?_
    | with_reducible apply Kept.ite
    | with_reducible apply K.discardFrame
    | with_reducible apply K.setReceiver
    | split

theorem overrunStarts (l : Link) (s : State) (h : P s) : P (overrunStarts l s) := by
  unfold Machine.overrunStarts
  try dsimp only
  repeat' first
    | assumption
    | with_reducible refine Kept.foldl _ (fun _ _ _ => ?_) _ _ ?_
    | with_reducible apply Kept.ite
    | with_reducible apply K.startOverrun

theorem gapExceeded (l : Link) (s : State) (h : P s) : P (gapExceeded l s) := by
  unfold Machine.gapExceeded
  try dsimp only
  repeat' first
    | assumption
    | with_reducible refine Kept.foldl _ (fun _ _ _ => ?_) _ _ ?_
    | with_reducible apply Kept.ite
    | with_reducible apply K.discardFrame
    | with_reducible apply K.setReceiver
    | split

theorem breakLine (l : Link) (s : State) (h : P s) : P (breakLine l s) := by
  unfold Machine.breakLine
  try dsimp only
  repeat' first
    | assumption
    | with_reducible refine Kept.foldl _ (fun _ _ _ => ?_) _ _ ?_
    | with_reducible apply Kept.ite
    | with_reducible apply K.setReceiver
    | with_reducible apply K.port

theorem responseEnd (l : Link) (s : State) (h : P s) : P (responseEnd l s) := by
  unfold Machine.responseEnd
  try dsimp only
  repeat' first
    | assumption
    | with_reducible refine Kept.foldl _ (fun _ _ _ => ?_) _ _ ?_
    | with_reducible apply Kept.ite
    | with_reducible apply K.port

/-! ## TimeBase -/

theorem chosen (s : State) (h : P s) : P s.chosen := K.choices _ s h

theorem passMillisecond (s : State) (h : P s) : P (passMillisecond s) := by
  unfold Machine.passMillisecond
  try dsimp only
  repeat' first
    | assumption
    | with_reducible refine Kept.foldl _ (fun _ _ _ => ?_) _ _ ?_
    | with_reducible apply Kept.ite
    | with_reducible apply K.timers
    | with_reducible apply K.recordAges
    | with_reducible apply K.cabinAges

theorem timePasses (s : State) (h : P s) : P (timePasses s) := by
  unfold Machine.timePasses
  try dsimp only
  repeat' first
    | assumption
    | with_reducible refine Kept.foldl _ (fun _ _ _ => ?_) _ _ ?_
    | with_reducible apply Kept.ite
    | with_reducible apply K.passMillisecond
    | with_reducible apply K.arbitrate
    | split

/-! ## Steps -/

omit K in
/-- What event does: it always answers a next state, the state as it stands while the reset line is held. -/
theorem event_next (f : State → State) (s : State) : event f s = .next (if s.resetHeld then s else f s) := rfl

omit K in
theorem event {f : State → State} {s t : State} (hf : ∀ s, P s → P (f s)) (h : P s) (e : event f s = .next t) : P t := by
  cases e
  exact Kept.ite h (hf s h)

/-- Every meaning keeps what the elementary changes keep. -/
theorem exec (c : Instr) (s t : State) (h : P s) (e : exec c s = .next t) : P t := by
  cases c with
  | powerOnReset _ _ => cases e; exact K.powerOn _ _ _ _ _
  | feedAlarmAsserted => cases e; exact Kept.ite (K.alarm _ _ h) (K.arbitrate _ (K.assertAlarm _ h))
  | feedAlarmReleased => cases e; exact K.alarm _ _ h
  | setClock _ _ _ => exact Kept.event (fun s h => K.takeSetClock _ _ _ s h) h e
  | setWeather _ _ => exact Kept.event (fun s h => K.takeSetWeather _ _ s h) h e
  | setFeedLimits _ _ => exact Kept.event (fun s h => K.takeSetFeedLimits _ _ s h) h e
  | setPlanner _ _ => exact Kept.event (fun s h => K.takeSetPlanner _ _ s h) h e
  | setLampFreshness _ _ => exact Kept.event (fun s h => K.takeSetLampFreshness _ _ s h) h e
  | setClearanceWindow _ _ => exact Kept.event (fun s h => K.takeSetClearanceWindow _ _ s h) h e
  | book _ _ => exact Kept.event (fun s h => K.takeBook _ _ s h) h e
  | amend _ _ => exact Kept.event (fun s h => K.takeAmend _ _ s h) h e
  | assignCoach _ _ _ => exact Kept.event (fun s h => K.takeAssignCoach _ _ _ s h) h e
  | cancel _ _ => exact Kept.event (fun s h => K.takeCancel _ _ s h) h e
  | requestClearance _ _ _ => exact Kept.event (fun s h => K.takeRequestClearance _ _ _ s h) h e
  | withdrawClearance _ _ => exact Kept.event (fun s h => K.takeWithdrawClearance _ _ s h) h e
  | readDepartureLog _ _ => exact Kept.event (fun s h => K.takeReadDepartureLog _ _ s h) h e
  | depotRestart _ => exact Kept.event (fun s h => K.takeDepotRestart _ s h) h e
  | openBay _ _ => exact Kept.event (fun s h => K.takeOpenBay _ _ s h) h e
  | closeBay _ _ => exact Kept.event (fun s h => K.takeCloseBay _ _ s h) h e
  | hold _ _ => exact Kept.event (fun s h => K.takeHold _ _ s h) h e
  | unhold _ _ => exact Kept.event (fun s h => K.takeUnhold _ _ s h) h e
  | assignFeeder _ _ _ => exact Kept.event (fun s h => K.takeAssignFeeder _ _ _ s h) h e
  | writeClass _ _ => exact Kept.event (fun s h => K.takeWriteClass _ _ s h) h e
  | classRemove _ _ => exact Kept.event (fun s h => K.takeClassRemove _ _ s h) h e
  | writeRule _ _ _ => exact Kept.event (fun s h => K.takeWriteRule _ _ _ s h) h e
  | setScanPeriod _ _ => exact Kept.event (fun s h => K.takeSetScanPeriod _ _ s h) h e
  | pin _ _ => exact Kept.event (fun s h => K.takePin _ _ s h) h e
  | unpin _ _ => exact Kept.event (fun s h => K.takeUnpin _ _ s h) h e
  | acknowledge _ _ => exact Kept.event (fun s h => K.takeAcknowledge _ _ s h) h e
  | defer _ _ _ => exact Kept.event (fun s h => K.takeDefer _ _ _ s h) h e
  | closeDefect _ _ => exact Kept.event (fun s h => K.takeCloseDefect _ _ s h) h e
  | enterDefect _ _ _ _ => exact Kept.event (fun s h => K.takeEnterDefect _ _ _ _ s h) h e
  | abortLampTest _ _ => exact Kept.event (fun s h => K.takeAbortLampTest _ _ s h) h e
  | readStatus _ => exact Kept.event (fun s h => K.takeReadStatus _ s h) h e
  | readBay _ _ => exact Kept.event (fun s h => K.takeReadBay _ _ s h) h e
  | readDeparture _ _ => exact Kept.event (fun s h => K.takeReadDeparture _ _ s h) h e
  | readDefects _ _ _ => exact Kept.event (fun s h => K.takeReadDefects _ _ _ s h) h e
  | readLampResult _ _ => exact Kept.event (fun s h => K.takeReadLampResult _ _ s h) h e
  | readChain _ _ => exact Kept.event (fun s h => K.takeReadChain _ _ s h) h e
  | readClass _ _ => exact Kept.event (fun s h => K.takeReadClass _ _ s h) h e
  | readRule _ _ => exact Kept.event (fun s h => K.takeReadRule _ _ s h) h e
  | requestLampTest _ _ => exact Kept.event (fun s h => K.takeRequestLampTest _ _ s h) h e
  | requestFaultRead _ _ => exact Kept.event (fun s h => K.takeRequestFaultRead _ _ s h) h e
  | readNotices _ => exact Kept.event (fun s h => K.takeReadNotices _ s h) h e
  | setNoticeMask _ _ => exact Kept.event (fun s h => K.takeSetNoticeMask _ _ s h) h e
  | setPlannerEnables _ _ => exact Kept.event (fun s h => K.takeSetPlannerEnables _ _ s h) h e
  | clearPlannerFlags _ => exact Kept.event (fun s h => K.takeClearPlannerFlags _ s h) h e
  | unknownCommandCode _ _ => exact Kept.event (fun s h => K.takeUnknownCode _ _ s h) h e
  | frameDiscard _ _ => exact Kept.event (fun s h => K.frameDiscarded _ _ s h) h e
  | overrun _ => exact Kept.event (fun s h => K.overrunStarts _ s h) h e
  | byteGapTimeout _ => exact Kept.event (fun s h => K.gapExceeded _ s h) h e
  | lineBreak _ => exact Kept.event (fun s h => K.breakLine _ s h) h e
  | responseSent _ => exact Kept.event (fun s h => K.responseEnd _ s h) h e
  | senseCountdownExpiry _ => exact Kept.event (fun s h => K.senseExpiry _ s h) h e
  | identRetryExpiry _ => exact Kept.event (fun s h => K.retryExpiry _ s h) h e
  | postResponse _ _ => exact Kept.event (fun s h => K.takeResponse _ _ s h) h e
  | responseTimeout _ => exact Kept.event (fun s h => K.noGoodResponse _ s h) h e
  | probeTimerExpiry _ => exact Kept.event (fun s h => K.probeExpiry _ s h) h e
  | allOffSent => exact Kept.event (fun s h => K.allOffEnd s h) h e
  | idleTimerExpiry => exact Kept.event (fun s h => K.idleExpiry s h) h e
  | clockSecond => exact Kept.event (fun s h => K.clockTick s h) h e
  | overdueRise _ => exact Kept.event (fun s h => K.riseOverdue _ s h) h e
  | slotTimerExpiry => exact Kept.event (fun s h => K.arbitrate _ (K.nextSlot s h)) h e
  | settleTimerExpiry _ => exact Kept.event (fun s h => K.settleExpiry _ s h) h e
  | scanCountdownExpiry _ => exact Kept.event (fun s h => K.scanExpiry _ s h) h e
  | deferralExpiry _ => exact Kept.event (fun s h => K.expireDeferral _ s h) h e
  | pendingTimerExpiry _ => exact Kept.event (fun s h => K.pendingExpiry _ s h) h e
  | alertTimerExpiry _ => exact Kept.event (fun s h => K.alertExpiry _ s h) h e
  | linkByteReceived _ _ _ => exact Kept.event (fun s h => K.receiveByte _ _ _ s h) h e
  | quietFrameSent => exact Kept.event (fun s h => K.quietEnd s h) h e
  | badResponse _ _ => exact Kept.event (fun s h => K.noGoodResponse _ s h) h e
  | resetLineHeld => cases e; exact K.holdReset _ h
  | ageRise _ => exact Kept.event (fun s h => K.raiseAges _ s h) h e

/-- Every step keeps what the elementary changes keep. -/
theorem step (s t : State) (h : P s) (e : step s = .next t) : P t := by
  unfold Machine.step at e
  split at e
  · exact K.exec _ _ t (K.queue _ s h) e
  · split at e
    · exact K.exec _ _ t (K.chosen s h) e
    · cases e
      exact K.timePasses s h

end Kept
end Sys2Proof.Machine
end

