-- ==== Sys2Proof/Laws/Store.lean ====
section
/-! SUPPORT. The defect store: what each of its operations does to the slots and to the keys of the bay lists (R137). -/

namespace Sys2Proof.Machine

/-- The key of an entry: its source and code (R137, R140). -/
def Defect.key (d : Defect) : Source × Nat := (d.source, d.code)

/-- What R137 asks of one bay list. -/
def listSound (ds : List Defect) : Prop := ds.length ≤ 16 ∧ (ds.map fun d => (d.source, d.code)).Nodup

/-- The entries of all lists, with one list replaced. -/
theorem flatten_modifyAt_perm {α β : Type} {n : Nat} (v : Vector (List α) n) (i : Fin n) (g : List α → List α) (k : α → β)
    (xs ys : List β) (h : (xs ++ (g v[i]).map k).Perm (ys ++ v[i].map k)) :
    (xs ++ (modifyAt v i g).toList.flatten.map k).Perm (ys ++ v.toList.flatten.map k) := by
  have hi : i.val < v.toList.length := by simp
  have e1 : (modifyAt v i g).toList = v.toList.take i ++ g v[i] :: v.toList.drop (i + 1) := by
    simp [modifyAt, Vector.toList_set, List.set_eq_take_append_cons_drop]
  have e2 : v.toList = v.toList.take i ++ v[i] :: v.toList.drop (i + 1) := by
    have := List.take_append_drop i.val v.toList
    rw [List.drop_eq_getElem_cons hi] at this
    simpa using this.symm
  rw [e1]
  conv => rhs; rw [e2]
  simp only [List.flatten_append, List.flatten_cons, List.map_append]
  have h1 : (xs ++ ((v.toList.take i).flatten.map k ++ ((g v[i]).map k ++ (v.toList.drop (i + 1)).flatten.map k))).Perm
      ((xs ++ (g v[i]).map k) ++ ((v.toList.take i).flatten.map k ++ (v.toList.drop (i + 1)).flatten.map k)) := by
    rw [List.append_assoc]
    refine List.Perm.append_left _ ?_
    rw [← List.append_assoc, ← List.append_assoc]
    exact List.Perm.append_right _ List.perm_append_comm
  have h2 : (ys ++ ((v.toList.take i).flatten.map k ++ (v[i].map k ++ (v.toList.drop (i + 1)).flatten.map k))).Perm
      ((ys ++ v[i].map k) ++ ((v.toList.take i).flatten.map k ++ (v.toList.drop (i + 1)).flatten.map k)) := by
    rw [List.append_assoc]
    refine List.Perm.append_left _ ?_
    rw [← List.append_assoc, ← List.append_assoc]
    exact List.Perm.append_right _ List.perm_append_comm
  exact h1.trans ((h.append_right _).trans h2.symm)

/-- Soundness after one bay list is replaced, and the free list with it. -/
theorem Store.sound_of_list {st st' : Store} {b : BayNo} {g : List Defect → List Defect} (h : st.sound)
    (hl : st'.lists = modifyAt st.lists b g)
    (hp : (st'.free ++ (g st.lists[b]).map (·.slot)).Perm (st.free ++ st.lists[b].map (·.slot)))
    (hs : listSound (g st.lists[b])) : st'.sound := by
  refine ⟨?_, fun c => ?_⟩
  · refine List.Perm.trans ?_ h.1
    have := flatten_modifyAt_perm st.lists b g (·.slot) _ _ hp
    simpa [Store.entries, hl] using this
  · by_cases hc : b = c
    · subst hc
      have : st'.lists[b] = g st.lists[b] := by rw [hl]; simp [modifyAt]
      rw [this]
      exact hs
    · have : st'.lists[c] = st.lists[c] := by rw [hl]; exact modifyAt_of_ne _ _ _ _ hc
      rw [this]
      exact h.2 c

/-- R139: an entry created takes the head of the free list; its key is new on the list. -/
theorem Store.create_sound {st st' : Store} {b : BayNo} {n : NewDefect} (h : st.sound) (hc : st.create b n = some st')
    (hn : ∀ d ∈ st.lists[b], (d.source, d.code) ≠ (n.source, n.code)) : st'.sound := by
  unfold Store.create at hc
  split at hc
  · next hlen =>
    split at hc
    · cases hc
    · next slot free hf =>
      cases hc
      refine Store.sound_of_list (b := b) (g := fun ds => ds ++ [_]) h (by rfl) ?_ ⟨?_, ?_⟩
      · rw [hf]
        simp only [List.map_append, List.map_cons, List.map_nil]
        rw [← List.append_assoc]
        exact List.perm_append_comm.trans (by simp)
      · simp only [List.length_append, List.length_singleton]
        omega
      · rw [List.map_append, List.nodup_append]
        refine ⟨(h.2 b).2, by simp, ?_⟩
        intro x hx y hy
        simp only [List.map_cons, List.map_nil, List.mem_singleton] at hy
        obtain ⟨d, hd, rfl⟩ := List.mem_map.mp hx
        rw [hy]
        exact hn d hd
  · cases hc

/-- R139: removed entries return their slots to the tail of the free list. -/
theorem Store.removeWhere_sound {st : Store} (h : st.sound) (b : BayNo) (p : Defect → Bool) : (st.removeWhere b p).sound := by
  refine Store.sound_of_list h rfl ?_ ⟨?_, ?_⟩
  · simp only [Store.removeWhere]
    rw [List.append_assoc, ← List.map_append]
    exact List.Perm.append_left _ ((List.filter_append_perm p st.lists[b]).map _)
  · exact (List.length_filter_le _ _).trans (h.2 b).1
  · exact ((h.2 b).2).sublist (List.filter_sublist.map _)

/-- An update in place that keeps slots and keys. -/
theorem Store.updateWhere_sound {st : Store} (h : st.sound) (b : BayNo) (p : Defect → Bool) (f : Defect → Defect)
    (hf : ∀ d, (f d).slot = d.slot ∧ (f d).source = d.source ∧ (f d).code = d.code) : (st.updateWhere b p f).sound := by
  have hk : ∀ (ds : List Defect) {β : Type} (k : Defect → β), (∀ d, k (f d) = k d) →
      (ds.map fun d => if p d then f d else d).map k = ds.map k := by
    intro ds β k hk
    rw [List.map_map]
    refine List.map_congr_left fun d _ => ?_
    simp only [Function.comp]
    split
    · exact hk d
    · rfl
  refine Store.sound_of_list h rfl ?_ ⟨by simpa using (h.2 b).1, ?_⟩
  · simp only [Store.updateWhere]
    rw [hk _ (·.slot) fun d => (hf d).1]
  · rw [hk _ (fun d => (d.source, d.code)) fun d => by rw [(hf d).2.1, (hf d).2.2]]
    exact (h.2 b).2

/-- The marks, the starvation count and the id counter are no part of the accounting. -/
theorem Store.sound_congr {st st' : Store} (h : st.sound) (hf : st'.free = st.free) (hl : st'.lists = st.lists) : st'.sound := by
  unfold Store.sound Store.entries at *
  rw [hf, hl]
  exact h

/-- Every entry changed in place on every list, its slot and key kept. -/
theorem Store.map_sound {st st' : Store} (h : st.sound) (f : Defect → Defect) (hf : st'.free = st.free)
    (hl : st'.lists = st.lists.map (·.map f))
    (hk : ∀ d, (f d).slot = d.slot ∧ (f d).source = d.source ∧ (f d).code = d.code) : st'.sound := by
  have hm : ∀ (ds : List Defect) {β : Type} (k : Defect → β), (∀ d, k (f d) = k d) → (ds.map f).map k = ds.map k := by
    intro ds β k hk
    rw [List.map_map]
    exact List.map_congr_left fun d _ => hk d
  refine ⟨?_, fun b => ?_⟩
  · have : st'.entries.map (·.slot) = st.entries.map (·.slot) := by
      simp only [Store.entries, hl, Vector.toList_map, List.map_flatten, List.map_map]
      congr 1
      refine List.map_congr_left fun ds _ => ?_
      exact hm ds _ fun d => (hk d).1
    rw [hf, this]
    exact h.1
  · have : st'.lists[b] = st.lists[b].map f := by rw [hl]; simp
    rw [this]
    refine ⟨by simpa using (h.2 b).1, ?_⟩
    rw [hm _ (fun d => (d.source, d.code)) fun d => by rw [(hk d).2.1, (hk d).2.2]]
    exact (h.2 b).2

/-- The finding's entry keeps its slot and key through an update (R140). -/
theorem Finding.updated_keeps (f : Finding) (d : Defect) :
    (f.updated d).slot = d.slot ∧ (f.updated d).source = d.source ∧ (f.updated d).code = d.code := by
  cases f <;> exact ⟨rfl, rfl, rfl⟩

/-- A finding creates an entry of its own source and code. -/
theorem Finding.created_key (f : Finding) (n : NewDefect) (h : f.created = some n) : n.source = f.source ∧ n.code = f.code := by
  cases f <;> simp_all [Finding.created, Finding.source, Finding.code] <;> (subst h; exact ⟨rfl, rfl⟩)

/-- R140, R141: one finding keeps the store sound. -/
theorem Store.applyFinding_sound {st : Store} (h : st.sound) (b : BayNo) (f : Finding) : (st.applyFinding b f).1.sound := by
  unfold Store.applyFinding
  split
  · exact Store.updateWhere_sound h b _ _ f.updated_keeps
  · next hnone =>
    split
    · exact h
    · next n hn =>
      split
      · next st' hc =>
        refine Store.create_sound h hc fun d hd he => ?_
        have hk := Finding.created_key f n hn
        have := List.find?_eq_none.mp hnone d hd
        simp only [Prod.mk.injEq] at he
        simp [Finding.keys, he.1, he.2, hk.1, hk.2] at this
      · exact Store.sound_congr h rfl rfl

/-- R148: a MANUAL entry whose code is new on the list. -/
theorem Store.manual_sound {s : State} {st : Store} {b : BayNo} {code : Nat} {x : Action} (h : s.store.sound)
    (hm : s.hasManual b code = false) (hc : s.store.create b (manualDefect code x) = some st) : st.sound := by
  refine Store.create_sound h hc fun d hd he => ?_
  have := List.any_eq_false.mp hm d hd
  simp only [manualDefect, Prod.mk.injEq] at he
  simp [he.1, he.2] at this

/-- After reset every slot is free. -/
theorem Store.reset_sound : Store.reset.sound := by
  refine ⟨?_, fun b => ?_⟩
  · simp [Store.reset, Store.entries]
  · simp [Store.reset]

end Sys2Proof.Machine
end

