-- ==== Sys2Proof/Tests/Slice0.lean ====
section
/-! SUPPORT. The model's own tests: the checks of WellFormed, the check sequences, the worked cases of 04, one small step per family, and
for every statement with hypotheses a state and operands that meet them, clause by clause and at the ends of the ranges. -/

set_option maxRecDepth 10000

namespace Sys2Proof.Tests

-- One test after another: side by side, each test waits on a thread whose stack counts against the check's memory.
set_option Elab.async false

open Sys2Proof Sys2Proof.Machine

/-! ## WellFormed: an ill-formed term for each check -/

theorem test_wf_known_code_refused : (Instr.unknownCommandCode .dispatch 0x10#8).wf = false := by decide

theorem test_wf_unknown_code_taken : (Instr.unknownCommandCode .dispatch 0x16#8).wf = true := by decide

def circuits (n : Nat) : List CircuitArgs := List.replicate n ⟨1#8, 50#16, 150#16, 0#8⟩

theorem test_wf_nineteen_circuits_refused :
    (Instr.writeClass .workshop ⟨0#8, 1#8, 0#16, 0#16, 100#16, false, circuits 19⟩).wf = false := by decide

theorem test_wf_eighteen_circuits_taken :
    (Instr.writeClass .workshop ⟨0#8, 1#8, 0#16, 0#16, 100#16, false, circuits 18⟩).wf = true := by decide

theorem test_wf_chain_position_255_refused : (Instr.readChain .dispatch (.fromPosition 255#8)).wf = false := by decide

theorem test_wf_zero_ids_refused :
    (Instr.overdueRise 0#16).wf = false ∧ (Instr.deferralExpiry 0#16).wf = false ∧ (Instr.pendingTimerExpiry 0#16).wf = false := by
  decide

/-- A response frame of this address, kind, status and payload, its kind code and its payload's bytes 0 and none, its length and check right. -/
def replyOf (a : Byte) (k : PostKind) (st : PostStatus) (p : PostPayload) : PostReply where
  address := a
  kindCode := 0#8
  length := 0#8
  body := []
  check := crc8 [a, 0#8, 0#8]
  kind := some k
  status := some st
  payload := p

theorem test_wf_post_address_24_refused : (Instr.postResponse (replyOf 24#8 .ping .ok .empty) .failureFirst).wf = false := by decide

theorem test_wf_post_payload_form_refused :
    (Instr.postResponse (replyOf 0#8 .ident .noCoach (.coach 1#16 0#8)) .failureFirst).wf = false
      ∧ (Instr.postResponse (replyOf 0#8 .lampRead .harnessFault (.current 1#16)) .failureFirst).wf = false := by decide

theorem test_wf_post_check_refused :
    (Instr.postResponse { replyOf 0#8 .ping .ok .empty with check := crc8 [0#8, 0#8, 0#8] ^^^ 1#8 } .failureFirst).wf = false := by decide

theorem test_wf_post_length_refused :
    (Instr.postResponse { replyOf 0#8 .ping .ok .empty with length := 1#8, check := crc8 [0#8, 0#8, 1#8] } .failureFirst).wf = false := by
  decide

theorem test_wf_post_kind_and_status_refused :
    (Instr.postResponse { replyOf 0#8 .ping .ok .empty with kind := none } .failureFirst).wf = false
      ∧ (Instr.postResponse { replyOf 0#8 .ping .ok .empty with status := none } .failureFirst).wf = false := by decide

def records (n : Nat) : List FaultRecord := List.replicate n ⟨1#16, 0#8, 1#8⟩

theorem test_wf_five_records_refused : 
    (Instr.postResponse (replyOf 0#8 .faultPage .ok (.page 0#8 (records 5) false)) .failureFirst).wf = false := by decide

theorem test_wf_good_responses_taken :
    (Instr.postResponse (replyOf 23#8 .faultPage .ok (.page 0#8 (records 4) false)) .failureFirst).wf = true
      ∧ (Instr.postResponse (replyOf 0#8 .ident .noCoach .empty) .silenceFirst).wf = true := by decide

/-! ## The checks of frames (10 and 11), over the nine bytes of the digits 1 to 9 -/

def digits : List Byte := [0x31#8, 0x32#8, 0x33#8, 0x34#8, 0x35#8, 0x36#8, 0x37#8, 0x38#8, 0x39#8]

theorem test_crc8_digits : crc8 digits = 0xF4#8 := by decide

theorem test_crc16_digits : crc16 digits = 0x29B1#16 := by decide

theorem test_word_spells_nothing : decodeTableWord 8 0x10 = none := rfl

/-! ## The worked cases of 04 -/

def worked : PlanInputs where
  cabin := -104
  outdoor := -288
  target := 288
  ahead := some 56
  loss := 1966
  gain := 600
  roundLength := 8
  rounding := .nearest
  tolerance := 32

theorem test_plan_cold_coach : computePlan worked = ⟨6, 0#6⟩ := by decide

theorem test_plan_very_cold_coach :
    computePlan { worked with cabin := -400, outdoor := -560, ahead := some 20 } = ⟨16, 0b001100#6⟩ := by decide

theorem test_plan_frost_guard :
    computePlan { worked with cabin := 40, outdoor := -320, target := 80, ahead := none } = ⟨7, 0#6⟩ := by decide

theorem test_plan_saturation :
    computePlan { worked with cabin := -640, outdoor := 640, ahead := some 30, loss := 8191, roundLength := 16 } = ⟨0, 0b000001#6⟩ := by
  decide

theorem test_loss_table :
    (roundLoss .nearest 32768 = 0 ∧ roundLoss .nearest 98304 = 2 ∧ roundLoss .nearest 163840 = 2 ∧ roundLoss .nearest (-98304) = -2
      ∧ roundLoss .nearest (-131000) = -2)
    ∧ (roundLoss .towardZero 32768 = 0 ∧ roundLoss .towardZero 98304 = 1 ∧ roundLoss .towardZero 163840 = 2
      ∧ roundLoss .towardZero (-98304) = -1 ∧ roundLoss .towardZero (-131000) = -1) := by decide

/-! ## A small yard -/

/-- A bay with coach n of class 3. -/
def coachBay (n : Nat) (st : BayState) : Bay :=
  { Bay.reset with
    state := st
    occupied := true
    plug := st != .leaving
    link := true
    coach := some n
    cls := some 3
    cabin := some ⟨288, 30000⟩
    sense := some 5000 }

/-- Two circuits, 4 and 13. -/
def lamps : LampSet := ((Vector.replicate 16 none).set 4 (some ⟨50, 150, .block⟩)).set 13 (some ⟨50, 150, .note⟩)

def class3 : ClassRecord := ⟨4, 1966, 600, lamps, 200, true⟩

def record (ref minute : Nat) (coach : Option Nat) (st : DepartureState) (bay : Option BayNo) (overdue : Option Overdue) : Departure where
  ref := ref
  minute := minute
  coach := coach
  target := none
  lead := 90
  state := st
  bay := bay
  overdue := overdue
  booking := ref
  reasons := none

def entry (slot : Fin 96) (id : Nat) (src : Source) (code : Nat) (a : Action) (st : DefectState) (present : Option Bool) : Defect where
  slot := slot
  id := id
  source := src
  code := code
  action := a
  state := st
  present := present
  count := 1
  severity := none
  detail := none
  age := 0

/-- Bay 1 EMPTY, 2 ARRIVED, 3 and 7 BOUND, 4 CLEARED, 5 LEAVING, 6 BOUND with a clearance pending, 8 and 9 under test. -/
def yardBays : Vector Bay 24 :=
  (((((((((Vector.replicate 24 Bay.reset).set 1 { Bay.reset with state := .empty, sense := some 5000 }).set 2
    { Bay.reset with state := .arrived, occupied := true, plug := true, sense := some 5000, retry := some 30000 }).set 3
    (coachBay 103 .bound)).set 4 (coachBay 104 .cleared)).set 5 (coachBay 105 .leaving)).set 6 (coachBay 106 .bound)).set 7
    (coachBay 107 .bound)).set 8 (coachBay 108 .bound)).set 9 (coachBay 109 .bound)

def yardBook : Book where
  records := [record 5 599 (some 105) .cleared (some 5) (some ⟨239, 60000⟩), record 4 600 (some 104) .cleared (some 4) none,
    record 2 620 (some 103) .bound (some 3) none, record 65535 630 (some 106) .clearing (some 6) none,
    record 1 1320 (some 99) .booked none none]
  nextBooking := 6
  log := []
  nextSequence := 0

def yardStore : Store where
  free := (List.finRange 96).take 92
  lists := ((Vector.replicate 24 []).set 3
    [entry 92 1 .manual 1 .note .opened none, entry 93 2 .fault 9 .inhibit (.deferred 60000) (some true)]).set 7
    [entry 94 3 .fault 7 .note .acknowledged (some false), entry 95 65535 .lamp 4 .block (.deferred 1) (some true)]
  marks := Vector.replicate 24 ⟨false, false, false⟩
  starvation := 0
  nextId := 65535

def yardSeq : Sequencer :=
  { (Sequencer.reset 48 false) with
    chain := [⟨3, true, .taken⟩, ⟨1, true, .missed⟩, ⟨7, false, .waiting⟩]
    onSet := [⟨3, 4, 0, some 0⟩]
    commanded := (Vector.replicate 24 ⟨false, 0⟩).set 3 ⟨true, 0⟩ }

/-- Circuit 4 of a test in settling. -/
def testOf8 : RunningTest where
  bay := 8
  lamps := lamps
  settle := 200
  circuit := 4
  results := freshResults lamps
  settling := some 200

/-- 10:00 on the depot clock. -/
def yard : State :=
  { State.reset with
    now := 20000
    clock := ⟨true, 600, 59, 1000⟩
    bays := yardBays
    classes := (Vector.replicate 16 none).set 3 (some class3)
    book := yardBook
    seq := yardSeq
    lamp := { LampUnit.reset with engines := #v[.running testOf8, .releasing 9] }
    reader := { FaultReader.reset with
      reading := (Vector.replicate 24 none).set 3 (some ⟨7, some (5, 2), 2, [⟨9, 1, 1⟩], 8⟩)
      scan := ((Vector.replicate 24 none).set 3 (some 600000)).set 7 (some 1) }
    store := yardStore
    clearance := { Clearance.reset with
      pending := [⟨65535, 6, false, 90000⟩]
      signals := ((Vector.replicate 24 .red).set 4 .green).set 5 .green }
    bus := { Bus.reset with waiting := [], wire := .free } }

/-- The yard with both engines free. -/
def idleEngines : State := { yard with lamp := LampUnit.reset }

/-- The yard with a transaction in flight. -/
def flying (j : Job) (isRetry discarded : Bool) (s : State) : State :=
  { s with bus := { s.bus with wire := .busy ⟨j, isRetry, some 20, discarded⟩ } }

/-- A bay's record replaced. -/
def withBay (b : BayNo) (r : Bay) (s : State) : State := { s with bays := s.bays.set b r }

/-- A post's record replaced. -/
def withPost (b : BayNo) (p : Post) (s : State) : State := { s with bus := { s.bus with posts := s.bus.posts.set b p } }

/-- The book's records replaced. -/
def withRecords (rs : List Departure) (s : State) : State := { s with book := { s.book with records := rs } }

/-- The status a link's responder is sending. -/
def answered (l : Link) (o : Host.Outcome State Fault Refusal) : Option Status :=
  match o with
  | .next t => match (t.port l).responder with
    | .sending r => some r.status
    | .free => none
  | .fault _ | .refused _ => none

/-- A value read from the next state. -/
def afterwards {α : Type} (o : Host.Outcome State Fault Refusal) (f : State → α) : Option α :=
  match o with
  | .next t => some (f t)
  | .fault _ | .refused _ => none

theorem test_yard_ready (l : Link) : yard.ready l := by cases l <;> exact ⟨rfl, rfl⟩

theorem test_yard_book_sound : yard.book.sound := by unfold Book.sound; decide

theorem test_yard_store_sound : yard.store.sound := by
  refine ⟨?_, ?_⟩
  · decide
  · decide

theorem test_yard_other_laws : yard.seq.loadSound ∧ yard.seq.chainSound ∧ yard.lamp.sound ∧ yard.plugSound := by
  refine ⟨?_, ?_, ?_, ?_⟩
  · unfold Sequencer.loadSound; decide
  · unfold Sequencer.chainSound; decide
  · unfold LampUnit.sound; decide
  · unfold State.plugSound; decide


/-! ## Hypotheses met: steps, reset, links -/

/-- One queued command and none; an event due, a grant waiting, time passing, the line held. -/
theorem test_hyps_StepRunsTheFront_StepOnEmptyQueue :
    ({ yard with pending := [.clockSecond] } : State).pending = .clockSecond :: [] ∧ yard.pending = []
      ∧ ({ yard with resetHeld := true } : State).resetHeld = true
      ∧ (yard.nextDue = none ∧ yard.bus.wire = .free ∧ yard.bus.waiting = [])
      ∧ (State.reset.nextDue = none ∧ State.reset.bus.waiting ≠ []) := by
  decide

theorem test_due_event_taken : ({ yard with bus := { yard.bus with idle := 0 } } : State).dueEvents = [.idleTimerExpiry] := by decide

theorem test_hyps_ResetLineHeld :
    ({ yard with resetHeld := true } : State).attention .dispatch = false
      ∧ (Instr.clockSecond ≠ .resetLineHeld ∧ Instr.clockSecond ≠ .feedAlarmAsserted ∧ Instr.clockSecond ≠ .feedAlarmReleased) := by
  decide

/-- A link's command on the other link, an unknown code, a bay one above the strapped count, a SENDING responder. -/
theorem test_hyps_FrameChecks :
    (linkOf (.openBay .dispatch 0#8) = some .dispatch ∧ codeOf (.openBay .dispatch 0#8) = some 0x20#8
        ∧ permitted .dispatch 0x20#8 = false)
      ∧ (linkOf (.requestClearance .workshop 1#16 true) = some .workshop ∧ permitted .workshop 0x1C#8 = false)
      ∧ (knownCode 0x16#8 = false ∧ knownCode 0xFF#8 = false)
      ∧ (bayNamed (.readBay .dispatch 24#8) = some 24#8 ∧ permitted .dispatch 0x31#8 = true ∧ yard.bayCount ≤ (24#8).toNat)
      ∧ answered .dispatch (exec (.openBay .dispatch 0#8) yard) = some .notPermitted
      ∧ answered .workshop (exec (.unknownCommandCode .workshop 0xFF#8) yard) = some .badCommand
      ∧ answered .dispatch (exec (.readBay .dispatch 24#8) yard) = some .noBay
      ∧ afterwards (exec (.readStatus .dispatch) (answer .dispatch ⟨.ok, .empty⟩ yard)) (·.dispatch.overruns) = some 1 := by
  decide

/-- The receiver of the dispatch link one byte before the end of a frame, and what the responder sends after it. -/
def lastByte (code : Byte) (payload : List Byte) : Option Status :=
  let n := BitVec.ofNat 8 payload.length
  match halfBytes (crc16 (n :: code :: payload)) with
  | [hi, lo] => answered .dispatch (exec (.linkByteReceived .dispatch lo true)
      { yard with dispatch := { yard.dispatch with receiver := .receiving (n :: code :: payload ++ [hi]), responder := .free } })
  | _ => none

/-- An unknown code; a payload one byte short and one long; the same of another link's command and of REQUEST CLEARANCE; one that is right. -/
theorem test_hyps_FrameChecks_lengths :
    (knownCode 0x16#8 = false ∧ lastByte 0x16#8 [] = some .badCommand)
      ∧ (parsePayload .dispatch 0x31#8 [] = none ∧ lastByte 0x31#8 [] = some .badCommand ∧ lastByte 0x31#8 [3#8, 0#8] = some .badCommand)
      ∧ (permitted .dispatch 0x20#8 = false ∧ lastByte 0x20#8 [] = some .notPermitted)
      ∧ (parsePayload .dispatch 0x1C#8 [0#8] = none ∧ lastByte 0x1C#8 [0#8] = some .badCommand)
      ∧ (parsePayload .dispatch 0x31#8 [3#8] = some (.readBay .dispatch 3#8) ∧ lastByte 0x31#8 [3#8] = some .ok)
      ∧ (parsePayload .workshop 0x25#8 (List.replicate 9 0#8)).isSome = true ∧ parsePayload .workshop 0x25#8 (List.replicate 10 0#8) = none := by
  decide +kernel

/-- The ref of the answer to a REQUEST CLEARANCE frame with this payload. -/
def refusedRef (l : Link) (payload : List Byte) : Option Nat :=
  match refuseFrame l 0x1C#8 payload .badCommand yard |>.port l |>.responder with
  | .sending ⟨_, .clearance ref _⟩ => some ref
  | _ => none

/-- Payloads of two bytes, of four, and on the other link: the ref they carry is answered. -/
theorem test_hyps_FrameChecks_ref :
    refusedRef .dispatch [0x12#8, 0x34#8] = some 0x1234 ∧ refusedRef .dispatch [0xFF#8, 0xFF#8, 1#8, 0#8] = some 0xFFFF
      ∧ refusedRef .workshop [0#8, 1#8] = some 1 ∧ wordAt [0x12#8, 0x34#8] 0 = 0x1234 := by
  decide

/-- The dispatch link's receiver in a state, with a responder. -/
def receiving (r : Receiver) (p : Responder) : State :=
  { yard with dispatch := { yard.dispatch with receiver := r, responder := p } }

def receiverAfter (x : Byte) (good : Bool) (s : State) : Option Receiver :=
  afterwards (exec (.linkByteReceived .dispatch x good) s) (·.dispatch.receiver)

/-- Every clause, the lengths at 120 and 121, and a check that is wrong. -/
theorem test_hyps_BytesReceived :
    receiverAfter 0xC2#8 true yard = some .idle
      ∧ receiverAfter 0xC3#8 true yard = some (.receiving [])
      ∧ receiverAfter 0xC3#8 true (receiving .idle (.sending ⟨.ok, .empty⟩)) = some (.discarding none)
      ∧ receiverAfter 0#8 false (receiving (.receiving [1#8]) .free) = some .idle
      ∧ receiverAfter 121#8 true (receiving (.receiving []) .free) = some .idle
      ∧ receiverAfter 120#8 true (receiving (.receiving []) .free) = some (.receiving [120#8])
      ∧ receiverAfter 0x30#8 true (receiving (.receiving [0#8]) .free) = some (.receiving [0#8, 0x30#8])
      ∧ receiverAfter 0#8 true (receiving (.receiving [0#8, 0x30#8, 0#8]) .free) = some .idle
      ∧ (halfBytes (crc16 [0#8, 0x30#8]) ≠ [0#8, 0#8])
      ∧ receiverAfter 0#8 false (receiving (.discarding none) .free) = some .idle
      ∧ receiverAfter 121#8 true (receiving (.discarding none) .free) = some .idle
      ∧ receiverAfter 120#8 true (receiving (.discarding none) .free) = some (.discarding (some 123))
      ∧ receiverAfter 0#8 true (receiving (.discarding (some 1)) .free) = some .idle
      ∧ receiverAfter 0#8 true (receiving (.discarding (some 2)) .free) = some (.discarding (some 1)) := by
  decide

theorem test_hyps_LinkEvents :
    afterwards (exec (.frameDiscard .dispatch .badStopBit) (receiving (.receiving []) .free)) (·.dispatch.frameErrors) = some 1
      ∧ afterwards (exec (.byteGapTimeout .dispatch) (receiving (.receiving [0#8]) .free)) (·.dispatch.frameErrors) = some 1
      ∧ afterwards (exec (.byteGapTimeout .dispatch) (receiving (.discarding (some 5)) .free)) (·.dispatch.receiver) = some .idle
      ∧ afterwards (exec (.overrun .dispatch) (receiving .idle (.sending ⟨.ok, .empty⟩))) (·.dispatch.overruns) = some 1
      ∧ afterwards (exec (.lineBreak .workshop) yard) (fun t => (t.workshop.notices, t.attention .workshop))
          = some (Notices.empty, false)
      ∧ afterwards (exec (.responseSent .workshop) (answer .workshop ⟨.ok, .empty⟩ yard)) (·.workshop.responder) = some .free := by
  decide

/-- A full payload of 120 bytes or less: WRITE CLASS with 18 circuits takes 118. -/
theorem test_hyps_PayloadsReadBack_FrameRunsItsCommand :
    (payloadOf (.writeClass .workshop ⟨0#8, 1#8, 0#16, 0#16, 100#16, false, circuits 18⟩)).length ≤ 120
      ∧ (Instr.writeClass .workshop ⟨0#8, 1#8, 0#16, 0#16, 100#16, false, circuits 18⟩).wf = true
      ∧ linkOf (.readStatus .dispatch) = some .dispatch ∧ codeOf (.readStatus .dispatch) = some 0x30#8
      ∧ (Instr.readStatus .dispatch).wf = true ∧ (yard.port .dispatch).receiver = .idle := by
  decide

/-- READ STATUS as its four bytes after the sync, on the wire of the link. -/
theorem test_frame_of_readStatus : frameBytes 0x30#8 [] = [0xC3#8, 0#8, 0x30#8] ++ halfBytes (crc16 [0#8, 0x30#8]) := by decide

/-- An enabled kind and a disabled one; an undefined cause bit at 64, and 63. -/
theorem test_hyps_NoticesRead_MasksAndFlags :
    yard.attention .dispatch = true
      ∧ afterwards (exec (.readNotices .dispatch) yard) (·.attention .dispatch) = some false
      ∧ answered .workshop (exec (.setPlannerEnables .workshop 64#8) yard) = some .badCommand
      ∧ afterwards (exec (.setPlannerEnables .workshop 63#8) yard) (·.workshop.plannerMask) = some 63#6
      ∧ afterwards (exec (.setNoticeMask .dispatch 0#8) yard) (·.attention .dispatch) = some false
      ∧ answered .dispatch (exec (.clearPlannerFlags .dispatch) yard) = some .ok := by
  decide

/-! ## Hypotheses met: reads -/

theorem test_hyps_StatusLogAndClassRead :
    answered .workshop (exec (.readStatus .workshop) yard) = some .ok
      ∧ answered .dispatch (exec (.readDepartureLog .dispatch 15#8) yard) = some .ok
      ∧ answered .dispatch (exec (.readDepartureLog .dispatch 16#8) yard) = some .notFound
      ∧ answered .dispatch (exec (.readClass .dispatch 15#8) yard) = some .ok
      ∧ answered .dispatch (exec (.readClass .dispatch 16#8) yard) = some .notFound := by
  decide

theorem test_hyps_ReadsAnswer :
    (23#8).toNat < yard.bayCount
      ∧ answered .dispatch (exec (.readBay .dispatch 23#8) yard) = some .ok
      ∧ answered .dispatch (exec (.readDefects .dispatch 3#8 15#8) yard) = some .ok
      ∧ answered .dispatch (exec (.readDefects .dispatch 3#8 16#8) yard) = some .notFound
      ∧ answered .dispatch (exec (.readLampResult .dispatch 3#8) yard) = some .ok
      ∧ answered .dispatch (exec (.readChain .dispatch .summary) yard) = some .ok
      ∧ answered .dispatch (exec (.readChain .dispatch (.fromPosition 63#8)) yard) = some .ok
      ∧ answered .dispatch (exec (.readChain .dispatch (.fromPosition 64#8)) yard) = some .notFound
      ∧ (∀ d ∈ yard.book.records, d.ref ≠ (9#16).toNat)
      ∧ answered .dispatch (exec (.readDeparture .dispatch (.byRef 9#16)) yard) = some .notFound
      ∧ answered .dispatch (exec (.readDeparture .dispatch (.byPosition 5#16)) yard) = some .notFound
      ∧ yard.book.records[4]? = some (record 1 1320 (some 99) .booked none none)
      ∧ answered .dispatch (exec (.readDeparture .dispatch (.byPosition 4#16)) yard) = some .ok := by
  decide

/-- Bay 3 with a lamp result of this age. -/
def failedAgo3 (ms : Nat) : State :=
  { yard with lamp := { yard.lamp with results := (Vector.replicate 24 none).set 3 (some ⟨.failed, ms, none⟩) } }

/-- A test queued, running and releasing; a CLEARING record with its pending clearance; a result at the freshness and a minute past it. -/
theorem test_hyps_ReadsAnswer_views :
    (yard.testView 8 = .running 0 4 ∧ yard.testView 9 = .releasing 1 ∧ yard.testView 3 = .absent)
      ∧ ({ yard with lamp := { yard.lamp with queue := [⟨7, .urgent⟩, ⟨3, .routine⟩] } } : State).testView 3 = .queued .routine 1
      ∧ (yard.book.records[3]? = some (record 65535 630 (some 106) .clearing (some 6) none)
        ∧ yard.clearance.find 65535 = some ⟨65535, 6, false, 90000⟩
        ∧ (yard.departureView (record 65535 630 (some 106) .clearing (some 6) none)).timer = 90)
      ∧ ((failedAgo3 (120 * 60000 + 59999)).lampFresh 3 = true ∧ (failedAgo3 (121 * 60000)).lampFresh 3 = false) := by
  decide

/-! ## Hypotheses met: the class table and the rule table -/

theorem test_hyps_RuleTable :
    answered .workshop (exec (.writeRule .workshop 32#8 .unused) yard) = some .notFound
      ∧ answered .workshop (exec (.writeRule .workshop 32#8 (.use 1#16 2#16 2#8)) yard) = some .notFound
      ∧ answered .workshop (exec (.writeRule .workshop 31#8 .unused) yard) = some .ok
      ∧ answered .workshop (exec (.writeRule .workshop 31#8 (.use 1#16 2#16 3#8)) yard) = some .badCommand
      ∧ answered .workshop (exec (.writeRule .workshop 31#8 (.use 1#16 65534#16 2#8)) yard) = some .ok
      ∧ answered .workshop (exec (.writeRule .workshop 31#8 (.use 65535#16 0#16 0#8)) yard) = some .okClamped
      ∧ answered .dispatch (exec (.readRule .dispatch 31#8) yard) = some .ok
      ∧ answered .dispatch (exec (.readRule .dispatch 32#8) yard) = some .notFound := by
  decide

def classOf3 (settle : Half) (cs : List CircuitArgs) : ClassArgs := ⟨3#8, 4#8, 1966#16, 600#16, settle, true, cs⟩

def settleAfter (h : Half) : Option (Option Nat) :=
  afterwards (exec (.writeClass .workshop (classOf3 h [])) yard) (fun t => t.classes[3].map (·.settle))

/-- Each refusal, both together, the halves of the settle time (R27: 430, 425 and 410) and a reversed window. -/
theorem test_hyps_ClassWritten :
    answered .workshop (exec (.writeClass .workshop { classOf3 200#16 [] with cls := 16#8 }) yard) = some .notFound
      ∧ answered .workshop (exec (.writeClass .workshop (classOf3 200#16 [⟨16#8, 1#16, 2#16, 0#8⟩])) yard) = some .notFound
      ∧ answered .workshop (exec (.writeClass .workshop (classOf3 200#16 [⟨15#8, 1#16, 2#16, 1#8⟩])) yard) = some .badCommand
      ∧ answered .workshop (exec (.writeClass .workshop (classOf3 200#16 (circuits 2))) yard) = some .badCommand
      ∧ (15 < ({ classOf3 200#16 (circuits 2) with cls := 16#8 } : ClassArgs).cls.toNat ∧ ¬ ((circuits 2).map (·.circuit)).Nodup)
      ∧ (settleAfter 430#16 = some (some 450) ∧ settleAfter 425#16 = some (some 450) ∧ settleAfter 410#16 = some (some 400))
      ∧ answered .workshop (exec (.writeClass .workshop (classOf3 200#16 [⟨15#8, 1#16, 4000#16, 2#8⟩])) yard) = some .ok
      ∧ answered .workshop (exec (.writeClass .workshop (classOf3 200#16 [⟨0#8, 4000#16, 1#16, 0#8⟩])) yard) = some .okClamped := by
  decide

theorem test_hyps_ClassRemoved :
    answered .workshop (exec (.classRemove .workshop 16#8) yard) = some .notFound
      ∧ yard.classes[15] = none ∧ answered .workshop (exec (.classRemove .workshop 15#8) yard) = some .already
      ∧ yard.classes[3] ≠ none
      ∧ afterwards (exec (.classRemove .workshop 3#8) yard) (fun t => (t.seq.onSet, t.seq.commanded[3].on)) = some ([], false)
      ∧ ((yard.seq.onSet.map (·.bay)).Nodup ∧ yard.silent 3 = false)
      ∧ afterwards (exec (.classRemove .workshop 3#8) yard) (fun t => (t.seq.chain.map (·.status), t.flies (· == .heat 3 false)))
          = some ([.missed, .missed, .waiting], true) := by
  decide

/-! ## Hypotheses met: bays and pins -/

theorem test_hyps_BayOpened_BayClosed :
    (0#8).toNat < yard.bayCount ∧ bayOf 23#8 = 23
      ∧ (yard.bay 0).state = .closed ∧ answered .workshop (exec (.openBay .workshop 0#8) yard) = some .ok
      ∧ (yard.bay 1).state ≠ .closed ∧ answered .workshop (exec (.openBay .workshop 1#8) yard) = some .wrongState
      ∧ (yard.bay 2).state ∈ [.arrived, .bound, .cleared, .leaving] ∧ answered .workshop (exec (.closeBay .workshop 5#8) yard) = some .occupied
      ∧ answered .workshop (exec (.closeBay .workshop 0#8) yard) = some .already
      ∧ (yard.bay 1).state = .empty ∧ answered .workshop (exec (.closeBay .workshop 1#8) yard) = some .ok
      ∧ afterwards (exec (.closeBay .workshop 1#8) (flying (.sense 1) false false yard)) (·.bus.wire) = some (.busy ⟨.sense 1, false, some 20, true⟩)
      ∧ afterwards (exec (.closeBay .workshop 1#8) (flying (.sense 2) false false yard)) (·.bus.wire)
          = some (.busy ⟨.sense 2, false, some 20, false⟩) := by
  decide

/-- Bay 1 closes with its pin second: the members' entries stand before it, are it, stand after it, or are none. -/
theorem test_hyps_BayClosed_entries :
    afterwards (exec (.closeBay .workshop 1#8) { yard with seq := { yardSeq with
        onSet := [⟨3, 4, 0, some 0⟩, ⟨4, 4, 0, some 1⟩, ⟨7, 4, 0, some 2⟩, ⟨8, 4, 0, none⟩] } }) (fun t => t.seq.onSet.map (·.entry))
      = some [some 0, none, some 1, none] := by
  decide

theorem test_hyps_HoldAndFeeder :
    answered .workshop (exec (.hold .workshop 1#8) yard) = some .wrongState
      ∧ answered .workshop (exec (.unhold .workshop 0#8) yard) = some .wrongState
      ∧ ((yard.bay 2).hold = false ∧ answered .workshop (exec (.hold .workshop 2#8) yard) = some .ok)
      ∧ answered .workshop (exec (.unhold .workshop 3#8) yard) = some .already
      ∧ afterwards (exec (.hold .workshop 3#8) yard) (·.seq.onSet) = some []
      ∧ afterwards (exec (.hold .workshop 4#8) yard) (fun t => (t.bay 4).state) = some .bound
      ∧ afterwards (exec (.hold .workshop 5#8) yard) (fun t => (t.bay 5).state) = some .bound
      ∧ (((withBay 2 { yard.bay 2 with hold := true } yard).bay 2).hold = true
        ∧ answered .workshop (exec (.hold .workshop 2#8) (withBay 2 { yard.bay 2 with hold := true } yard)) = some .already)
      ∧ answered .workshop (exec (.assignFeeder .workshop 0#8 4#8) yard) = some .notFound
      ∧ ((yard.bay 0).feeder = 0 ∧ answered .workshop (exec (.assignFeeder .workshop 0#8 0#8) yard) = some .ok)
      ∧ afterwards (exec (.assignFeeder .workshop 0#8 3#8) yard) (fun t => (t.bay 0).feeder) = some 3 := by
  decide

/-- The chain with n pinned and m planned entries of bay 7. -/
def chained (n m : Nat) : State :=
  { yard with seq := { yard.seq with chain := List.replicate n ⟨7, true, .waiting⟩ ++ List.replicate m ⟨7, false, .waiting⟩ } }

theorem test_hyps_PinWritten_PinRemoved :
    (yard.bay 0).state = .closed ∧ answered .workshop (exec (.pin .workshop 0#8) yard) = some .wrongState
      ∧ answered .workshop (exec (.pin .workshop 7#8) (chained 16 0)) = some .full
      ∧ answered .workshop (exec (.pin .workshop 7#8) (chained 0 64)) = some .full
      ∧ answered .workshop (exec (.pin .workshop 7#8) (chained 15 48)) = some .ok
      ∧ 16 ≤ (chained 16 0).seq.chain.countP (·.pinned)
      ∧ answered .workshop (exec (.unpin .workshop 2#8) yard) = some .notFound
      ∧ afterwards (exec (.unpin .workshop 1#8) yard) (·.seq.onSet) = some [⟨3, 4, 0, some 0⟩]
      ∧ afterwards (exec (.unpin .workshop 0#8) yard) (·.seq.onSet) = some [⟨3, 4, 0, none⟩]
      ∧ (({ yard with seq := { yard.seq with onSet := [⟨3, 4, 0, none⟩] } } : State).seq.member 3).map (·.entry) = some none := by
  decide

/-- Leaving the on-set: a member whose entry stands, and a bay that is no member. -/
theorem test_hyps_PinRemoved_leaving :
    (yard.seq.member 3).map (·.entry) = some (some 0)
      ∧ ((leaveOnSet 3 yard).seq.chain.map (·.status) = [.missed, .missed, .waiting] ∧ (leaveOnSet 3 yard).waits (· == .heat 3 false) = true)
      ∧ (leaveOnSet 3 (withPost 3 ⟨true, 3, none⟩ yard)).bus.waiting = []
      ∧ (yard.seq.member 7 = none ∧ leaveOnSet 7 yard = yard) := by
  decide +kernel

/-! ## Hypotheses met: defects -/

theorem test_hyps_DefectAcknowledged_DefectDeferred :
    (∀ b : BayNo, ∀ d ∈ yard.store.lists[b], d.id ≠ (4#16).toNat)
      ∧ answered .workshop (exec (.acknowledge .workshop 4#16) yard) = some .notFound
      ∧ (yard.store.find 1).map (fun x => (x.1, x.2.state)) = some (3, .opened)
      ∧ answered .workshop (exec (.acknowledge .workshop 1#16) yard) = some .ok
      ∧ answered .workshop (exec (.acknowledge .workshop 65535#16) yard) = some .wrongState
      ∧ answered .workshop (exec (.acknowledge .workshop 3#16) yard) = some .wrongState
      ∧ answered .workshop (exec (.defer .workshop 4#16 5#16) yard) = some .notFound
      ∧ answered .workshop (exec (.defer .workshop 1#16 0#16) yard) = some .okClamped
      ∧ answered .workshop (exec (.defer .workshop 1#16 1440#16) yard) = some .ok := by
  decide

theorem test_hyps_DefectClosed :
    answered .workshop (exec (.closeDefect .workshop 4#16) yard) = some .notFound
      ∧ answered .workshop (exec (.closeDefect .workshop 1#16) yard) = some .ok
      ∧ answered .workshop (exec (.closeDefect .workshop 3#16) yard) = some .ok
      ∧ answered .workshop (exec (.closeDefect .workshop 2#16) yard) = some .stillPresent := by
  decide

/-- The free list empty, and a bay's list of sixteen. -/
def noSlots : State := { yard with store := { yard.store with free := [] } }
def fullList : State := { yard with store := { yard.store with lists := yard.store.lists.set 3 (List.replicate 16 (entry 0 9 .fault 1 .note .opened none)) } }

theorem test_hyps_DefectEntered :
    answered .workshop (exec (.enterDefect .workshop 3#8 5#16 3#8) yard) = some .badCommand
      ∧ answered .workshop (exec (.enterDefect .workshop 2#8 5#16 2#8) yard) = some .wrongState
      ∧ answered .workshop (exec (.enterDefect .workshop 3#8 1#16 2#8) yard) = some .exists
      ∧ answered .workshop (exec (.enterDefect .workshop 3#8 0#16 2#8) yard) = some .exists
      ∧ answered .workshop (exec (.enterDefect .workshop 3#8 5#16 0#8) noSlots) = some .full
      ∧ answered .workshop (exec (.enterDefect .workshop 3#8 5#16 0#8) fullList) = some .full
      ∧ afterwards (exec (.enterDefect .workshop 4#8 5#16 0#8) yard) (fun t => (t.bay 4).state) = some .bound
      ∧ afterwards (exec (.enterDefect .workshop 3#8 5#16 1#8) yard) (·.seq.onSet) = some []
      ∧ answered .workshop (exec (.enterDefect .workshop 5#8 65535#16 2#8) yard) = some .okClamped
      ∧ (yard.store.free ≠ [] ∧ 1 ≤ yard.store.nextId ∧ yard.store.nextId ≤ 65535)
      ∧ freshId (yard.store.entries.map (·.id)) 96 65535 = 4 := by
  decide

/-! ## Hypotheses met: settings -/

theorem test_hyps_SettingsTaken :
    answered .dispatch (exec (.setWeather .dispatch (BitVec.ofInt 16 (-960))) yard) = some .ok
      ∧ answered .dispatch (exec (.setWeather .dispatch 641#16) yard) = some .okClamped
      ∧ answered .dispatch (exec (.setLampFreshness .dispatch 480#16) yard) = some .ok
      ∧ answered .dispatch (exec (.setLampFreshness .dispatch 14#16) yard) = some .okClamped
      ∧ answered .dispatch (exec (.setClearanceWindow .dispatch 5#8) yard) = some .ok
      ∧ answered .dispatch (exec (.setClearanceWindow .dispatch 61#8) yard) = some .okClamped
      ∧ answered .workshop (exec (.setScanPeriod .workshop 0#8) yard) = some .okClamped
      ∧ afterwards (exec (.setScanPeriod .workshop 9#8) yard) (fun t => (t.reader.scan[3], t.reader.scan[7])) = some (some 540000, some 1) := by
  decide +kernel

def slotAfter (v : Byte) : Option Nat :=
  afterwards (exec (.setPlanner .dispatch ⟨some v, none, none, none, none⟩) yard) (·.planner.slotLength)

theorem test_hyps_PlannerSet :
    answered .dispatch (exec (.setPlanner .dispatch ⟨some 15#8, some 2#8, none, none, none⟩) yard) = some .badCommand
      ∧ answered .dispatch (exec (.setPlanner .dispatch ⟨none, some 1#8, some 160#16, some 8#16, some 384#16⟩) yard) = some .ok
      ∧ answered .dispatch (exec (.setPlanner .dispatch ⟨none, none, some 161#16, none, none⟩) yard) = some .okClamped
      ∧ [slotAfter 0#8, slotAfter 22#8, slotAfter 23#8, slotAfter 37#8, slotAfter 38#8, slotAfter 52#8, slotAfter 53#8, slotAfter 255#8]
          = [some 15, some 15, some 30, some 30, some 45, some 45, some 60, some 60] := by
  decide

theorem test_hyps_FeedLimitsSet :
    answered .dispatch (exec (.setFeedLimits .dispatch ⟨some 96#8, some 48#8, none, none, none⟩) yard) = some .ok
      ∧ answered .dispatch (exec (.setFeedLimits .dispatch ⟨some 97#8, none, none, none, none⟩) yard) = some .okClamped
      ∧ answered .dispatch (exec (.setFeedLimits .dispatch ⟨none, none, none, none, some 49#8⟩) yard) = some .okClamped
      ∧ afterwards (exec (.setFeedLimits .dispatch ⟨some 3#8, none, none, none, none⟩) yard) (·.seq.onSet) = some []
      ∧ afterwards (exec (.setFeedLimits .dispatch ⟨some 4#8, none, none, none, none⟩) yard) (·.seq.onSet) = some [⟨3, 4, 0, some 0⟩]
      ∧ ((yard.seq.onSet.map (·.bay)).Nodup ∧ ({ yard.seq with total := 3 } : Sequencer).fixedExceed = false)
      ∧ afterwards (exec .feedAlarmAsserted yard) (fun t => (t.seq.onSet, t.seq.chain.map (·.status)))
          = some ([], [.missed, .missed, .waiting])
      ∧ afterwards (exec .feedAlarmReleased yard) (·.seq.feedAlarm) = some false := by
  decide

/-- Two members on feeder 1 before one on feeder 0, with these limits and stuck units of bay 9 on feeder 0. -/
def loaded (total feeder1 stuck : Nat) : State :=
  { yard with seq := { yard.seq with
    onSet := [⟨3, 4, 1, some 0⟩, ⟨1, 3, 1, some 1⟩, ⟨7, 4, 0, some 2⟩]
    total := total
    feeders := #v[48, feeder1, 48, 48]
    stuck := (Vector.replicate 24 none).set 9 (some ⟨stuck, 0⟩) } }

/-- A feeder over its limit, the total over it, both kept, and stuck units alone above the total. -/
theorem test_hyps_FeedLimitsSet_shed :
    ((shed (loaded 48 6 0)).seq.onSet.map (·.bay) = [3, 7] ∧ (shed (loaded 48 6 0)).seq.chain.map (·.status) = [.taken, .missed, .waiting])
      ∧ ((shed (loaded 10 48 0)).seq.onSet.map (·.bay) = [3, 1] ∧ (shed (loaded 10 48 0)).seq.chain.map (·.status) = [.taken, .missed, .missed])
      ∧ shed (loaded 11 7 0) = loaded 11 7 0
      ∧ ((shed (loaded 4 48 5)).seq.onSet = [] ∧ (loaded 4 48 5).seq.fixedExceed = true ∧ (loaded 4 48 4).seq.fixedExceed = false) := by
  decide +kernel

/-! ## Hypotheses met: the clock and the book -/

/-- Departure 2 at bay 3 and a later one of the same coach. -/
def twice103 (minute : Nat) : State :=
  withRecords [record 2 620 (some 103) .bound (some 3) none, record 8 minute (some 103) .booked none none] yard

/-- Departure 2 leaves and its bay is bound to the next of its coach, which stays, or which leaves in its turn. -/
theorem test_hyps_ClockSet_removals :
    afterwards (exec (.setClock .dispatch 860#16 0#8) (twice103 900)) (fun t => t.book.records.map fun d => (d.ref, d.state, d.bay))
        = some [(8, .bound, some 3)]
      ∧ afterwards (exec (.setClock .dispatch 860#16 0#8) (twice103 620)) (fun t => t.book.log.map fun x => (x.ref, x.bay))
          = some [(2, some 3), (8, some 3)] := by
  decide +kernel

/-- Nothing leaves; a pending clearance leaves with its departure. -/
theorem test_hyps_ClockSet_kept :
    afterwards (exec (.setClock .dispatch 859#16 0#8) (twice103 900)) (fun t => t.book.records.map fun d => (d.ref, d.bay, d.overdue))
        = some [(2, some 3, some ⟨239, 60000⟩), (8, none, none)]
      ∧ afterwards (exec (.setClock .dispatch 870#16 0#8) yard) (fun t => (t.clearance.pending.length, t.workshop.notices.clearance))
          = some (0, BaySet.single 6) := by
  decide +kernel

/-- Minutes ahead of 720 and 721, and 239 and 240 minutes past. -/
theorem test_hyps_ClockSet :
    answered .dispatch (exec (.setClock .dispatch 1439#16 59#8) yard) = some .ok
      ∧ answered .dispatch (exec (.setClock .dispatch 1440#16 0#8) yard) = some .okClamped
      ∧ answered .dispatch (exec (.setClock .dispatch 0#16 60#8) yard) = some .okClamped
      ∧ ((1320 + 1440 - 600) % 1440 = 720 ∧ (1320 + 1440 - 599) % 1440 = 721)
      ∧ afterwards (exec (.setClock .dispatch 600#16 0#8) yard) (·.book.records.length) = some 5
      ∧ afterwards (exec (.setClock .dispatch 599#16 0#8) yard) (fun t => (t.book.records.length, t.book.log.map (·.outcome)))
          = some (4, [.autoCancelled])
      ∧ afterwards (exec (.setClock .dispatch 859#16 0#8) yard) (fun t => (t.book.find 2).map (·.overdue)) = some (some (some ⟨239, 60000⟩))
      ∧ afterwards (exec (.setClock .dispatch 860#16 0#8) yard) (fun t => t.book.find 2) = some none
      ∧ afterwards (exec (.setClock .dispatch 860#16 0#8) yard) (fun t => (t.book.find 4).map (·.overdue)) = some (some (some ⟨260, 60000⟩)) := by
  decide

def booking (ref minute coach : Half) : BookArgs := ⟨ref, minute, some coach, some 288#16, some 240#8⟩

/-- Forty-eight records. -/
def fullBook : State := withRecords ((List.range 48).map fun i => record (i + 100) 700 none .booked none none) yard

theorem test_hyps_BookTaken :
    answered .dispatch (exec (.book .dispatch (booking 9#16 700#16 99#16)) State.reset) = some .clockUnset
      ∧ answered .dispatch (exec (.book .dispatch (booking 0#16 700#16 99#16)) yard) = some .badCommand
      ∧ answered .dispatch (exec (.book .dispatch (booking 65535#16 700#16 99#16)) yard) = some .exists
      ∧ answered .dispatch (exec (.book .dispatch (booking 9#16 700#16 99#16)) fullBook) = some .full
      ∧ answered .dispatch (exec (.book .dispatch (booking 9#16 1321#16 99#16)) yard) = some .outOfRange
      ∧ answered .dispatch (exec (.book .dispatch (booking 9#16 1320#16 99#16)) yard) = some .ok
      ∧ answered .dispatch (exec (.book .dispatch ⟨9#16, 600#16, some 0xFFFF#16, some 385#16, none⟩) yard) = some .okClamped
      ∧ afterwards (exec (.book .dispatch (booking 9#16 700#16 107#16)) yard) (fun t => (t.book.find 9).map (·.bay)) = some (some (some 7))
      ∧ afterwards (exec (.book .dispatch (booking 9#16 700#16 107#16)) { yard with book := { yard.book with nextBooking := 65536 } })
          (·.book.nextBooking) = some 7 := by
  decide

theorem test_hyps_AmendAssign :
    answered .dispatch (exec (.amend .dispatch ⟨9#16, none, .keep, none⟩) yard) = some .notFound
      ∧ answered .dispatch (exec (.amend .dispatch ⟨65535#16, some 600#16, .keep, none⟩) yard) = some .wrongState
      ∧ answered .dispatch (exec (.amend .dispatch ⟨65535#16, some 1321#16, .keep, none⟩) yard) = some .wrongState
      ∧ answered .dispatch (exec (.amend .dispatch ⟨1#16, some 1321#16, .keep, none⟩) yard) = some .outOfRange
      ∧ (720 < (1321 + 1440 - yard.clock.minute) % 1440)
      ∧ answered .dispatch (exec (.amend .dispatch ⟨2#16, some 1320#16, .remove, some 10#8⟩) yard) = some .ok
      ∧ answered .dispatch (exec (.amend .dispatch ⟨2#16, none, .set 159#16, none⟩) yard) = some .okClamped
      ∧ answered .dispatch (exec (.assignCoach .dispatch 9#16 107#16) yard) = some .notFound
      ∧ answered .dispatch (exec (.assignCoach .dispatch 2#16 107#16) yard) = some .wrongState
      ∧ afterwards (exec (.assignCoach .dispatch 1#16 107#16) yard) (fun t => (t.book.find 1).map (·.bay)) = some (some (some 7))
      ∧ afterwards (exec (.assignCoach .dispatch 1#16 0xFFFF#16) yard) (fun t => (t.book.find 1).map (·.coach)) = some (some none) := by
  decide

theorem test_hyps_CancelTaken :
    answered .dispatch (exec (.cancel .dispatch 9#16) yard) = some .notFound
      ∧ afterwards (exec (.cancel .dispatch 1#16) yard) (·.book.records.length) = some 4
      ∧ answered .dispatch (exec (.cancel .dispatch 2#16) yard) = some .ok
      ∧ afterwards (exec (.cancel .dispatch 65535#16) yard) (·.clearance.pending) = some []
      ∧ ((yard.bay 4).state = .cleared ∧ yard.clearance.signals[4] = .green)
      ∧ afterwards (exec (.cancel .dispatch 4#16) yard) (·.clearance.signals[4]) = some .red
      ∧ afterwards (exec (.cancel .dispatch 5#16) yard) (·.clearance.signals[5]) = some .alert
      ∧ afterwards (exec (.cancel .dispatch 4#16) yard) (fun t => t.flies (· == .signal 4 .red)) = some true
      ∧ afterwards (exec (.cancel .dispatch 4#16) (withPost 4 ⟨true, 3, some 2000⟩ yard)) (fun t => t.outstanding (Job.isSignalFor 4)) = some false := by
  decide

/-- The notices of a CLEARED departure's removal and of its bay's return. -/
theorem test_hyps_CancelTaken_notices :
    afterwards (exec (.cancel .dispatch 4#16) yard) (fun t => (t.workshop.notices.departure, t.workshop.notices.bay, t.book.boundTo 4))
      = some (BaySet.single 4, BaySet.single 4, none) := by
  decide

/-- Bay 7 waits for a departure of coach 107, and one stands in the book behind another. -/
theorem test_hyps_CancelTaken_bindFirst :
    (yard.bay 7).state = .bound ∧ yard.book.boundTo 7 = none ∧ (yard.bay 7).coach = some 107
      ∧ (∀ x ∈ [record 1 700 (some 99) .booked none none], ¬ (x.state = .booked ∧ x.coach = some 107))
      ∧ ((bindFirst 7 (withRecords [record 1 700 (some 99) .booked none none, record 8 700 (some 107) .booked none none] yard)).book.find 8).map
          (·.bay) = some (some 7)
      ∧ yard.book.boundTo 3 ≠ none ∧ (yard.bay 0).state ≠ .bound := by
  decide

/-! ## Hypotheses met: clearance -/

/-- Departure 2 at bay 3 made ready: lamp result fresh, read since binding, nothing standing; r and l take one of the two away. -/
def ready2 (read lamp : Bool) (s : State) : State :=
  { s with
    reader := { FaultReader.reset with readSince := (Vector.replicate 24 false).set 3 read }
    lamp := { s.lamp with results := (Vector.replicate 24 none).set 3 (if lamp then some ⟨.passed, 120 * 60000, none⟩ else none) } }

def reasonsOf (s : State) : ReasonSet := s.evaluate (record 2 620 (some 103) .bound (some 3) none) false

/-- Eight queued tests of other bays. -/
def fullQueue (s : State) : State :=
  { s with lamp := { s.lamp with queue := List.replicate 8 ⟨20, .routine⟩ } }

def asked2 (s : State) : Option Status := answered .dispatch (exec (.requestClearance .dispatch 2#16 false) s)

theorem test_hyps_ClearanceRequested :
    answered .dispatch (exec (.requestClearance .dispatch 9#16 false) yard) = some .notFound
      ∧ answered .dispatch (exec (.requestClearance .dispatch 1#16 false) yard) = some .ok
      ∧ answered .dispatch (exec (.requestClearance .dispatch 65535#16 true) yard) = some .merged
      ∧ answered .dispatch (exec (.requestClearance .dispatch 4#16 false) yard) = some .already := by
  decide

/-- A grant; a refusal at a held bay; a full queue; a read alone missing; a running test alone missing. -/
theorem test_hyps_ClearanceDecided :
    (reasonsOf (ready2 true true yard) = 0#12 ∧ asked2 (ready2 true true yard) = some .ok)
      ∧ (reasonsOf (withBay 3 { coachBay 103 .bound with hold := true } (ready2 true true yard)) &&& ~~~0x060#12 ≠ 0#12)
      ∧ (reasonsOf (ready2 true false (fullQueue yard)) = 0x020#12 ∧ (ready2 true false (fullQueue yard)).testActive 3 = false
        ∧ 8 ≤ (fullQueue yard).lamp.queue.length ∧ asked2 (ready2 true false (fullQueue yard)) = some .ok)
      ∧ (reasonsOf (ready2 false true yard) = 0x040#12 ∧ (yard.bay 3).plug = true ∧ (ready2 false true yard).reader.reading[3] = none
        ∧ asked2 (ready2 false true yard) = some .pending)
      ∧ (yard.evaluate (record 9 610 (some 108) .bound (some 8) none) false &&& ~~~0x060#12 = 0#12 ∧ yard.testActive 8 = true
        ∧ yard.lamp.queue.any (·.bay == 8) = false)
      ∧ yard.clearance.signals[3] ≠ .green := by
  decide

/-- Bay 8 with a departure whose lamp result alone is missing, while its test runs. -/
def runningTest8 : State :=
  { withRecords [record 9 610 (some 108) .bound (some 8) none] yard with
    reader := { FaultReader.reset with readSince := (Vector.replicate 24 false).set 8 true } }

theorem test_hyps_ClearanceDecided_running :
    runningTest8.evaluate (record 9 610 (some 108) .bound (some 8) none) false = 0x020#12
      ∧ answered .dispatch (exec (.requestClearance .dispatch 9#16 false) runningTest8) = some .pending := by
  decide

/-- The departure of bay 6 pending, its read made and its lamp result fresh or not. -/
def pending6 (read lamp : Bool) (s : State) : State :=
  { s with
    reader := { FaultReader.reset with readSince := (Vector.replicate 24 false).set 6 read }
    lamp := { s.lamp with results := (Vector.replicate 24 none).set 6 (if lamp then some ⟨.passed, 0, none⟩ else none) } }

def reading6 (s : State) : State := { s with reader := { s.reader with reading := s.reader.reading.set 6 (some Reading.start) } }

def heldAt6 (s : State) : State := withBay 6 { coachBay 106 .bound with hold := true } s

def stateOf (ref : Nat) (s : State) : Option DepartureState := (s.book.find ref).map (·.state)

/-- A pending completion that grants, that refuses for another reason, that stays for a read and for a queued test, and that refuses when
nothing runs for the reason. -/
theorem test_hyps_ClearanceDecided_completion :
    (yard.book.boundTo 6 = some (record 65535 630 (some 106) .clearing (some 6) none)
        ∧ yard.clearance.find 65535 = some ⟨65535, 6, false, 90000⟩)
      ∧ ((withRecords [record 65535 610 (some 106) .clearing (some 6) none] (pending6 true true yard)).evaluate
          (record 65535 610 (some 106) .clearing (some 6) none) false = 0#12
        ∧ stateOf 65535 (pendingCompletion 6 (withRecords [record 65535 610 (some 106) .clearing (some 6) none] (pending6 true true yard)))
          = some .cleared)
      ∧ stateOf 65535 (pendingCompletion 6 (heldAt6 (pending6 true true yard))) = some .bound
      ∧ stateOf 65535 (pendingCompletion 6 (withRecords [record 65535 610 (some 106) .clearing (some 6) none] (reading6 (pending6 false true yard))))
          = some .clearing
      ∧ stateOf 65535 (pendingCompletion 6 (withRecords [record 65535 610 (some 106) .clearing (some 6) none]
          { pending6 true false yard with lamp := { yard.lamp with queue := [⟨6, .urgent⟩] } })) = some .clearing
      ∧ stateOf 65535 (pendingCompletion 6 (withRecords [record 65535 610 (some 106) .clearing (some 6) none] (pending6 true false yard)))
          = some .bound := by
  decide

/-- Bay 6's departure is granted while these requests wait. -/
def grantedAt6 (ws : List Request) : State :=
  let s := withRecords [record 65535 610 (some 106) .clearing (some 6) none] (pending6 true true yard)
  pendingCompletion 6 { s with bus := { s.bus with waiting := ws } }

/-- A grant puts GREEN into the waiting SIGNAL or behind the others, takes the ident away and leaves the rest. -/
theorem test_hyps_ClearanceDecided_requests :
    (grantedAt6 [⟨.sense 3, 0⟩, ⟨.ident 6, 1⟩, ⟨.signal 6 .red, 2⟩, ⟨.ping 2, 3⟩]).bus.waiting
        = [⟨.sense 3, 0⟩, ⟨.signal 6 .green, 2⟩, ⟨.ping 2, 3⟩]
      ∧ (grantedAt6 [⟨.ident 7, 0⟩, ⟨.signal 7 .red, 1⟩]).bus.waiting
        = [⟨.ident 7, 0⟩, ⟨.signal 7 .red, 1⟩, ⟨.signal 6 .green, yard.bus.event⟩] := by
  decide

/-- NOT_BOUND; the cabin at Tt - tolerance and below it, its age at 30 and 31 s; the window of 20 minutes at 20 and 21. -/
theorem test_hyps_Conditions :
    yard.evaluate (record 1 700 none .booked none none) false = 0x001#12
      ∧ yard.evaluate (record 1 700 none .bound (some 4) none) false = 0x001#12
      ∧ (reasonsOf (withBay 3 { coachBay 103 .bound with cabin := some ⟨256, 30999⟩ } yard)).getLsbD 7 = false
      ∧ (reasonsOf (withBay 3 { coachBay 103 .bound with cabin := some ⟨255, 31000⟩ } yard)) &&& 0x180#12 = 0x180#12
      ∧ (yard.evaluate (record 2 620 (some 103) .bound (some 3) none) true).getLsbD 9 = false
      ∧ (yard.evaluate (record 2 621 (some 103) .clearing (some 3) none) true).getLsbD 9 = true := by
  decide

/-- Revocations from CLEARED and LEAVING, an overdue record at 239 and at 240 minutes, a SILENT post; WITHDRAW in every state. -/
theorem test_hyps_RevocationTaken :
    (∀ d ∈ yard.book.records, d.bay = some 3 → d.state ≠ .cleared)
      ∧ (yard.book.boundTo 5 = some (record 5 599 (some 105) .cleared (some 5) (some ⟨239, 60000⟩)))
      ∧ ((yard.bay 5).state ∈ [.cleared, .leaving] ∧ (yard.bay 4).state ∈ [.cleared, .leaving] ∧ yard.clearance.signals[5] = .green)
      ∧ (reportToClearance 5 yard).book.records.length = 5
      ∧ (reportToClearance 5 (withRecords [record 5 599 (some 105) .cleared (some 5) (some ⟨240, 60000⟩)] yard)).book.records = []
      ∧ (withPost 4 ⟨true, 3, some 2000⟩ yard).bus.posts[4].silent = true
      ∧ ((reportToClearance 5 yard).bus.waiting = [⟨.signal 5 .alert, 0⟩]
        ∧ (reportToClearance 4 (placeJob (.signal 4 .green) yard)).bus.waiting = [⟨.signal 4 .red, 0⟩])
      ∧ answered .dispatch (exec (.withdrawClearance .dispatch 9#16) yard) = some .notFound
      ∧ answered .dispatch (exec (.withdrawClearance .dispatch 1#16) yard) = some .wrongState
      ∧ answered .dispatch (exec (.withdrawClearance .dispatch 2#16) yard) = some .wrongState
      ∧ answered .dispatch (exec (.withdrawClearance .dispatch 65535#16) yard) = some .ok
      ∧ afterwards (exec (.withdrawClearance .dispatch 4#16) yard) (·.clearance.signals[4]) = some .red := by
  decide

theorem test_hyps_Restarted :
    yard.book.log.length ≤ 16 ∧ ((3 : BayNo).val < yard.bayCount ∧ (yard.bay 3).state ∈ [.bound, .cleared, .leaving])
      ∧ (yard.bay 2).state ∉ [.bound, .cleared, .leaving]
      ∧ afterwards (exec (.depotRestart .dispatch) yard) (fun t => (t.book.records, (t.bay 5).state, (t.bay 5).coach))
          = some ([], .arrived, none) := by
  decide +kernel

/-- The log's sequence numbers pass 65535 on to 0. -/
theorem test_hyps_Restarted_log :
    afterwards (exec (.depotRestart .dispatch) { yard with book := { yard.book with nextSequence := 65534 } })
        (fun t => (t.book.log.map (·.sequence), t.book.nextSequence)) = some ([65534, 65535, 0, 1, 2], 3) := by
  decide +kernel

/-- The tests of the yard are for bays torn down: engine 0 runs bay 8's, engine 1 goes on releasing; bay 4's signal was GREEN. -/
theorem test_hyps_Restarted_lamps :
    yard.lamp.queue = [] ∧ (yard.bay 8).state ∈ [.bound, .cleared, .leaving] ∧ yard.clearance.signals[4] ≠ .red
      ∧ afterwards (exec (.depotRestart .dispatch) yard) (fun t => (t.lamp.engines, t.lamp.queue)) = some (#v[.releasing 8, .releasing 9], [])
      ∧ afterwards (exec (.depotRestart .dispatch) (withPost 8 ⟨true, 3, none⟩ yard)) (fun t => t.lamp.engines[0]) = some .free
      ∧ afterwards (exec (.depotRestart .dispatch) yard) (fun t => t.bus.wire) = some (.busy ⟨.allOff, false, none, false⟩)
      ∧ afterwards (exec (.depotRestart .dispatch) yard) (fun t => (t.dispatch.notices.lamp, t.dispatch.notices.clearance))
          = some (BaySet.single 8, BaySet.single 6) := by
  decide +kernel

/-! ## Hypotheses met: lamp tests -/

theorem test_hyps_LampTestAsked :
    answered .workshop (exec (.requestLampTest .workshop 2#8) yard) = some .wrongState
      ∧ answered .workshop (exec (.requestLampTest .workshop 8#8) yard) = some .merged
      ∧ answered .workshop (exec (.requestLampTest .workshop 3#8) (fullQueue yard)) = some .queueFull
      ∧ afterwards (exec (.requestLampTest .workshop 3#8) yard) (·.lamp.queue) = some [⟨3, .routine⟩]
      ∧ (idleEngines.lamp.queue = [] ∧ idleEngines.lamp.engines[0] = .free ∧ idleEngines.lamp.engines[1] = .free)
      ∧ ((withBay 3 { coachBay 103 .bound with cls := none } idleEngines).classOf 3 = none
        ∧ ∀ d ∈ idleEngines.book.records, d.bay = some 3 → d.state ≠ .clearing)
      ∧ (idleEngines.classOf 3 = some class3 ∧ class3.lamps[4].isSome ∧ (∀ i : Fin 16, i < 4 → class3.lamps[i] = none))
      ∧ afterwards (exec (.requestLampTest .workshop 3#8) idleEngines) (fun t => t.lamp.engines[0].testing) = some (some 3)
      ∧ (∀ e : EngineNo, yard.lamp.engines[e] ≠ .free)
      ∧ answered .workshop (exec (.abortLampTest .workshop 3#8) yard) = some .notFound
      ∧ afterwards (exec (.abortLampTest .workshop 20#8) (fullQueue yard)) (·.lamp.queue) = some []
      ∧ (yard.lamp.engines[0] = .running testOf8 ∧ yard.lamp.queue = [] ∧ yard.bus.posts[8].silent = false)
      ∧ afterwards (exec (.abortLampTest .workshop 8#8) yard) (·.lamp.engines[0]) = some (.releasing 8) := by
  decide +kernel

def lampReason (b : BayNo) (s : State) : Option (Option LampOutcome) :=
  afterwards (exec (.requestLampTest .workshop (BitVec.ofNat 8 b.val)) s) fun t => t.lamp.results[b].map (·.outcome)

/-- Each test that cannot run. -/
theorem test_hyps_LampTestAsked_fails :
    lampReason 3 (withBay 3 { coachBay 103 .bound with cls := none } idleEngines) = some (some (.incomplete .noClass))
      ∧ lampReason 3 { idleEngines with classes := (Vector.replicate 16 none).set 3 (some { class3 with lamps := Vector.replicate 16 none }) }
          = some (some (.incomplete .noLampSet))
      ∧ lampReason 3 (withBay 3 { coachBay 103 .bound with plug := false } idleEngines) = some (some (.incomplete .noPlug))
      ∧ lampReason 3 (withPost 3 ⟨true, 3, none⟩ idleEngines) = some (some (.incomplete .postSilent)) := by
  decide

/-- Circuit 4 judged, BLOCK, and circuit 13 not yet. -/
def half8 : State :=
  { yard with lamp := { yard.lamp with engines := yard.lamp.engines.set 0 (.running
      { testOf8 with circuit := 13, settling := none, results := testOf8.results.set 4 (.high 200 .block) }) } }

/-- The abort of a running test: the circuit judged is merged; the engine is FREE at once on a SILENT post and takes the next entry. -/
theorem test_hyps_LampTestAsked_abort :
    (withPost 8 ⟨true, 3, none⟩ half8).bus.posts[8].silent = true
      ∧ afterwards (exec (.abortLampTest .workshop 8#8) half8) (fun t => (t.store.lists[8].map (·.code), t.lamp.engines[0], t.flies (· == .lampEnd 0 8)))
          = some ([4], .releasing 8, true)
      ∧ afterwards (exec (.abortLampTest .workshop 8#8) (withPost 8 ⟨true, 3, none⟩ { half8 with lamp := { half8.lamp with queue := [⟨3, .routine⟩] } }))
          (fun t => (t.lamp.engines[0].testing, t.lamp.queue, t.outstanding (· == .lampEnd 0 8))) = some (some 3, [], false) := by
  decide +kernel

/-- A queue of two URGENT entries and two ROUTINE ones. -/
def mixedQueue : State :=
  { yard with lamp := { yard.lamp with queue := [⟨4, .urgent⟩, ⟨5, .urgent⟩] ++ [⟨7, .routine⟩, ⟨3, .routine⟩] } }

/-- A binding's request: no coach, a test known, a full queue, and room. -/
theorem test_hyps_LampTestAsked_auto :
    (yard.bay 2).state = .arrived ∧ requestAutoTest 2 yard = yard ∧ requestAutoTest 8 yard = yard ∧ requestAutoTest 3 mixedQueue = mixedQueue
      ∧ (requestAutoTest 3 (fullQueue yard)).workshop.notices.lamp = BaySet.single 3
      ∧ (requestAutoTest 3 (fullQueue yard)).lamp = (fullQueue yard).lamp
      ∧ (requestAutoTest 3 yard).lamp.queue = [⟨3, .routine⟩] := by
  decide +kernel

/-- URGENT for a bay with a ROUTINE entry, with an URGENT one, with a running test, with none; a full queue; a bay with no coach. -/
theorem test_hyps_LampTestAsked_urgent :
    ((requestTest 3 .urgent mixedQueue).1.lamp.queue = [⟨4, .urgent⟩, ⟨5, .urgent⟩, ⟨3, .urgent⟩, ⟨7, .routine⟩]
        ∧ (requestTest 3 .urgent mixedQueue).2 = .merged)
      ∧ requestTest 5 .urgent mixedQueue = (mixedQueue, .merged)
      ∧ requestTest 8 .urgent mixedQueue = (mixedQueue, .merged)
      ∧ ((requestTest 6 .urgent mixedQueue).1.lamp.queue = [⟨4, .urgent⟩, ⟨5, .urgent⟩, ⟨6, .urgent⟩, ⟨7, .routine⟩, ⟨3, .routine⟩]
        ∧ (requestTest 6 .urgent mixedQueue).2 = .ok)
      ∧ requestTest 6 .urgent (fullQueue yard) = (fullQueue yard, .queueFull)
      ∧ requestTest 2 .urgent mixedQueue = (mixedQueue, .wrongState)
      ∧ ((∀ e : EngineNo, mixedQueue.lamp.engines[e] ≠ .free) ∧ takeAll mixedQueue = mixedQueue) := by
  decide +kernel

/-- Engines and a queue put into the yard. -/
def queued (x y : Engine) (q : List QueueEntry) : State := { yard with lamp := { yard.lamp with engines := #v[x, y], queue := q } }

def testing (s : State) : List (Option BayNo) := (takeAll s).lamp.engines.toList.map Engine.testing

def passing9 : State := queued .free (.releasing 9) [⟨9, .urgent⟩, ⟨3, .routine⟩, ⟨7, .routine⟩]

def unclassed3 : State := withBay 3 { coachBay 103 .bound with cls := none } (queued .free (.releasing 9) [⟨3, .routine⟩, ⟨7, .routine⟩])

/-- One FREE engine passes over a bay being released; two take two entries, engine 0 the first; one not testable is followed by the next. -/
theorem test_hyps_LampTestAsked_takes :
    (passing9.underTest 9 = true ∧ passing9.underTest 3 = false ∧ (passing9.lamp.queue.map (·.bay)).Nodup)
      ∧ (testing passing9 = [some 3, none] ∧ (takeAll passing9).lamp.queue = [⟨9, .urgent⟩, ⟨7, .routine⟩])
      ∧ testing (queued .free .free [⟨3, .routine⟩, ⟨7, .routine⟩]) = [some 3, some 7]
      ∧ testing (queued (.releasing 9) .free [⟨3, .routine⟩, ⟨7, .routine⟩]) = [none, some 3]
      ∧ (testing unclassed3 = [some 7, none] ∧ (takeAll unclassed3).lamp.results[3].map (·.outcome) = some (.incomplete .noClass)) := by
  decide +kernel

/-- The test of bay 8 at its last circuit. -/
def lastCircuit : State :=
  { yard with lamp := { yard.lamp with engines := yard.lamp.engines.set 0 (.running { testOf8 with circuit := 13, settling := none }) } }

def steps (c : Fin 16) : State := flying (.lampStep 0 8 c) false false yard
def reads (c : Fin 16) (s : State) : State := flying (.lampRead 0 8 c) false false s
def reply8 (k : PostKind) (st : PostStatus) (p : PostPayload) : Instr := .postResponse (replyOf 8#8 k st p) .failureFirst
def outcome8 (o : Host.Outcome State Fault Refusal) : Option (Option LampOutcome) :=
  afterwards o fun t => t.lamp.results[8].map (·.outcome)

/-- The windows' ends: 150 and 151, 50 and 49. -/
theorem test_hyps_LampSteps :
    (testOf8.settling = some 200 ∧ afterwards (exec (.settleTimerExpiry 0) yard) (fun t => t.flies (Job.isStepOf 0)) = some true)
      ∧ afterwards (exec (.settleTimerExpiry 1) yard) (·.lamp.engines[1]) = some (.releasing 9)
      ∧ afterwards (exec (reply8 .lampStep .ok .empty) (steps 4)) (·.lamp.engines[0]) = some (.running testOf8)
      ∧ lamps[4] = some ⟨50, 150, .block⟩
      ∧ afterwards (exec (reply8 .lampRead .ok (.current 150#16)) (reads 4 yard)) (fun t => t.flies (· == .lampStep 0 8 13)) = some true
      ∧ ((4 : Fin 16) < 13 ∧ lamps[13].isSome ∧ (∀ d : Fin 16, 4 < d → d < 13 → lamps[d] = none) ∧ ∀ c : Fin 16, 13 < c → lamps[c] = none)
      ∧ outcome8 (exec (reply8 .lampRead .ok (.current 50#16)) (reads 13 lastCircuit)) = some (some .passed)
      ∧ outcome8 (exec (reply8 .lampRead .ok (.current 49#16)) (reads 13 lastCircuit)) = some (some .passedWithNotes)
      ∧ outcome8 (exec (reply8 .lampRead .ok (.current 151#16)) (reads 13 lastCircuit)) = some (some .passedWithNotes)
      ∧ outcome8 (exec (reply8 .lampStep .noCoach .empty) (steps 4)) = some (some (.incomplete .noCoach))
      ∧ outcome8 (exec (reply8 .lampRead .harnessFault .empty) (reads 13 lastCircuit)) = some (some (.incomplete .harnessFault))
      ∧ afterwards (exec (.postResponse (replyOf 9#8 .lampEnd .noCoach .empty) .failureFirst) (flying (.lampEnd 1 9) false false yard)) (·.lamp.engines[1])
          = some .free := by
  decide +kernel

theorem test_hyps_LampSteps_failed :
    outcome8 (exec (reply8 .lampRead .ok (.current 151#16)) (reads 13 { lastCircuit with lamp := { lastCircuit.lamp with
      engines := lastCircuit.lamp.engines.set 0 (.running { testOf8 with
        circuit := 13, settling := none, results := testOf8.results.set 4 (.low 49 .block) }) } })) = some (some .failed) := by
  decide +kernel

/-! ## Hypotheses met: fault reading -/

theorem test_hyps_FaultReadAsked :
    answered .dispatch (exec (.requestFaultRead .dispatch 2#8) yard) = some .wrongState
      ∧ answered .dispatch (exec (.requestFaultRead .dispatch 3#8) yard) = some .merged
      ∧ afterwards (exec (.requestFaultRead .dispatch 7#8) yard) (fun t => t.reader.reading[7].isSome) = some true
      ∧ (yard.reader.scan[0] = none ∧ yard.reader.scan[3] ≠ none ∧ yard.reader.reading[3] ≠ none)
      ∧ afterwards (exec (.scanCountdownExpiry 7) yard) (fun t => (t.reader.scan[7], t.reader.reading[7].isSome)) = some (some 600000, true)
      ∧ ((yard.bay 5).plug = false ∧ (startRead 5 yard).reader.last[5].map (·.outcome) = some (.failed .noPlug))
      ∧ (startRead 7 (withPost 7 ⟨true, 3, none⟩ yard)).reader.last[7].map (·.outcome) = some (.failed .postSilent) := by
  decide

/-- A read of bay 3 at a page, with restarts behind it, and a page of version v arriving. -/
def pageAt (page restarts : Nat) (v : Byte) (more : Bool) : Host.Outcome State Fault Refusal :=
  exec (.postResponse (replyOf 3#8 .faultPage .ok (.page v (records 4) more)) .failureFirst) (flying (.faultPage 3 page) false false
    { yard with reader := { yard.reader with
      reading := (Vector.replicate 24 none).set 3 (some ⟨page, if page = 0 then none else some (5, 2), restarts, [⟨9, 1, 1⟩], 8⟩) } })

def readAfter (o : Host.Outcome State Fault Refusal) : Option (Option Nat × Option ReadOutcome) :=
  afterwards o fun t => (t.reader.reading[3].map (·.page), t.reader.last[3].map (·.outcome))

/-- Pages 0, 6 and 7, the third restart and the fourth disagreement. -/
theorem test_hyps_PagesTaken :
    readAfter (pageAt 1 2 6#8 true) = some (some 0, none)
      ∧ readAfter (pageAt 1 3 6#8 true) = some (none, some .unstable)
      ∧ readAfter (pageAt 0 3 6#8 false) = some (none, some .complete)
      ∧ readAfter (pageAt 7 0 5#8 true) = some (none, some .truncated)
      ∧ readAfter (pageAt 6 0 5#8 true) = some (some 7, none)
      ∧ (records 4).length ≤ 4
      ∧ (takeRecord ⟨0xFFFF#16, 1#8, 1#8⟩ = none ∧ takeRecord ⟨0xFFFE#16, 4#8, 255#8⟩ = some ⟨65534, 3, 255⟩)
      ∧ ([⟨9, 1, 1⟩, ⟨8, 0, 1⟩].map (Gathered.code)).Nodup
      ∧ ({ FaultReader.reset with rules := (Vector.replicate 32 none).set 1 (some ⟨5, 9, .inhibit⟩) } : FaultReader).actionOf ⟨9, 3, 1⟩ = .inhibit
      ∧ (FaultReader.reset.actionOf ⟨9, 3, 1⟩ = .block ∧ FaultReader.reset.actionOf ⟨9, 2, 1⟩ = .note) := by
  decide +kernel

/-- The codes on bay 3's list after a page of four records of code 1: merged at COMPLETE and TRUNCATED, not at UNSTABLE. -/
theorem test_hyps_PagesTaken_merge :
    afterwards (pageAt 0 3 6#8 false) (fun t => t.store.lists[3].map (·.code)) = some [1, 9, 1]
      ∧ afterwards (pageAt 7 0 5#8 true) (fun t => (t.store.lists[3].map (·.code), t.dispatch.notices.defect)) = some ([1, 9, 1], BaySet.single 3)
      ∧ afterwards (pageAt 1 3 6#8 true) (fun t => t.store == yard.store) = some true := by
  decide +kernel

/-- NO_COACH and HARNESS_FAULT, and a page for a read that has ended. -/
theorem test_hyps_PagesTaken_refused :
    readAfter (exec (.postResponse (replyOf 3#8 .faultPage .noCoach .empty) .failureFirst) (flying (.faultPage 3 7) false false yard))
        = some (none, some (.failed .noCoach))
      ∧ readAfter (exec (.postResponse (replyOf 3#8 .faultPage .harnessFault .empty) .failureFirst) (flying (.faultPage 3 7) false false yard))
          = some (none, some (.failed .harnessFault))
      ∧ (yard.reader.reading[7] = none ∧ afterwards (exec (.postResponse (replyOf 7#8 .faultPage .ok (.page 0#8 [] false)) .failureFirst)
          (flying (.faultPage 7 0) false false yard)) (fun t => (t.bus.wire, t.reader == yard.reader)) = some (.free, true)) := by
  decide

/-! ## Hypotheses met: sense records, identification, teardown -/

def sensed (b : BayNo) (cabin : Option Int) (current plug occupied : Bool) (s : State) : Host.Outcome State Fault Refusal :=
  exec (.postResponse (replyOf (BitVec.ofNat 8 b.val) .sense .ok (.sense ⟨cabin, current, plug, plug, occupied⟩)) .failureFirst)
    (flying (.sense b) false false s)

def bayAfter (b : BayNo) (o : Host.Outcome State Fault Refusal) : Option (BayState × Bool × Option Bool) :=
  afterwards o fun t => ((t.bay b).state, (t.bay b).occupied, (t.bay b).candidate)

/-- Bay 1 with a candidate; bay 3 with CLEAR as candidate; both occupancies, both plugs. -/
theorem test_hyps_SenseTaken :
    ((yard.bay 0).sense = none ∧ afterwards (exec (.senseCountdownExpiry 1) yard) (fun t => t.flies (Job.isSenseFor 1)) = some true)
      ∧ afterwards (exec (.senseCountdownExpiry 1) (withPost 1 ⟨true, 3, none⟩ yard)) (fun t => t.flies (Job.isSenseFor 1)) = some false
      ∧ bayAfter 0 (sensed 0 none false true true yard) = some (.closed, false, none)
      ∧ bayAfter 1 (sensed 1 (some 0) false false true yard) = some (.empty, false, some true)
      ∧ bayAfter 1 (sensed 1 (some 0) false false true (withBay 1 { yard.bay 1 with candidate := some true } yard)) = some (.arrived, true, none)
      ∧ bayAfter 3 (sensed 3 (some 0) true true true (withBay 3 { yard.bay 3 with candidate := some false } yard)) = some (.bound, true, none)
      ∧ bayAfter 3 (sensed 3 (some 0) true true false (withBay 3 { yard.bay 3 with candidate := some false } yard)) = some (.empty, false, none) := by
  decide

/-- The plug drawn and engaged, and the cabin readings beyond their range. -/
theorem test_hyps_SenseTaken_plug :
    bayAfter 4 (sensed 4 (some 1601) false false true yard) = some (.leaving, true, none)
      ∧ bayAfter 5 (sensed 5 (some (-961)) false true true yard) = some (.cleared, true, none)
      ∧ afterwards (sensed 7 none false false true yard) (fun t => (t.bay 7).cabinAtUnplug) = some (some 288)
      ∧ (yard.seq.commanded[4].on = false ∧ yard.seq.stuck[4] = none ∧ yard.engineTesting 4 = none
        ∧ ∀ d ∈ yard.book.records, d.bay = some 4 → d.state ≠ .clearing) := by
  decide

/-- A bay whose occupancy the next record finds CLEAR. -/
def leaves (b : BayNo) (s : State) : State := withBay b { s.bay b with candidate := some false } s

/-- The last log entry is this departure's, GONE with this anomaly and cabin at unplug, and the notice says the same. -/
def gone (ref : Nat) (anomaly : Bool) (cabin : Option Int) (o : Host.Outcome State Fault Refusal) : Bool :=
  match o with
  | .next t => t.dispatch.notices.anomaly == anomaly && t.book.log.getLast?.any fun e =>
      e.ref == ref && e.outcome == .gone && e.plugAnomaly == anomaly && e.cabinAtUnplug == cabin
  | .fault _ | .refused _ => false

/-- Exits from BOUND with a departure, with a CLEARING one and with none. -/
theorem test_hyps_SenseTaken_exits :
    (yard.seq.commanded[3].on = true ∧ yard.seq.stuck[3] = none ∧ yard.engineTesting 3 = none ∧ yard.lamp.queue = [])
      ∧ (yard.book.boundTo 3 = some (record 2 620 (some 103) .bound (some 3) none)
        ∧ (yard.book.records.filter (·.bay == some 3)).map (·.ref) = [2])
      ∧ afterwards (sensed 3 none true true false (leaves 3 yard)) (fun t => (stateOf 2 t, (t.book.find 2).map (·.bay))) = some (some .booked, some none)
      ∧ afterwards (sensed 6 none false true false (leaves 6 yard)) (fun t => (stateOf 65535 t, t.clearance.pending)) = some (some .booked, [])
      ∧ ((∀ d ∈ yard.book.records, d.bay ≠ some 7)
        ∧ afterwards (sensed 7 none false true false (leaves 7 yard)) (fun t => t.book == yard.book) = some true) := by
  decide +kernel

/-- Exits from CLEARED with the plug in, with the plug drawn in the same record, from LEAVING, and from LEAVING with the plug returned. -/
theorem test_hyps_SenseTaken_gone :
    gone 4 true none (sensed 4 none false true false (leaves 4 yard)) = true
      ∧ gone 4 false (some 300) (sensed 4 (some 300) false false false (leaves 4 yard)) = true
      ∧ gone 5 false (some 77) (sensed 5 none false false false (leaves 5 (withBay 5 { coachBay 105 .leaving with cabinAtUnplug := some 77 } yard)))
          = true
      ∧ gone 5 true none (sensed 5 none false true false (leaves 5 yard)) = true := by
  decide +kernel

/-- The plug drawn in BOUND: a read in progress, a test running, and neither. -/
theorem test_hyps_SenseTaken_losses :
    ((yard.bay 3).state = .bound ∧ (yard.bay 3).plug = true ∧ yard.store.marks[3].post = false ∧ (yard.bay 3).occupied = true)
      ∧ afterwards (sensed 3 none true false true yard) (fun t => t.reader.last[3].map (·.outcome)) = some (some (.failed .plugRemoved))
      ∧ ((∀ e : EngineNo, yard.lamp.engines[e].testing ≠ some 3) ∧ (losePlug 3 yard).seq.onSet = [])
      ∧ (yard.lamp.engines[0] = .running testOf8 ∧ (losePlug 8 yard).lamp.engines[0] = .releasing 8)
      ∧ losePlug 7 yard = yard := by
  decide +kernel

/-- A bay's POST mark set. -/
def postMarked (b : BayNo) (s : State) : State :=
  { s with store := { s.store with marks := s.store.marks.set b ⟨false, false, true⟩ } }

/-- Ten seconds after the command and one millisecond before. -/
theorem test_hyps_SenseTaken_checks :
    (10000 ≤ ({ yard with now := 10000 } : State).now - yard.seq.commanded[4].since ∧ ¬ 10000 ≤ ({ yard with now := 9999 } : State).now - yard.seq.commanded[4].since)
      ∧ (checkCurrent 4 true { yard with now := 10000 }).seq.stuck[4] = some ⟨4, 0⟩
      ∧ (checkCurrent 4 true { yard with now := 9999 }).seq.stuck[4] = none
      ∧ (checkCurrent 3 false { yard with now := 10000 }).seq.onSet = []
      ∧ ((checkCurrent 3 true (postMarked 3 yard)).store.marks[3].post = false ∧ (checkCurrent 4 false (postMarked 4 yard)).store.marks[4].post = false)
      ∧ checkCurrent 3 true (postMarked 3 { yard with now := 9999 }) = postMarked 3 { yard with now := 9999 } := by
  decide +kernel

/-- What a bay's ident is at: whether a request waits, its retry timer, its conflict. -/
def identOfBay (b : BayNo) (s : State) : Bool × Option Nat × Bool := (s.waits (· == .ident b), (s.bay b).retry, (s.bay b).conflict)

/-- Bay 2 in ARRIVED with its plug drawn, in conflict, an ident waiting. -/
def drawn2 (plug : Bool) : State :=
  placeJob (.ident 2) (withBay 2 { yard.bay 2 with plug := plug, retry := some 5, conflict := true } yard)

/-- The plug engaged in ARRIVED at a RESPONDING and at a SILENT post, in BOUND, CLOSED and LEAVING; drawn in ARRIVED, CLEARED and EMPTY. -/
theorem test_hyps_SenseTaken_idents :
    identOfBay 2 (takePlug 2 true (withBay 2 { yard.bay 2 with plug := false, retry := none } yard)) = (true, none, false)
      ∧ identOfBay 2 (takePlug 2 true (withPost 2 ⟨true, 3, none⟩ (withBay 2 { yard.bay 2 with plug := false, retry := none } yard)))
          = (false, some 30000, false)
      ∧ identOfBay 7 (takePlug 7 true (withBay 7 { coachBay 107 .bound with plug := false } yard)) = (true, none, false)
      ∧ (takePlug 0 true yard).bus.waiting = [] ∧ ((takePlug 5 true yard).bay 5).state = .cleared
      ∧ identOfBay 2 (takePlug 2 false (drawn2 true)) = (false, none, false)
      ∧ identOfBay 2 (takePlug 2 false (withBay 2 { yard.bay 2 with retry := some 5 } yard)) = (false, none, false)
      ∧ ((takePlug 4 false yard).bay 4).state = .leaving ∧ ((takePlug 1 false (withBay 1 { yard.bay 1 with plug := true } yard)).bay 1).plug = false
      ∧ takePlug 3 true yard = yard := by
  decide +kernel

/-- The coach link coming UP with the retry timer running and without; OCCUPIED in EMPTY with the plug in and out; CLEAR in ARRIVED. -/
theorem test_hyps_SenseTaken_link_and_occupancy :
    identOfBay 2 (takeLink 2 true yard) = (true, none, false)
      ∧ identOfBay 2 (takeLink 2 true (withBay 2 { yard.bay 2 with retry := none } yard)) = (false, none, false)
      ∧ identOfBay 7 (takeLink 7 true (withBay 7 { coachBay 107 .bound with link := false, unconfirmed := true, retry := some 1 } yard))
          = (true, none, false)
      ∧ identOfBay 1 (takeOccupancy 1 true (withBay 1 { yard.bay 1 with candidate := some true, plug := true } yard)) = (true, none, false)
      ∧ identOfBay 1 (takeOccupancy 1 true (withBay 1 { yard.bay 1 with candidate := some true } yard)) = (false, none, false)
      ∧ (((takeOccupancy 2 false (placeJob (.ident 2) (withBay 2 { yard.bay 2 with candidate := some false, conflict := true } yard))).bay 2).state = .empty
        ∧ identOfBay 2 (takeOccupancy 2 false (placeJob (.ident 2) (withBay 2 { yard.bay 2 with candidate := some false, conflict := true } yard)))
            = (false, none, false))
      ∧ ((takeOccupancy 3 true (withBay 3 { yard.bay 3 with candidate := some false } yard)).bay 3).candidate = none
      ∧ ((takeOccupancy 3 false yard).bay 3).candidate = some false := by
  decide +kernel

/-- The POST findings that the current checks hand on: current while OFF, none while ON, and the end of stuck units. -/
theorem test_hyps_SenseTaken_findings :
    (checkCurrent 4 true { yard with now := 10000 }).store.lists[4].map (fun d => (d.source, d.code, d.present)) = [(.post, 2, some true)]
      ∧ (checkCurrent 3 false yard).store.lists[3].map (fun d => (d.source, d.code)) = [(.manual, 1), (.fault, 9), (.post, 1)]
      ∧ (checkCurrent 4 false (checkCurrent 4 true { yard with now := 10000 })).store.lists[4].map (·.present) = [some false]
      ∧ checkCurrent 4 true (checkCurrent 4 true { yard with now := 10000 }) = checkCurrent 4 true { yard with now := 10000 } := by
  decide +kernel

/-- Bay 7 re-engaged and not yet confirmed. -/
def unconfirmed7 : State := withBay 7 { coachBay 107 .bound with unconfirmed := true } yard

def identified (b : BayNo) (st : PostStatus) (p : PostPayload) (s : State) : Option (BayState × Option Nat × Bool) :=
  afterwards (exec (.postResponse (replyOf (BitVec.ofNat 8 b.val) .ident st p) .failureFirst) (flying (.ident b) false false s)) fun t =>
    ((t.bay b).state, (t.bay b).coach, (t.bay b).conflict)

theorem test_hyps_IdentTaken :
    ((yard.bay 0).retry = none ∧ afterwards (exec (.identRetryExpiry 2) yard) (fun t => t.flies (Job.isIdentFor 2)) = some true)
      ∧ afterwards (exec (.identRetryExpiry 2) (withPost 2 ⟨true, 3, none⟩ yard)) (fun t => (t.bay 2).retry) = some (some 30000)
      ∧ afterwards (exec (.identRetryExpiry 3) (withBay 3 { coachBay 103 .bound with retry := some 1 } yard)) (fun t => (t.bay 3).retry)
          = some none
      ∧ identified 2 .ok (.coach 0#16 3#8) yard = some (.arrived, none, false)
      ∧ identified 2 .noCoach .empty yard = some (.arrived, none, false)
      ∧ identified 2 .ok (.coach 0xFFFE#16 15#8) yard = some (.bound, some 65534, false)
      ∧ identified 2 .ok (.coach 1#16 16#8) yard = some (.bound, some 1, false)
      ∧ identified 2 .ok (.coach 103#16 3#8) yard = some (.arrived, none, true) := by
  decide

theorem test_hyps_IdentTaken_bound :
    identified 3 .ok (.coach 1#16 3#8) yard = some (.bound, some 103, false)
      ∧ identified 7 .ok (.coach 107#16 3#8) unconfirmed7 = some (.bound, some 107, false)
      ∧ identified 7 .ok (.coach 107#16 16#8) unconfirmed7 = some (.bound, some 107, false)
      ∧ (unconfirmed7.book.boundTo 7 = none ∧ (unconfirmed7.bayOfCoach 103).isSome)
      ∧ identified 7 .ok (.coach 103#16 3#8) unconfirmed7 = some (.arrived, none, true) := by
  decide

/-- Bay 7, or bay 6 whose departure is CLEARING, or bay 3 whose departure is BOUND, with its coach changed under the plug. -/
def unconfirmedAt (b : BayNo) : State := withBay b { yard.bay b with unconfirmed := true } yard

/-- A coach changed for one bound nowhere, with a departure bound, with one CLEARING, and for one bound elsewhere; a conflict that stands. -/
theorem test_hyps_IdentTaken_replaced :
    (identified 7 .ok (.coach 200#16 3#8) (unconfirmedAt 7) = some (.bound, some 200, false) ∧ yard.book.boundTo 7 = none)
      ∧ (identified 3 .ok (.coach 200#16 3#8) (unconfirmedAt 3) = some (.bound, some 200, false)
        ∧ yard.book.boundTo 3 = some (record 2 620 (some 103) .bound (some 3) none)
        ∧ afterwards (exec (.postResponse (replyOf 3#8 .ident .ok (.coach 200#16 3#8)) .failureFirst) (flying (.ident 3) false false (unconfirmedAt 3)))
            (stateOf 2) = some (some .booked))
      ∧ (yard.book.boundTo 6 = some (record 65535 630 (some 106) .clearing (some 6) none)
        ∧ afterwards (exec (.postResponse (replyOf 6#8 .ident .ok (.coach 104#16 3#8)) .failureFirst) (flying (.ident 6) false false (unconfirmedAt 6)))
            (fun t => (stateOf 65535 t, t.clearance.pending, (t.bay 6).conflict)) = some (some .booked, [], true))
      ∧ identified 2 .ok (.coach 103#16 3#8) (withBay 2 { yard.bay 2 with conflict := true } yard) = some (.arrived, none, true) := by
  decide +kernel

/-- A yard planning for a cold night, with n planned entries of bay 7 in a chain of m others. -/
def coldNight (n m : Nat) : State :=
  { withBay 7 { coachBay 107 .bound with cabin := some ⟨-100, 0⟩ } (chained 0 n) with
    planner := { yard.planner with outdoor := -300, outdoorAge := some 0 }
    seq := { yard.seq with chain := List.replicate n ⟨7, false, .missed⟩ ++ List.replicate m ⟨3, false, .waiting⟩ } }

def lateAt7 (s : State) : Nat × Nat × Bool :=
  let t := latePass 7 s
  (t.seq.chain.length, t.planner.results[7].turns, t.planner.results[7].causes.getLsbD 5)

/-- A late pass of 13 turns with the chain at 51, 52 and 64 entries, with 3, 4 and 16 planned entries of the bay, and on hold. -/
theorem test_hyps_IdentTaken_latePass :
    lateAt7 (coldNight 0 51) = (64, 13, false)
      ∧ lateAt7 (coldNight 0 52) = (64, 13, true)
      ∧ lateAt7 (coldNight 0 64) = (64, 13, true)
      ∧ lateAt7 (coldNight 3 0) = (16, 13, false)
      ∧ lateAt7 (coldNight 4 0) = (16, 13, true)
      ∧ lateAt7 (coldNight 16 0) = (16, 13, true)
      ∧ lateAt7 (withBay 7 { (coldNight 0 10).bay 7 with hold := true } (coldNight 0 10)) = (10, 13, false) := by
  decide +kernel

theorem test_hyps_TornDown :
    yard.book.boundTo 8 = none ∧ yard.lamp.engines[0] = .running testOf8 ∧ (tearDown 8 yard).lamp.engines[0] = .releasing 8
      ∧ yard.book.boundTo 7 = none ∧ (tearDown 7 yard).store.free.length = 94 := by
  decide +kernel

/-- Bay 3 with no departure: heated, read, its signal at ALERT, each of its requests waiting. -/
def busy3 : State :=
  { withRecords [] yard with
    clearance := { yard.clearance with signals := yard.clearance.signals.set 3 .alert, alerts := yard.clearance.alerts.set 3 (some 1) }
    bus := { yard.bus with waiting := ([.sense 3, .signal 3 .alert, .faultPage 3 2, .ident 3] : List Job).map (⟨·, 0⟩) } }

theorem test_engines_sound : half8.lamp.sound ∧ busy3.lamp.sound := by
  refine ⟨?_, ?_⟩ <;> unfold LampUnit.sound <;> decide

/-- The HEAT OFF stands last, the SIGNAL takes its place, the page and the ident go, and the SENSE stays; a SILENT post is asked nothing. -/
theorem test_hyps_TornDown_requests :
    busy3.book.boundTo 3 = none
      ∧ (tearDown 3 busy3).bus.waiting.map (·.job) = [.sense 3, .signal 3 .red, .heat 3 false]
      ∧ (tearDown 3 busy3).clearance.alerts[3] = none ∧ (tearDown 3 busy3).seq.commanded[3] = ⟨false, busy3.now⟩
      ∧ (tearDown 3 (withPost 3 ⟨true, 3, none⟩ busy3)).bus.waiting.map (·.job) = [.sense 3, .signal 3 .alert]
      ∧ (tearDown 3 (flying (.faultPage 3 2) false false busy3)).bus.wire = .busy ⟨.faultPage 3 2, false, some 20, true⟩
      ∧ (tearDown 3 (flying (.signal 3 .alert) false false busy3)).bus.wire = .busy ⟨.signal 3 .alert, false, some 20, false⟩
      ∧ (tearDown 8 (steps 4)).bus.wire = .busy ⟨.lampStep 0 8 4, false, some 20, true⟩
      ∧ ((tearDown 8 yard).workshop.notices.lamp, (tearDown 7 yard).workshop.notices.lamp) = (BaySet.single 8, BaySet.ofList []) := by
  decide +kernel

theorem test_hyps_FindingsApplied :
    (∃ d ∈ yard.store.lists[7], d.source = (Finding.lampFailed 4 .block ⟨false, 49⟩).source ∧ d.code = (Finding.lampFailed 4 .block ⟨false, 49⟩).code)
      ∧ (∀ d ∈ yard.store.lists[3], ¬ (d.source = Finding.stuck.source ∧ d.code = Finding.stuck.code))
      ∧ (yard.store.lists[3].length < 16 ∧ (yard.store.applyFinding 3 .stuck).1.nextId = 5
        ∧ (({ Store.reset with nextId := 65535 } : Store).applyFinding 3 .stuck).1.nextId = 1)
      ∧ ((Finding.currentEnded).created = none ∧ noSlots.store.free = [] ∧ 16 ≤ fullList.store.lists[3].length)
      ∧ (noSlots.store.applyFinding 3 .stuck).1.starvation = 1
      ∧ (yard.store.mergeFaults 7 true []).2.lost = false ∧ (noSlots.store.mergeFaults 7 true [(⟨1, 0, 1⟩, .note)]).2.lost = true
      ∧ ({ yard.store with marks := yard.store.marks.set 7 ⟨true, false, false⟩ } : Store).marks[7].fault = true
      ∧ (yard.bay 2).state ∈ [.closed, .empty, .arrived] := by
  decide

/-- New faults are created BLOCK first, then INHIBIT, then NOTE, then by code; a TRUNCATED read leaves what it did not see. -/
theorem test_hyps_FindingsApplied_faults :
    ((yard.store.mergeFaults 3 true [(⟨8, 1, 2⟩, .note), (⟨5, 1, 2⟩, .note), (⟨9, 3, 7⟩, .block), (⟨6, 0, 1⟩, .inhibit), (⟨7, 3, 1⟩, .block)]).1.lists[3].map
        fun d => (d.code, d.count)) = [(1, 1), (9, 7), (7, 1), (6, 1), (5, 2), (8, 2)]
      ∧ (yard.store.mergeFaults 3 true []).1.lists[3].map (·.present) = [none, some false]
      ∧ (yard.store.mergeFaults 3 false []).1 = yard.store := by
  decide +kernel

/-- The results of a complete test: circuit 4 as given, 13 failing, 1 untested, the others no longer in the set. -/
def judged (c4 : CircuitResult) : Vector CircuitResult 16 := ((Vector.replicate 16 .undefined).set 4 c4).set 13 (.high 200 .note)

def lampMarked (st : Store) : Store := { st with marks := st.marks.set 7 ⟨false, true, true⟩ }

/-- A lamp merge that removes, that updates, that loses; a partial one; POST findings applied, dropped and lost; a mark told. -/
theorem test_hyps_FindingsApplied_lamps :
    (((lampMarked yard.store).mergeLamps 7 (judged .pass)).2.lost = false
        ∧ ((lampMarked yard.store).mergeLamps 7 (judged .pass)).1.lists[7].map (fun d => (d.id, d.source, d.code)) = [(3, .fault, 7), (65535, .lamp, 13)]
        ∧ ((lampMarked yard.store).mergeLamps 7 (judged .pass)).1.free.getLast? = some 95
        ∧ ((lampMarked yard.store).mergeLamps 7 (judged .pass)).1.marks[7] = ⟨false, false, true⟩)
      ∧ ((yard.store.mergeLamps 7 (judged .undefined)).1.lists[7].map (·.present) = [some false, some false, some true])
      ∧ ((noSlots.store.mergeLamps 7 (judged .undefined)).2.lost = true ∧ noSlots.store.starvation < 65535
        ∧ (noSlots.store.mergeLamps 7 (judged .undefined)).1.marks[7] = ⟨false, true, false⟩)
      ∧ (yard.store.mergePartial 7 (judged .untested)).1.lists[7].length = 3
      ∧ (((lampMarked yard.store).applyPost 7 .stuck).1.marks[7] = ⟨false, true, false⟩
        ∧ ((lampMarked yard.store).applyPost 7 .currentEnded).2.applied = false ∧ (noSlots.store.applyPost 7 .stuck).2.applied = false)
      ∧ ((yard.bay 7).state ∈ [.bound, .cleared, .leaving] ∧ (clearPostMark 7 { yard with store := lampMarked yard.store }).store.marks[7].post = false
        ∧ yard.store.marks[7].post = false)
      ∧ (postFinding 3 .stuck yard).seq.onSet = [] ∧ stateOf 4 (postFinding 4 .stuck noSlots) = some .bound := by
  decide +kernel

/-! ## Hypotheses met: the post bus -/

def timesOut (j : Job) (isRetry discarded : Bool) (s : State) : Host.Outcome State Fault Refusal :=
  exec (.responseTimeout .silenceFirst) (flying j isRetry discarded s)

/-- Two failures behind it, and one. -/
theorem test_hyps_TransactionFailures :
    afterwards (timesOut (.ident 7) false false yard) (fun t => t.flies (· == .ident 7)) = some true
      ∧ afterwards (timesOut (.ping 7) true false yard) (·.bus.wire) = some .free
      ∧ afterwards (timesOut (.sense 7) true false (withPost 7 ⟨false, 1, none⟩ yard)) (·.bus.posts[7].failures) = some 2
      ∧ afterwards (timesOut (.signal 7 .red) true false yard) (fun t => t.flies (· == .signal 7 .red)) = some true
      ∧ afterwards (timesOut (.ident 2) true false yard) (fun t => (t.bay 2).retry) = some (some 30000)
      ∧ afterwards (timesOut (.heat 3 true) true true yard) (·.bus.posts[3].failures) = some 1
      ∧ afterwards (timesOut (.sense 3) true false (withPost 3 ⟨false, 2, none⟩ yard)) (fun t => (t.bus.posts[3], t.seq.held[3]))
          = some (⟨true, 3, some 2000⟩, some ⟨4, 0⟩)
      ∧ (∀ x, yard.bus.wire = .busy x → x.job = .allOff)
      ∧ (yard.seq.member 3 = some ⟨3, 4, 0, some 0⟩ ∧ (withPost 3 ⟨true, 3, none⟩ yard).bus.posts[3].silent = true) := by
  refine ⟨by decide, by decide, by decide, by decide, by decide, by decide, by decide, ?_, by decide⟩
  intro x h
  cases h

/-- The third failure of a post. -/
def thirdOf (b : BayNo) (j : Job) (order : FailureOrder) (ws : List Request) : Option State :=
  let s := withPost b ⟨false, 2, none⟩ yard
  afterwards (exec (.responseTimeout order) (flying j true false { s with bus := { s.bus with waiting := ws } })) id

def lastOf (b : BayNo) (o : Option State) : Option (Option ReadOutcome) := o.map fun t => t.reader.last[b].map (·.outcome)

/-- The silence ends a running test and a read and revokes a CLEARED departure; the read's own failure may come first, in flight or waiting. -/
theorem test_hyps_TransactionFailures_third :
    (thirdOf 8 (.sense 8) .failureFirst []).map (fun t => (t.lamp.engines[0], t.lamp.results[8].map (·.outcome)))
        = some (.free, some (.incomplete .postSilent))
      ∧ lastOf 3 (thirdOf 3 (.sense 3) .failureFirst []) = some (some (.failed .postSilent))
      ∧ lastOf 3 (thirdOf 3 (.sense 3) .silenceFirst [⟨.faultPage 3 7, 0⟩]) = some (some (.failed .busFailed))
      ∧ lastOf 3 (thirdOf 3 (.faultPage 3 7) .failureFirst []) = some (some (.failed .busFailed))
      ∧ lastOf 3 (thirdOf 3 (.faultPage 3 7) .silenceFirst []) = some (some (.failed .postSilent))
      ∧ ((thirdOf 4 (.sense 4) .silenceFirst []).bind (stateOf 4)) = some .bound := by
  decide +kernel

/-- What a final failure does at each requester, with something to end there and without. -/
theorem test_hyps_TransactionFailures_handed :
    ((handFailure (.lampStep 0 8 4) yard).lamp.engines[0] = .releasing 8 ∧ (∀ y, yard.lamp.engines[1] ≠ .running y))
      ∧ ((handFailure (.lampEnd 1 9) yard).lamp.engines[1] = .free ∧ ∀ x, yard.lamp.engines[0] ≠ .releasing x)
      ∧ (((handFailure (.ident 2) yard).bay 2).retry = some 30000 ∧ handFailure (.ident 3) yard = yard)
      ∧ yard.seq.member 9 = none := by
  refine ⟨⟨by decide +kernel, ?_⟩, ⟨by decide +kernel, ?_⟩, by decide +kernel, by decide⟩
  · intro y h; cases h
  · intro x h; cases h

def silent7 : State := withPost 7 ⟨true, 3, some 2000⟩ yard
def answers7 (j : Job) (discarded : Bool) (s : State) : Host.Outcome State Fault Refusal :=
  exec (.postResponse (replyOf 7#8 j.kind .ok .empty) .failureFirst) (flying j true discarded s)

theorem test_hyps_PostEvents :
    afterwards (answers7 (.heat 7 true) false yard) (·.bus.wire) = some .free
      ∧ afterwards (answers7 (.ping 7) true silent7) (·.bus.posts[7].silent) = some true
      ∧ afterwards (answers7 (.ping 7) false silent7) (·.bus.posts[7]) = some ⟨false, 0, none⟩
      ∧ (goodStatus (replyOf 8#8 .ping .ok .empty) (.ping 7) = none ∧ goodStatus (replyOf 7#8 .ping .ok .empty) (.ping 7) = some .ok)
      ∧ (yard.bus.posts[7].probe = none ∧ afterwards (exec (.probeTimerExpiry 7) silent7) (fun t => t.flies (· == .ping 7)) = some true)
      ∧ afterwards (exec (.probeTimerExpiry 7) (flying (.ping 7) false false silent7)) (fun t => t.waits (Job.isPingFor 7)) = some false
      ∧ afterwards (exec .allOffSent State.reset) (·.bus.wire) = some .free
      ∧ State.reset.bus.wire = .free ∧ (∃ r ∈ State.reset.bus.waiting, r.job = .allOff)
      ∧ afterwards (exec .allOffSent (flying .allOff false false yard)) (·.bus.wire) = some .free
      ∧ afterwards (exec .idleTimerExpiry yard) (·.bus.wire) = some .quiet
      ∧ afterwards (exec .idleTimerExpiry State.reset) (·.bus.idle) = some 0
      ∧ afterwards (exec .quietFrameSent { yard with bus := { yard.bus with wire := .quiet } }) (·.bus.idle) = some 1000 := by
  decide

/-- Each condition of R171 broken alone; a page of five records; a SENSE with NO_COACH is good. -/
theorem test_hyps_PostEvents_good :
    goodStatus { replyOf 7#8 .ping .ok .empty with check := 0#8 } (.ping 7) = none
      ∧ goodStatus { replyOf 7#8 .ping .ok .empty with length := 1#8, check := crc8 [7#8, 0#8, 1#8] } (.ping 7) = none
      ∧ goodStatus { replyOf 7#8 .ping .ok .empty with length := 1#8, body := [9#8], check := crc8 [7#8, 0#8, 1#8, 9#8] } (.ping 7) = some .ok
      ∧ goodStatus (replyOf 7#8 .ident .ok .empty) (.ping 7) = none
      ∧ goodStatus { replyOf 7#8 .ping .ok .empty with status := none } (.ping 7) = none
      ∧ goodStatus (replyOf 7#8 .ident .ok .empty) (.ident 7) = none
      ∧ goodStatus (replyOf 7#8 .faultPage .ok (.page 0#8 (records 5) false)) (.faultPage 7 0) = none
      ∧ goodStatus (replyOf 7#8 .sense .noCoach (.sense ⟨none, false, true, true, true⟩)) (.sense 7) = some .noCoach
      ∧ goodStatus (replyOf 7#8 .lampRead .ok (.current 1#16)) (.lampRead 0 7 3) = some .ok
      ∧ goodStatus (replyOf 7#8 .ident .ok (.coach 1#16 0#8)) (.ident 7) = some .ok
      ∧ goodStatus (replyOf 7#8 .lampRead .harnessFault .empty) (.lampRead 0 7 3) = some .harnessFault := by
  decide

/-- Requests waiting at a free bus, one of each class; bay 4 last served in class 1. -/
def contended (js : List Job) (last : Option BayNo) : State :=
  { yard with bus := { yard.bus with waiting := js.map (⟨·, 0⟩), last1 := last } }

theorem test_hyps_ArbiterGrants :
    (contended [.ping 1, .sense 2, .lampEnd 1 9, .heat 3 true] none).bus.wire = .free
      ∧ (arbitrate (contended [.ping 1, .heat 3 true, .allOff] none)).flies (· == .allOff)
          = true
      ∧ (arbitrate (contended [.heat 3 true, .signal 4 .red, .heat 5 true] (some 4))).flies (· == .heat 5 true) = true
      ∧ (arbitrate (contended [.heat 3 true, .signal 4 .red, .heat 23 true] (some 23))).flies (· == .heat 3 true) = true
      ∧ (arbitrate (contended [.signal 3 .red, .heat 3 true] none)).flies (· == .heat 3 true) = true
      ∧ (arbitrate (contended [.lampEnd 1 9, .lampEnd 0 8] none)).flies (· == .lampEnd 0 8) = true
      ∧ (arbitrate (contended [.lampEnd 1 9] none)).bus.lastEngine = 1 := by
  decide

/-! ## Hypotheses met: time -/

/-- Seconds 58 and 59, minute 1439; a record whose departure minute passes; overdue minutes 238, 239 and 1440. -/
theorem test_hyps_ClockAndOverdue :
    afterwards (exec .clockSecond { yard with clock := ⟨true, 600, 58, 1⟩ }) (·.clock) = some ⟨true, 600, 59, 1000⟩
      ∧ afterwards (exec .clockSecond { yard with clock := ⟨true, 1439, 59, 1⟩ }) (·.clock) = some ⟨true, 0, 0, 1000⟩
      ∧ afterwards (exec .clockSecond yard) (fun t => (t.book.find 4).map (·.overdue)) = some (some (some ⟨1, 60000⟩))
      ∧ State.reset.clock.isSet = false
      ∧ (∀ d ∈ yard.book.records, d.ref = (2#16).toNat → d.overdue = none)
      ∧ afterwards (exec (.overdueRise 5#16) yard) (fun t => (t.book.find 5).map (·.overdue)) = some (some (some ⟨240, 60000⟩))
      ∧ afterwards (exec (.overdueRise 2#16) (withRecords [record 2 600 none .booked none (some ⟨238, 1⟩)] yard)) (·.book.records.length) = some 1
      ∧ afterwards (exec (.overdueRise 2#16) (withRecords [record 2 600 none .booked none (some ⟨239, 1⟩)] yard)) (·.book.records.length) = some 0
      ∧ afterwards (exec (.overdueRise 5#16) (withRecords [record 5 600 (some 105) .cleared (some 5) (some ⟨1440, 1⟩)] yard))
          (fun t => (t.book.find 5).map (·.overdue)) = some (some (some ⟨1440, 60000⟩)) := by
  decide

/-- Slots 14 and 15; the feed alarm. -/
theorem test_hyps_SlotsAndRounds :
    afterwards (exec .slotTimerExpiry { yard with seq := { yard.seq with index := 14 } }) (fun t => (t.seq.index, t.seq.onSet.map (·.bay)))
        = some (15, [7])
      ∧ afterwards (exec .slotTimerExpiry { yard with seq := { yard.seq with index := 15 } }) (fun t => (t.seq.index, (t.seq.chain.map (·.bay)).take 2))
        = some (0, [3, 1])
      ∧ afterwards (exec .slotTimerExpiry { yard with seq := { yard.seq with feedAlarm := true } }) (·.seq.onSet) = some []
      ∧ (yard.bay 8).state = .bound ∧ (yard.bay 2).state ≠ .bound := by
  decide +kernel

/-- Bays 3 and 7, of 4 units on feeder 0, and bay 2 which is not bound, in a chain, under these limits and with these stuck units of bay 7. -/
def walking (total feeder : Nat) (stuck : Option UnitsOn) (bays : List BayNo) : State :=
  slotWalk { yard with seq := { yard.seq with
    total := total, feeders := Vector.replicate 4 feeder, chain := bays.map fun b => ⟨b, false, .waiting⟩, stuck := yard.seq.stuck.set 7 stuck } }

def outcomes (s : State) : List EntryStatus := s.seq.chain.map (·.status)

/-- Both join; the feeder full; the total reached; the same bay again; a bay that is not eligible; stuck units of another and of its own;
stuck units that alone exceed a limit. -/
theorem test_hyps_SlotsAndRounds_walk :
    outcomes (walking 8 8 none [3, 2, 7]) = [.taken, .missed, .taken]
      ∧ outcomes (walking 9 7 none [3, 7, 2]) = [.taken, .waiting, .missed]
      ∧ outcomes (walking 8 8 none [3, 7, 2]) = [.taken, .taken, .waiting]
      ∧ outcomes (walking 9 9 none [3, 3, 7]) = [.taken, .waiting, .waiting]
      ∧ outcomes (walking 7 7 (some ⟨4, 0⟩) [3, 7]) = [.waiting, .taken]
      ∧ (walking 7 7 (some ⟨4, 0⟩) [3, 7]).seq.stuck[7] = none
      ∧ (outcomes (walking 7 3 (some ⟨4, 0⟩) [3, 7]) = [.waiting, .waiting] ∧ (walking 7 3 (some ⟨4, 0⟩) [3, 7]).seq.onSet = [])
      ∧ ((walking 8 8 none [7]).seq.commanded[3] = ⟨false, 20000⟩ ∧ (walking 8 8 none [7]).seq.commanded[7] = ⟨true, 20000⟩
        ∧ (walking 8 8 none [3]).seq.commanded[3] = ⟨true, 0⟩) := by
  decide +kernel

/-- A round laid out behind a pin: the bays with a departure in force in book order, then the others. -/
theorem test_hyps_SlotsAndRounds_layout :
    ((yard.book.boundTo 3).map (fun d => decide ((d.minute + 1440 - yard.clock.minute) % 1440 ≤ d.lead)) = some true)
      ∧ afterwards (exec .slotTimerExpiry (withBay 3 { coachBay 103 .bound with cabin := some ⟨-100, 0⟩ }
          { coldNight 0 0 with seq := { yard.seq with index := 15, chain := [⟨3, true, .taken⟩] } }))
          (fun t => (t.seq.chain.take 5).map fun e => (e.bay.val, e.pinned)) = some [(3, true), (4, false), (3, false), (6, false), (7, false)] := by
  decide +kernel

/-- A due deferral of each action, one not deferred; a pending clearance; alerts at each signal, a SILENT post and a waiting request. -/
theorem test_hyps_TimedEvents :
    (∀ b : BayNo, ∀ d ∈ yard.store.lists[b], d.id ≠ (4#16).toNat)
      ∧ (yard.store.find 1).map (·.2.state) = some .opened
      ∧ (yard.store.find 2).map (fun x => (x.2.state, x.2.action)) = some (.deferred 60000, .inhibit)
      ∧ (yard.store.find 65535).map (fun x => (x.2.state, x.2.action)) = some (.deferred 1, .block)
      ∧ afterwards (exec (.deferralExpiry 2#16) yard) (·.seq.onSet) = some []
      ∧ ((∀ p ∈ yard.clearance.pending, p.ref ≠ (1#16).toNat) ∧ yard.clearance.find 65535 = some ⟨65535, 6, false, 90000⟩)
      ∧ afterwards (exec (.pendingTimerExpiry 65535#16) yard) (·.clearance.pending) = some []
      ∧ yard.clearance.alerts[5] = none := by
  decide

/-- Bay 7 shows ALERT with its timer running. -/
def alert7 (a : Aspect) : State :=
  { yard with clearance := { yard.clearance with signals := yard.clearance.signals.set 7 a, alerts := yard.clearance.alerts.set 7 (some 1) } }

theorem test_hyps_TimedEvents_alert :
    ((alert7 .red).clearance.alerts[7] ≠ none ∧ (alert7 .red).clearance.signals[7] ≠ .alert)
      ∧ afterwards (exec (.alertTimerExpiry 7) (alert7 .alert)) (fun t => (t.clearance.signals[7], t.flies (· == .signal 7 .red))) = some (.red, true)
      ∧ (withPost 7 ⟨true, 3, none⟩ (alert7 .alert)).bus.posts[7].silent = true
      ∧ ({ alert7 .alert with bus := { yard.bus with wire := .quiet, waiting := [⟨.signal 7 .alert, 0⟩] } } : State).waits (Job.isSignalFor 7) = true
      ∧ afterwards (exec (.ageRise .second) yard) (fun t => (t.bay 3).cabin) = some (some ⟨288, 31000⟩)
      ∧ afterwards (exec (.ageRise .minute) yard) (fun t => t.store.lists[3].map (·.age)) = some [60000, 60000]
      ∧ (passMillisecond (withBay 3 { coachBay 103 .bound with cabin := some ⟨288, 65534999⟩ } yard)).bay 3
          = { coachBay 103 .bound with cabin := some ⟨288, 65535000⟩, sense := some 4999 }
      ∧ (passMillisecond (withBay 3 { coachBay 103 .bound with cabin := some ⟨288, 65535000⟩ } yard)).bay 3
          = { coachBay 103 .bound with cabin := some ⟨288, 65535000⟩, sense := some 4999 } := by
  decide +kernel

/-! ## Hypotheses met: planning, laws -/

/-- The gain at 0 and above it, a pass without class, without cabin, stale at 60 and 61 s and minutes, and the lead at its end. -/
theorem test_hyps_PlanComputed :
    (computePlan { worked with gain := 1 } = ⟨0, 0b000010#6⟩ ∧ stageGain worked.roundLength 1 = 0)
      ∧ (yard.classOf 0 = none ∧ (yard.bay 0).cabin = none ∧ yard.classOf 3 = some class3 ∧ (yard.bay 3).cabin = some ⟨288, 30000⟩)
      ∧ yard.book.boundTo 7 = none ∧ (yard.book.boundTo 3).map (·.state) = some .bound
      ∧ ((620 + 1440 - yard.clock.minute) % 1440 ≤ 90 ∧ 90 < (691 + 1440 - yard.clock.minute) % 1440)
      ∧ ((withBay 3 { coachBay 103 .bound with cabin := some ⟨288, 61000⟩ } yard).passOf 3).causes.getLsbD 4 = true := by
  decide

theorem test_hyps_laws_kept : ∃ t, step yard = .next t := ⟨_, rfl⟩

theorem test_hyps_laws_kept_by_a_command : ∃ t, step { yard with pending := [.slotTimerExpiry] } = .next t := ⟨_, rfl⟩

end Sys2Proof.Tests
end

/-! PROOF. CLOSE BAY (R16), which takes every pin of the bay out of the chain at once (R83). -/

namespace Sys2Proof.Machine

/-! ## A command that passes the checks of its frame -/

/-- R184: at a FREE responder a command that its link may give, and whose bay is fitted when it names one, does its rule and is answered. -/
theorem event_takeCommand_of_ready {l : Link} {code : Byte} {bay : Option Byte} (rule : State → State × Response) {s : State}
    (hr : s.ready l) (hp : permitted l code = true) (hb : ∀ b ∈ bay, s.fits b) :
    event (takeCommand l code bay rule) s = .next (answer l (rule s).2 (rule s).1) := by
  obtain ⟨hheld, hfree⟩ := hr
  have hfits : (bay.map fun b => decide (s.bayCount ≤ b.toNat)).getD false = false := by
    cases bay with
    | none => rfl
    | some b => simpa [State.fits] using hb b rfl
  simp [event, takeCommand, takeFrameWith, Port.sending, hheld, hfree, hp, hfits]

/-- CLOSE BAY from the workshop at a fitted bay. -/
theorem exec_closeBay_of_ready {bay : Byte} {s : State} (hr : s.ready .workshop) (hb : s.fits bay) :
    exec (.closeBay .workshop bay) s
      = .next (answer .workshop (ruleCloseBay (bayOf bay) s).2 (ruleCloseBay (bayOf bay) s).1) :=
  event_takeCommand_of_ready _ hr (by decide) (by simpa using hb)

/-! ## The three outcomes of CLOSE BAY's rule (R16) -/

theorem ruleCloseBay_of_coach {b : BayNo} {s : State} (h : (s.bay b).state ∈ [.arrived, .bound, .cleared, .leaving]) :
    ruleCloseBay b s = (s, ⟨.occupied, .empty⟩) := by
  simp only [List.mem_cons, List.not_mem_nil, or_false] at h
  obtain h | h | h | h := h <;> simp [ruleCloseBay, refusal, h]

theorem ruleCloseBay_of_closed {b : BayNo} {s : State} (h : (s.bay b).state = .closed) :
    ruleCloseBay b s = (s, ⟨.already, .empty⟩) := by
  simp [ruleCloseBay, refusal, h]

theorem ruleCloseBay_of_empty {b : BayNo} {s : State} (h : (s.bay b).state = .empty) :
    ruleCloseBay b s = (closeBay b s, ⟨.ok, .empty⟩) := by
  simp [ruleCloseBay, h]

/-! ## Removing entries of the chain (R83) -/

/-- A pinned entry of the bay. -/
def Entry.isPinOf (b : BayNo) (e : Entry) : Bool := e.pinned && e.bay == b

/-- Where the entry at position i stands once the one at p is removed; none when it is that one. -/
def positionWithout (p i : Nat) : Option Nat := if i = p then none else if p < i then some (i - 1) else some i

/-- Where the entry at position i stands once the ones at these positions are removed, the last in the list first. -/
def positionWithoutAll (ps : List Nat) (i : Nat) : Option Nat := ps.foldr (fun p o => o.bind (positionWithout p)) (some i)

@[simp] theorem positionWithoutAll_nil (i : Nat) : positionWithoutAll [] i = some i := rfl

@[simp] theorem positionWithoutAll_cons (p : Nat) (ps : List Nat) (i : Nat) :
    positionWithoutAll (p :: ps) i = (positionWithoutAll ps i).bind (positionWithout p) := rfl

theorem removeEntry_eq (q : Sequencer) (p : Nat) : q.removeEntry p =
    { q with
      chain := q.chain.eraseIdx p
      onSet := q.onSet.map fun m => { m with entry := m.entry.bind (positionWithout p) } } := rfl

/-- Several removals, the last position in the list first. -/
theorem foldr_removeEntry (ps : List Nat) (q : Sequencer) :
    ps.foldr (fun p q => q.removeEntry p) q =
      { q with
        chain := ps.foldr (fun p c => c.eraseIdx p) q.chain
        onSet := q.onSet.map fun m => { m with entry := m.entry.bind (positionWithoutAll ps) } } := by
  induction ps with
  | nil => simp [funext positionWithoutAll_nil]
  | cons p ps ih =>
    rw [List.foldr_cons, List.foldr_cons, ih, removeEntry_eq]
    simp [funext (positionWithoutAll_cons p ps), Option.bind_assoc]

/-! ## Removing every entry that satisfies a predicate, from the last to the first -/

section Removal

variable {α : Type}

theorem filter_range_eq_findIdxs (p : α → Bool) (xs : List α) :
    ((List.range xs.length).filter fun i => (xs[i]?).any p) = xs.findIdxs p := by
  induction xs with
  | nil => rfl
  | cons x xs ih =>
    rw [List.length_cons, List.range_succ_eq_map, List.filter_cons, List.filter_map, List.findIdxs_cons, List.findIdxs_start, ← ih]
    simp [Function.comp_def]

/-- Removals behind the head leave the head. -/
theorem foldr_eraseIdx_map_succ (ps : List Nat) (x : α) (xs : List α) :
    (ps.map (· + 1)).foldr (fun p c => c.eraseIdx p) (x :: xs) = x :: ps.foldr (fun p c => c.eraseIdx p) xs := by
  induction ps with
  | nil => rfl
  | cons p ps ih => simp [ih]

theorem foldr_eraseIdx_findIdxs (p : α → Bool) (xs : List α) :
    (xs.findIdxs p).foldr (fun i c => c.eraseIdx i) xs = xs.filter (fun x => !p x) := by
  induction xs with
  | nil => rfl
  | cons x xs ih =>
    rw [List.findIdxs_cons, List.findIdxs_start]
    cases hx : p x <;> simp [hx, foldr_eraseIdx_map_succ, ih]

/-- Removals behind the head leave the head's position. -/
theorem positionWithoutAll_map_succ_zero (ps : List Nat) : positionWithoutAll (ps.map (· + 1)) 0 = some 0 := by
  induction ps with
  | nil => rfl
  | cons p ps ih => simp [ih, positionWithout]

/-- Removals behind the head move the positions behind it as they move those of the tail. -/
theorem positionWithoutAll_map_succ_succ (ps : List Nat) (i : Nat) :
    positionWithoutAll (ps.map (· + 1)) (i + 1) = (positionWithoutAll ps i).map (· + 1) := by
  induction ps with
  | nil => rfl
  | cons p ps ih =>
    rw [List.map_cons, positionWithoutAll_cons, positionWithoutAll_cons, ih]
    cases positionWithoutAll ps i with
    | none => rfl
    | some k => simp only [Option.map_some, Option.bind_some, positionWithout]; grind

/-- An entry that is removed stands nowhere; another moves up by the number removed before it. -/
theorem positionWithoutAll_findIdxs (p : α → Bool) (xs : List α) (i : Nat) :
    positionWithoutAll (xs.findIdxs p) i = if (xs[i]?).any p then none else some (i - (xs.take i).countP p) := by
  induction xs generalizing i with
  | nil => simp
  | cons x xs ih =>
    rw [List.findIdxs_cons, List.findIdxs_start]
    cases i with
    | zero => cases hx : p x <;> simp [hx, positionWithoutAll_map_succ_zero, positionWithout]
    | succ i =>
      have hle : (xs.take i).countP p ≤ i := List.countP_le_length.trans (List.length_take_le i xs)
      have htail := positionWithoutAll_map_succ_succ (xs.findIdxs p) i
      rw [ih] at htail
      cases hi : (xs[i]?).any p with
      | true => cases p x <;> simp [htail, hi]
      | false =>
        cases hx : p x with
        | false => simp [htail, hi, hx]; omega
        | true => simp [htail, hi, hx, positionWithout]

end Removal

/-! ## What closing a bay changes (R16) -/

theorem pinsOf_eq_findIdxs (q : Sequencer) (b : BayNo) : q.pinsOf b = q.chain.findIdxs (Entry.isPinOf b) := by
  rw [← filter_range_eq_findIdxs, Sequencer.pinsOf]
  congr 1
  funext i
  cases q.chain[i]? <;> rfl

/-- Where the entry at position i stands once the bay's pins have left the chain. -/
def Sequencer.positionWithoutPins (q : Sequencer) (b : BayNo) (i : Nat) : Option Nat :=
  if (q.chain[i]?).any (Entry.isPinOf b) then none else some (i - (q.chain.take i).countP (Entry.isPinOf b))

/-- R16, R83: the bay's pins leave the chain together. -/
theorem removePins_eq (q : Sequencer) (b : BayNo) : q.removePins b =
    { q with
      chain := q.chain.filter fun e => !e.isPinOf b
      onSet := q.onSet.map fun m => { m with entry := m.entry.bind (q.positionWithoutPins b) } } := by
  rw [Sequencer.removePins, List.foldl_reverse, foldr_removeEntry, pinsOf_eq_findIdxs, foldr_eraseIdx_findIdxs]
  rw [funext (positionWithoutAll_findIdxs (Entry.isPinOf b) q.chain)]
  rfl

theorem setBayState_of_ne {b : BayNo} {st : BayState} {s : State} (h : (s.bay b).state ≠ st) :
    setBayState b st s = notifyBay .bay b (s.updBay b fun r => { r with state := st }) := if_neg h

theorem updBay_updBay (s : State) (b : BayNo) (f g : Bay → Bay) : (s.updBay b f).updBay b g = s.updBay b (g ∘ f) := by
  simp [State.updBay, modifyAt]

/-- R16: a bay's record with the sense countdown stopped and nothing sensed. -/
def Bay.unsensed (r : Bay) : Bay :=
  { r with sense := none, candidate := none, plug := false, link := false, current := false, cabin := none }

/-- R16 at an EMPTY bay: the sense request withdrawn, the record CLOSED, the pins and the stuck units ended, and the BAY notice. -/
theorem closeBay_of_empty {b : BayNo} {s : State} (h : (s.bay b).state = .empty) : closeBay b s =
    notifyBay .bay b { s with
      bays := s.bays.set b { (s.bay b).unsensed with state := .closed }
      bus := s.withdrawn (Job.isSenseFor b)
      seq := { s.seq.removePins b with stuck := s.seq.stuck.set b none } } := by
  have hopen : (((withdraw (Job.isSenseFor b) s).updBay b Bay.unsensed).bay b).state ≠ .closed := by
    rw [bay_updBay_same, withdraw_withdrawn]
    show (s.bay b).state ≠ .closed
    simp [h]
  calc closeBay b s
    _ = closeHeating b (setBayState b .closed ((withdraw (Job.isSenseFor b) s).updBay b Bay.unsensed)) := rfl
    _ = _ := by rw [setBayState_of_ne hopen, updBay_updBay, withdraw_withdrawn]; rfl

theorem port_notifyBay_notices (k : NoticeKind) (b : BayNo) (s : State) (l : Link) :
    ((notifyBay k b s).port l).notices = (s.port l).notices.add k (BaySet.single b) := by
  cases l <;> rfl

/-- Settles O18: the rule's outcome by the bay's state; the state after a closing is closeBay_of_empty's, its chain and members
removePins_eq's. -/
theorem bayClosed : Obligations.BayClosed := by
  intro bay s hr hb b
  rw [exec_closeBay_of_ready hr hb]
  refine ⟨fun h => ?_, fun h => ?_, fun h => ⟨closeBay b s, ?_⟩⟩
  · rw [ruleCloseBay_of_coach h]
  · rw [ruleCloseBay_of_closed h]
  · rw [ruleCloseBay_of_empty h, closeBay_of_empty h, removePins_eq]
    exact ⟨rfl, rfl, rfl, rfl, rfl, rfl, rfl, port_notifyBay_notices _ _ _, rfl⟩

end Sys2Proof.Machine

/-! PROOF. WRITE CLASS with a whole record: what R26 refuses, and the record R27 takes. -/

namespace Sys2Proof.Machine

/-- WRITE CLASS with a record from the workshop. -/
theorem exec_writeClass_of_ready {a : ClassArgs} {s : State} (hr : s.ready .workshop) :
    exec (.writeClass .workshop a) s = .next (answer .workshop (ruleWriteClass a s).2 (ruleWriteClass a s).1) :=
  event_takeCommand_of_ready _ hr (by decide) (by simp)

/-! ## Refusals (R26) -/

/-- R26: the command names a class or a circuit that does not exist. -/
def classMissing (a : ClassArgs) : Prop := 15 < a.cls.toNat ∨ ∃ c ∈ a.circuits, 15 < c.circuit.toNat

/-- R26: the list names a circuit twice, is too long, or holds an action that no circuit can have. -/
def classMalformed (a : ClassArgs) : Prop :=
  ¬ (a.circuits.map (·.circuit)).Nodup ∨ 16 < a.circuits.length ∨ ∃ c ∈ a.circuits, c.action ≠ 0#8 ∧ c.action ≠ 2#8

theorem hasDuplicate_eq_true_iff (xs : List Nat) : hasDuplicate xs = true ↔ ¬ xs.Nodup := by
  induction xs with
  | nil => simp [hasDuplicate]
  | cons x xs ih => simp only [hasDuplicate, Bool.or_eq_true, List.contains_iff_mem, ih, List.nodup_cons]; tauto

/-- The model compares the circuits by number, the rule by the byte that names them. -/
theorem hasDuplicate_circuits_iff (cs : List CircuitArgs) :
    hasDuplicate (cs.map (·.circuit.toNat)) = true ↔ ¬ (cs.map (·.circuit)).Nodup := by
  have hmap : cs.map (·.circuit.toNat) = (cs.map (·.circuit)).map BitVec.toNat := by simp
  rw [hasDuplicate_eq_true_iff, hmap, List.nodup_map_iff fun _ _ => BitVec.eq_of_toNat_eq]

/-- R24: a circuit's action is BLOCK or NOTE. -/
theorem lampActionOf_eq (b : Byte) :
    lampActionOf b = if b = 0#8 then some .block else if b = 2#8 then some .note else none := by
  by_cases h0 : b = 0#8
  · simp [lampActionOf, actionOf, h0]
  by_cases h1 : b = 1#8
  · simp [lampActionOf, actionOf, h1]
  by_cases h2 : b = 2#8 <;> simp [lampActionOf, actionOf, h0, h1, h2]

theorem lampActionOf_isNone_iff (b : Byte) : (lampActionOf b).isNone = true ↔ b ≠ 0#8 ∧ b ≠ 2#8 := by
  rw [lampActionOf_eq]
  split_ifs <;> simp_all

/-- R26: a missing class or circuit is found before the list is looked at. -/
theorem classRefusal_of_missing {a : ClassArgs} (h : classMissing a) : classRefusal a = some .notFound := by
  by_cases hcls : 15 < a.cls.toNat
  · simp [classRefusal, hcls]
  · have hcircuit : ∃ c ∈ a.circuits, 15 < c.circuit.toNat := h.resolve_left hcls
    simp [classRefusal, hcls, hcircuit]

/-- With every class and circuit there, the form of the list decides. -/
theorem classRefusal_of_not_missing {a : ClassArgs} (h : ¬ classMissing a) [Decidable (classMalformed a)] :
    classRefusal a = if classMalformed a then some .badCommand else none := by
  obtain ⟨hcls, hcircuit⟩ := not_or.mp h
  have hform : classMalformed a ↔ (16 < a.circuits.length ∨ hasDuplicate (a.circuits.map (·.circuit.toNat)) = true)
      ∨ ∃ c ∈ a.circuits, (lampActionOf c.action).isNone = true := by
    simp only [classMalformed, hasDuplicate_circuits_iff, lampActionOf_isNone_iff]; tauto
  simp only [classRefusal, hcls, hcircuit, hform, List.any_eq_true, decide_eq_true_eq, Bool.or_eq_true, if_false, ite_or]

theorem ruleWriteClass_of_refusal {a : ClassArgs} {st : Status} (s : State) (h : classRefusal a = some st) :
    ruleWriteClass a s = (s, ⟨st, .empty⟩) := by
  simp [ruleWriteClass, refusal, h]

theorem exec_writeClass_of_refusal {a : ClassArgs} {st : Status} {s : State} (hr : s.ready .workshop)
    (h : classRefusal a = some st) : exec (.writeClass .workshop a) s = .next (answer .workshop ⟨st, .empty⟩ s) := by
  rw [exec_writeClass_of_ready hr, ruleWriteClass_of_refusal s h]

/-! ## The record as taken (R26, R27) -/

theorem settleTaken_bounds (h : Half) :
    settleTaken h % 50 = 0 ∧ settleTaken h ≤ max 100 (min 1000 h.toNat) + 25
      ∧ max 100 (min 1000 h.toNat) + 25 < settleTaken h + 50 := by
  simp only [settleTaken, clampNat]
  omega

theorem lampSetOf_of_not_named {cs : List CircuitArgs} {i : Fin 16} (h : ∀ c ∈ cs, c.circuit.toNat ≠ i.val) :
    (lampSetOf cs)[i] = none := by
  have hfind : (cs.find? fun c => c.circuit.toNat == i.val) = none := by simpa using h
  simp [lampSetOf, hfind]

/-- In a list that names no circuit twice, the entry that names a circuit is the one found for it. -/
theorem find?_circuit_eq_some {cs : List CircuitArgs} (hnodup : (cs.map (·.circuit)).Nodup) {c : CircuitArgs} (hc : c ∈ cs) :
    (cs.find? fun x => x.circuit.toNat == c.circuit.toNat) = some c := by
  obtain ⟨x, hx⟩ : ∃ x, (cs.find? fun x => x.circuit.toNat == c.circuit.toNat) = some x :=
    Option.isSome_iff_exists.mp (List.find?_isSome.mpr ⟨c, hc, beq_self_eq_true _⟩)
  have hnumber : x.circuit = c.circuit := BitVec.eq_of_toNat_eq (by simpa using List.find?_some hx)
  rw [hx, List.inj_on_of_nodup_map hnodup (List.mem_of_find?_eq_some hx) hc hnumber]

theorem lampSetOf_of_named {cs : List CircuitArgs} (hnodup : (cs.map (·.circuit)).Nodup) {c : CircuitArgs} (hc : c ∈ cs)
    {i : Fin 16} (hi : c.circuit.toNat = i.val) : (lampSetOf cs)[i] = some (circuitTaken c) := by
  simp [lampSetOf, ← hi, find?_circuit_eq_some hnodup hc]

/-- R24: an action that passed the check is BLOCK, or else NOTE. -/
theorem circuitTaken_action (c : CircuitArgs) : (circuitTaken c).action = if c.action = 0#8 then .block else .note := by
  simp only [circuitTaken, lampActionOf_eq]
  split_ifs <;> rfl

/-- R27: the reply tells whether any value of the record differs from the one sent. -/
theorem classClamped_iff (a : ClassArgs) : classClamped a = true ↔
    (classTaken a).units ≠ a.units.toNat ∨ (classTaken a).loss ≠ a.loss.toNat ∨ (classTaken a).gain ≠ a.gain.toNat
      ∨ (classTaken a).settle ≠ a.settle.toNat
      ∨ ∃ c ∈ a.circuits, (circuitTaken c).minimum ≠ c.minimum.toNat ∨ (circuitTaken c).maximum ≠ c.maximum.toNat := by
  simp [classClamped, or_assoc]

theorem classIndex_val {b : Byte} (h : b.toNat < 16) : (classIndex b).val = b.toNat := Nat.mod_eq_of_lt h

theorem ruleWriteClass_of_taken {a : ClassArgs} (s : State) (hcls : a.cls.toNat < 16) (h : classRefusal a = none) :
    ruleWriteClass a s = ({ s with classes := s.classes.set a.cls.toNat (some (classTaken a)) },
      ⟨takenStatus (classClamped a), .classRecord (some (classTaken a))⟩) := by
  simp [ruleWriteClass, h, setClass, classIndex_val hcls]

/-- Settles O15: a missing class or circuit is refused before a malformed list (log 35); with neither, the record written is
classTaken's. -/
theorem classWritten : Obligations.ClassWritten := by
  classical
  intro a s hr
  refine ⟨fun hm _ => ?_, fun hb hm => ?_, fun hm _ => ⟨.notFound, ?_, .inl rfl⟩, fun hcls hm hb => ⟨classTaken a, ?_⟩⟩
  · exact exec_writeClass_of_refusal hr (classRefusal_of_missing hm)
  · exact exec_writeClass_of_refusal hr ((classRefusal_of_not_missing hm).trans (if_pos hb))
  · exact exec_writeClass_of_refusal hr (classRefusal_of_missing hm)
  · have htaken : classRefusal a = none := (classRefusal_of_not_missing hm).trans (if_neg hb)
    have hnodup : (a.circuits.map (·.circuit)).Nodup := by_contra fun h => hb (.inl h)
    refine ⟨rfl, rfl, rfl, rfl, settleTaken_bounds a.settle, fun i => lampSetOf_of_not_named, fun c hc i hi => ?_, ?_⟩
    · exact (lampSetOf_of_named hnodup hc hi).trans (by rw [← circuitTaken_action]; rfl)
    · rw [exec_writeClass_of_ready hr, ruleWriteClass_of_taken s hcls htaken, takenStatus]
      simp only [classClamped_iff]
      rfl

end Sys2Proof.Machine

/-! PROOF. The rounding of the loss per round (R70): of a magnitude first, then of the product with its sign, then its saturation (R66). -/

namespace Sys2Proof.Machine

/-! ## The magnitude -/

/-- Half to even: the quotient is off by half a unit at most, and it is even where it is off by just that. -/
theorem roundHalfEven_nearest (m : Nat) :
    2 * ((roundHalfEven m : Int) * 65536 - m).natAbs ≤ 65536
      ∧ (2 * ((roundHalfEven m : Int) * 65536 - m).natAbs = 65536 → roundHalfEven m % 2 = 0) := by
  simp only [roundHalfEven, Bool.or_eq_true, Bool.and_eq_true, beq_iff_eq, decide_eq_true_eq]
  split_ifs with hup
  · -- above the half, or just half above an odd quotient
    omega
  · -- below the half, or just half above an even quotient
    omega

/-- R70: what either mode makes of a magnitude. -/
def roundMagnitude (mode : Rounding) (m : Nat) : Nat :=
  match mode with
  | .nearest => roundHalfEven m
  | .towardZero => m / 65536

theorem roundMagnitude_zero (mode : Rounding) : roundMagnitude mode 0 = 0 := by
  cases mode <;> rfl

/-! ## The sign -/

theorem roundLoss_eq (mode : Rounding) (n : Int) :
    roundLoss mode n = if n < 0 then -(roundMagnitude mode n.natAbs : Int) else roundMagnitude mode n.natAbs := by
  cases mode <;> rfl

theorem roundLoss_natCast (mode : Rounding) (m : Nat) : roundLoss mode m = roundMagnitude mode m := by
  simp [roundLoss_eq]

/-- R70: a negative product is rounded as the mirror of the positive one. -/
theorem roundLoss_neg_natCast (mode : Rounding) (m : Nat) : roundLoss mode (-m) = -roundMagnitude mode m := by
  cases m with
  | zero => simp [roundLoss_eq, roundMagnitude_zero]
  | succ k => rw [roundLoss_eq, if_pos (by omega), Int.natAbs_neg, Int.natAbs_natCast]

theorem roundLoss_neg (mode : Rounding) (n : Int) : roundLoss mode (-n) = -roundLoss mode n := by
  obtain ⟨m, rfl | rfl⟩ := n.eq_nat_or_neg
  · rw [roundLoss_neg_natCast, roundLoss_natCast]
  · rw [neg_neg, roundLoss_neg_natCast, roundLoss_natCast, neg_neg]

theorem roundLoss_nearest (n : Int) :
    2 * (roundLoss .nearest n * 65536 - n).natAbs ≤ 65536
      ∧ (2 * (roundLoss .nearest n * 65536 - n).natAbs = 65536 → roundLoss .nearest n % 2 = 0) := by
  obtain ⟨m, hn⟩ := n.eq_nat_or_neg
  obtain ⟨hclose, heven⟩ := roundHalfEven_nearest m
  obtain rfl | rfl := hn
  · simp only [roundLoss_natCast, roundMagnitude]
    omega
  · simp only [roundLoss_neg_natCast, roundMagnitude]
    omega

theorem roundLoss_towardZero (n : Int) :
    (roundLoss .towardZero n).natAbs = n.natAbs / 65536
      ∧ (0 ≤ n → 0 ≤ roundLoss .towardZero n) ∧ (n ≤ 0 → roundLoss .towardZero n ≤ 0) := by
  obtain ⟨m, rfl | rfl⟩ := n.eq_nat_or_neg
  · simp only [roundLoss_natCast, roundMagnitude]
    omega
  · simp only [roundLoss_neg_natCast, roundMagnitude]
    omega

/-- A cabin as much colder than the outdoors gains what the other loses. -/
theorem stageLoss_swap (mode : Rounding) (length loss : Nat) (cabin outdoor : Int) :
    stageLoss mode length loss outdoor cabin = -stageLoss mode length loss cabin outdoor := by
  rw [stageLoss, stageLoss, ← roundLoss_neg, ← mul_neg, neg_sub]

/-! ## The planner word (R66) -/

theorem planWord_ne_iff (x : Int) : planWord x ≠ x ↔ x < -2048 ∨ 2047 < x := by
  simp only [planWord, clampInt]
  omega

theorem planSat_of_ne {x : Int} (h : planWord x ≠ x) : planSat x = causeSat := by
  simp [planSat, causeIf, h]

theorem planSat_of_eq {x : Int} (h : planWord x = x) : planSat x = 0#6 := by
  simp [planSat, causeIf, h]

theorem planSat_eq_causeSat_iff (x : Int) : planSat x = causeSat ↔ x < -2048 ∨ 2047 < x := by
  rw [← planWord_ne_iff]
  refine ⟨fun hsat heq => ?_, planSat_of_ne⟩
  rw [planSat_of_eq heq] at hsat
  exact absurd hsat (by decide)

theorem planSat_eq_zero_or_causeSat (x : Int) : planSat x = 0#6 ∨ planSat x = causeSat :=
  (em (planWord x = x)).imp planSat_of_eq planSat_of_ne

/-- Settles O53: each mode rounds the magnitude, the sign is put back after it, and the word saturates the result. -/
theorem lossRounded : Obligations.LossRounded := by
  intro mode length loss cabin outdoor n l
  refine ⟨?_, ?_, stageLoss_swap mode length loss cabin outdoor, rfl, planSat_eq_causeSat_iff l, planSat_eq_zero_or_causeSat l⟩
  · rintro rfl
    exact roundLoss_nearest n
  · rintro rfl
    exact roundLoss_towardZero n

end Sys2Proof.Machine

/-! PROOF. SET PLANNER (R56): the refusal of a rounding mode, and the five settings of a command that passes. -/

namespace Sys2Proof.Machine

/-- SET PLANNER from dispatch. -/
theorem exec_setPlanner_of_ready {a : PlannerArgs} {s : State} (hr : s.ready .dispatch) :
    exec (.setPlanner .dispatch a) s = .next (answer .dispatch (ruleSetPlanner a s).2 (ruleSetPlanner a s).1) :=
  event_takeCommand_of_ready _ hr (by decide) (by simp)

/-! ## The rounding mode -/

theorem roundingOf_of_gt {b : Byte} (h : 1 < b.toNat) : roundingOf b = none := by
  have h0 : b ≠ 0#8 := by rintro rfl; exact absurd h (by decide)
  have h1 : b ≠ 1#8 := by rintro rfl; exact absurd h (by decide)
  simp [roundingOf, h0, h1]

theorem roundingOf_of_le {b : Byte} (h : b.toNat ≤ 1) : roundingOf b = some (if b = 0#8 then .nearest else .towardZero) := by
  by_cases h0 : b = 0#8
  · simp [roundingOf, h0]
  · have h1 : b = 1#8 := by bv_omega
    simp [roundingOf, h1]

theorem roundingTaken_of_valid {v : Option Byte} (old : Rounding) (h : ∀ b, v = some b → b.toNat ≤ 1) :
    roundingTaken old v = some (v.elim old fun b => if b = 0#8 then .nearest else .towardZero) := by
  cases v with
  | none => rfl
  | some b => exact roundingOf_of_le (h b rfl)

/-! ## The other settings -/

/-- Whole seconds never fall halfway, so each bound may be given from either side. -/
theorem nearestSlot_eq (v : Nat) : nearestSlot v = if v ≤ 22 then 15 else if v ≤ 37 then 30 else if v ≤ 52 then 45 else 60 := by
  simp only [nearestSlot, Nat.lt_succ_iff]

theorem settingTaken_eq_elim (low high old : Int) (v : Option Half) :
    settingTaken low high old v = v.elim old fun h => max low (min high h.toInt) := by
  cases v <;> rfl

theorem settingClamped_iff (low high : Int) (v : Option Half) :
    settingClamped low high v = true ↔ ∃ h, v = some h ∧ max low (min high h.toInt) ≠ h.toInt := by
  cases v with
  | none => simp [settingClamped]
  | some h => simp [settingClamped, clampInt, signed]

/-- R56: the planner's record after a command whose rounding mode is this one. -/
theorem setPlannerSettings_eq (a : PlannerArgs) (mode : Rounding) (s : State) : setPlannerSettings a mode s =
    { s with planner := { s.planner with
        slotLength := a.slotLength.elim s.planner.slotLength fun b => nearestSlot b.toNat
        rounding := mode
        frostFloor := a.frostFloor.elim s.planner.frostFloor fun h => max 0 (min 160 h.toInt)
        tolerance := a.tolerance.elim s.planner.tolerance fun h => max 8 (min 80 h.toInt)
        defaultTarget := a.defaultTarget.elim s.planner.defaultTarget fun h => max 160 (min 384 h.toInt) } } := by
  simp only [setPlannerSettings, State.updPlanner, settingTaken_eq_elim]
  cases a.slotLength <;> rfl

/-- R56: OK_CLAMPED is for a value clamped or a length moved to the nearest. -/
theorem plannerClamped_iff (a : PlannerArgs) : plannerClamped a = true ↔
    (∃ b, a.slotLength = some b ∧ nearestSlot b.toNat ≠ b.toNat)
      ∨ (∃ h, a.frostFloor = some h ∧ max 0 (min 160 h.toInt) ≠ h.toInt)
      ∨ (∃ h, a.tolerance = some h ∧ max 8 (min 80 h.toInt) ≠ h.toInt)
      ∨ (∃ h, a.defaultTarget = some h ∧ max 160 (min 384 h.toInt) ≠ h.toInt) := by
  simp only [plannerClamped, Bool.or_eq_true, settingClamped_iff, or_assoc]
  cases a.slotLength <;> simp

theorem takenStatus_eq_ok_or_okClamped (c : Bool) : takenStatus c = .ok ∨ takenStatus c = .okClamped := by
  cases c <;> simp [takenStatus]

theorem takenStatus_eq_okClamped_iff (c : Bool) : takenStatus c = .okClamped ↔ c = true := by
  cases c <;> simp [takenStatus]

/-! ## The two outcomes of the rule -/

theorem ruleSetPlanner_of_badRounding {a : PlannerArgs} {b : Byte} (s : State) (ha : a.rounding = some b) (hb : 1 < b.toNat) :
    ruleSetPlanner a s = (s, ⟨.badCommand, .empty⟩) := by
  simp [ruleSetPlanner, roundingTaken, refusal, ha, roundingOf_of_gt hb]

theorem ruleSetPlanner_of_rounding {a : PlannerArgs} {mode : Rounding} {s : State}
    (h : roundingTaken s.planner.rounding a.rounding = some mode) :
    ruleSetPlanner a s = (setPlannerSettings a mode s,
      ⟨takenStatus (plannerClamped a), .planner (setPlannerSettings a mode s).planner.view⟩) := by
  simp [ruleSetPlanner, h]

/-- Settles O27: the rounding mode decides between the refusal and the settings, which setPlannerSettings_eq gives one by one. -/
theorem plannerSet : Obligations.PlannerSet := by
  intro a s hr slot near
  have hslot : nearestSlot = slot := funext nearestSlot_eq
  refine ⟨fun b ha hb => ?_, fun hvalid => ⟨_, takenStatus (plannerClamped a), ?_, rfl, takenStatus_eq_ok_or_okClamped _, ?_⟩⟩
  · rw [exec_setPlanner_of_ready hr, ruleSetPlanner_of_badRounding s ha hb]
  · rw [exec_setPlanner_of_ready hr, ruleSetPlanner_of_rounding (roundingTaken_of_valid _ hvalid), setPlannerSettings_eq, hslot]
    rfl
  · rw [takenStatus_eq_okClamped_iff, plannerClamped_iff, hslot]

end Sys2Proof.Machine

/-! PROOF. UNPIN (R83), and leaving the on-set (R91) with or without an entry of the chain left. -/

namespace Sys2Proof.Machine

/-! ## UNPIN -/

/-- UNPIN from the workshop. -/
theorem exec_unpin_of_ready {position : Byte} {s : State} (hr : s.ready .workshop) :
    exec (.unpin .workshop position) s
      = .next (answer .workshop (ruleUnpin position s).2 (ruleUnpin position s).1) :=
  event_takeCommand_of_ready _ hr (by decide) (by simp)

theorem ruleUnpin_of_pinned_le {position : Byte} {s : State} (h : s.seq.pinned ≤ position.toNat) :
    ruleUnpin position s = (s, ⟨.notFound, .empty⟩) := if_pos h

theorem ruleUnpin_of_lt_pinned {position : Byte} {s : State} (h : position.toNat < s.seq.pinned) :
    ruleUnpin position s = (s.updSeq (·.removeEntry position.toNat), ⟨.ok, .empty⟩) := if_neg (Nat.not_le.mpr h)

/-! ## A contactor commanded OFF (R90) -/

theorem commandHeat_of_eq {b : BayNo} {on : Bool} {s : State} (h : s.seq.commanded[b].on = on) : commandHeat b on s = s :=
  if_pos h

theorem commandHeat_of_ne {b : BayNo} {on : Bool} {s : State} (h : s.seq.commanded[b].on ≠ on) : commandHeat b on s =
    requestHeat b on { s with seq := { s.seq with commanded := s.seq.commanded.set b ⟨on, s.now⟩ } } := if_neg h

@[simp] theorem requestHeat_seq (b : BayNo) (on : Bool) (s : State) : (requestHeat b on s).seq = s.seq := by
  rw [requestHeat_frame]

/-- R90: the commanded state after OFF, its age begun anew when the contactor was ON. -/
theorem commandHeat_off_seq (b : BayNo) (s : State) : (commandHeat b false s).seq =
    { s.seq with
      commanded := if s.seq.commanded[b].on then s.seq.commanded.set b ⟨false, s.now⟩ else s.seq.commanded } := by
  cases hon : s.seq.commanded[b].on with
  | false => rw [commandHeat_of_eq hon]; rfl
  | true => rw [commandHeat_of_ne (Bool.ne_false_iff.mpr hon), requestHeat_seq]; rfl

theorem commandHeat_off_bus {b : BayNo} {s : State} (h : s.seq.commanded[b].on = false ∨ s.silent b = true) :
    (commandHeat b false s).bus = s.bus := by
  by_cases hon : s.seq.commanded[b].on = false
  · rw [commandHeat_of_eq hon]
  · have hsilent : s.silent b = true := h.resolve_left hon
    rw [commandHeat_of_ne hon, requestHeat_bus]
    exact if_pos hsilent

theorem commandHeat_off_waits {b : BayNo} {s : State} (hon : s.seq.commanded[b].on = true) (hpost : s.silent b = false) :
    (commandHeat b false s).waits (· == .heat b false) = true := by
  rw [commandHeat_of_ne (Bool.ne_false_iff.mpr hon)]
  exact requestHeat_waits hpost

/-! ## Leaving the on-set (R91) -/

theorem leaveOnSet_of_not_member {b : BayNo} {s : State} (h : s.seq.member b = none) : leaveOnSet b s = s := by
  simp [leaveOnSet, h]

/-- A member leaves: its entry, if it has one left, is MISSED, and then the bay is commanded OFF. -/
theorem leaveOnSet_of_member {b : BayNo} {m : Member} {s : State} (h : s.seq.member b = some m) : leaveOnSet b s =
    commandHeat b false { s with seq := { s.seq with
      onSet := s.seq.onSet.filter (·.bay != b)
      chain := markMissed s.seq.chain m.entry } } := by
  simp [leaveOnSet, h, State.updSeq]

/-! ## CLOSE BAY's pins -/

/-- R16, R83: closing an EMPTY bay leaves the entries that are no pins of it. -/
theorem closeBay_chain_of_empty {b : BayNo} {s : State} (h : (s.bay b).state = .empty) :
    (closeBay b s).seq.chain = s.seq.chain.filter fun e => !e.isPinOf b := by
  rw [closeBay_of_empty h, removePins_eq]
  rfl

/-- Settles O21: UNPIN by the position among the pins; a leaving member by what commanding its bay OFF does; a closing by the pins that
removePins_eq takes out. -/
theorem pinRemoved : Obligations.PinRemoved := by
  refine ⟨fun position s hr => ⟨fun hle => ?_, fun hlt => ?_⟩,
    fun b s => ⟨leaveOnSet_of_not_member, fun m hm => ⟨?_, fun h => ?_, fun hon hpost => ?_, ?_⟩⟩,
    fun bay s hr hb hempty => ⟨answer .workshop ⟨.ok, .empty⟩ (closeBay (bayOf bay) s), ?_, ?_⟩⟩
  · rw [exec_unpin_of_ready hr, ruleUnpin_of_pinned_le hle]
  · rw [exec_unpin_of_ready hr, ruleUnpin_of_lt_pinned hlt]
    rfl
  · rw [leaveOnSet_of_member hm, commandHeat_off_seq]
    cases m.entry with
    | none => rfl
    | some i => rfl
  · rw [leaveOnSet_of_member hm]
    exact commandHeat_off_bus h
  · rw [leaveOnSet_of_member hm]
    exact commandHeat_off_waits hon hpost
  · rw [leaveOnSet_frame]
  · rw [exec_closeBay_of_ready hr hb, ruleCloseBay_of_empty hempty]
  · calc (answer .workshop ⟨.ok, .empty⟩ (closeBay (bayOf bay) s)).seq.chain
      _ = (closeBay (bayOf bay) s).seq.chain := by rw [answer_frame]
      _ = s.seq.chain.filter fun e => !e.isPinOf (bayOf bay) := closeBay_chain_of_empty hempty

end Sys2Proof.Machine

/-! PROOF. WRITE RULE and READ RULE (R132): what is refused, the entry written with its codes in range and in order, the entry read. -/

namespace Sys2Proof.Machine

/-- WRITE RULE from the workshop. -/
theorem exec_writeRule_of_ready {index : Byte} {a : RuleArgs} {s : State} (hr : s.ready .workshop) :
    exec (.writeRule .workshop index a) s
      = .next (answer .workshop (ruleWriteRule index a s).2 (ruleWriteRule index a s).1) :=
  event_takeCommand_of_ready _ hr (by decide) (by simp)

/-- READ RULE from either link. -/
theorem exec_readRule_of_ready {l : Link} {index : Byte} {s : State} (hr : s.ready l) :
    exec (.readRule l index) s = .next (answer l (ruleReadRule index s).2 (ruleReadRule index s).1) :=
  event_takeCommand_of_ready _ hr (by cases l <;> decide) (by simp)

/-! ## The action -/

theorem actionOf_eq_none_of_gt {b : Byte} (h : 2 < b.toNat) : actionOf b = none := by
  have h0 : b ≠ 0#8 := by bv_omega
  have h1 : b ≠ 1#8 := by bv_omega
  have h2 : b ≠ 2#8 := by bv_omega
  simp [actionOf, h0, h1, h2]

theorem actionOf_eq_some_of_mem {b : Byte} {x : Action} (h : (b, x) ∈ [(0#8, Action.block), (1#8, .inhibit), (2#8, .note)]) :
    actionOf b = some x := by
  simp only [List.mem_cons, Prod.mk.injEq, List.not_mem_nil, or_false] at h
  obtain ⟨rfl, rfl⟩ | ⟨rfl, rfl⟩ | ⟨rfl, rfl⟩ := h <;> rfl

/-! ## The codes and the entry -/

/-- R132: OK_CLAMPED is for a code clamped or for codes that come in the wrong order. -/
theorem ruleClamped_iff (low high : Half) : ruleClamped low high = true ↔
    codeTaken low ≠ low.toNat ∨ codeTaken high ≠ high.toNat ∨ codeTaken high < codeTaken low := by
  simp [ruleClamped, or_assoc]

theorem ruleIndex_val {index : Byte} (h : index.toNat < 32) : (ruleIndex index).val = index.toNat := Nat.mod_eq_of_lt h

theorem setRule_ruleIndex {index : Byte} (h : index.toNat < 32) (r : Option Rule) (s : State) :
    setRule (ruleIndex index) r s = { s with reader := { s.reader with rules := s.reader.rules.set index.toNat r } } := by
  simp [setRule, State.updReader, ruleIndex_val h]

/-! ## The outcomes of WRITE RULE's rule -/

theorem ruleWriteRule_of_gt {index : Byte} (a : RuleArgs) (s : State) (h : 31 < index.toNat) :
    ruleWriteRule index a s = (s, ⟨.notFound, .empty⟩) := if_pos h

theorem ruleWriteRule_unused {index : Byte} (s : State) (h : index.toNat < 32) :
    ruleWriteRule index .unused s = (setRule (ruleIndex index) none s, ⟨.ok, .rule none⟩) :=
  if_neg (Nat.not_lt.mpr (Nat.le_of_lt_succ h))

theorem ruleWriteRule_of_badAction {index : Byte} (low high : Half) {action : Byte} (s : State) (h : index.toNat < 32)
    (ha : actionOf action = none) : ruleWriteRule index (.use low high action) s = (s, ⟨.badCommand, .empty⟩) := by
  simp [ruleWriteRule, refusal, Nat.le_of_lt_succ h, ha]

theorem ruleWriteRule_of_action {index : Byte} (low high : Half) {action : Byte} {x : Action} (s : State)
    (h : index.toNat < 32) (ha : actionOf action = some x) :
    ruleWriteRule index (.use low high action) s =
      (setRule (ruleIndex index) (some (ruleTaken low high x)) s,
        ⟨takenStatus (ruleClamped low high), .rule (some (ruleTaken low high x))⟩) := by
  simp [ruleWriteRule, Nat.le_of_lt_succ h, ha]

theorem exec_writeRule_of_gt {index : Byte} (a : RuleArgs) {s : State} (hr : s.ready .workshop) (h : 31 < index.toNat) :
    exec (.writeRule .workshop index a) s = .next (answer .workshop ⟨.notFound, .empty⟩ s) := by
  rw [exec_writeRule_of_ready hr, ruleWriteRule_of_gt a s h]

/-! ## The two outcomes of READ RULE's rule -/

theorem ruleReadRule_of_gt {index : Byte} (s : State) (h : 31 < index.toNat) :
    ruleReadRule index s = (s, ⟨.notFound, .empty⟩) := by
  simp [ruleReadRule, refusal, Nat.not_lt.mpr (Nat.succ_le_of_lt h)]

theorem ruleReadRule_of_lt {index : Byte} (s : State) (h : index.toNat < 32) :
    ruleReadRule index s = (s, ⟨.ok, .rule s.reader.rules[index.toNat]⟩) := by
  simp [ruleReadRule, h]

/-- Settles O14: an index outside the table is refused before the action is looked at (log 35); inside it the action decides between the
refusal and the entry, which is ruleTaken's. -/
theorem ruleTable : Obligations.RuleTable := by
  intro index s code
  refine ⟨fun hr => ⟨?_, fun low high action h _ => ?_, fun low high action h _ => ⟨.notFound, ?_, .inl rfl⟩,
      fun h => ⟨?_, fun low high action ha => ?_, fun low high action x hx => ?_⟩⟩, fun l hr => ⟨fun h => ?_, fun h => ?_⟩⟩
  · exact exec_writeRule_of_gt _ hr
  · exact exec_writeRule_of_gt _ hr h
  · exact exec_writeRule_of_gt _ hr h
  · rw [exec_writeRule_of_ready hr, ruleWriteRule_unused s h, setRule_ruleIndex h]
  · rw [exec_writeRule_of_ready hr, ruleWriteRule_of_badAction low high s h (actionOf_eq_none_of_gt ha)]
  · rw [exec_writeRule_of_ready hr, ruleWriteRule_of_action low high s h (actionOf_eq_some_of_mem hx),
      setRule_ruleIndex h, takenStatus]
    simp only [ruleClamped_iff]
    rfl
  · rw [exec_readRule_of_ready hr, ruleReadRule_of_gt s h]
  · rw [exec_readRule_of_ready hr, ruleReadRule_of_lt s h]

end Sys2Proof.Machine

/-! PROOF. READ NOTICES (R189): the pending set answered and emptied, the attention line, and a notice that joins the emptied set. -/

namespace Sys2Proof.Machine

/-- READ NOTICES from either link. -/
theorem exec_readNotices_of_ready {l : Link} {s : State} (hr : s.ready l) :
    exec (.readNotices l) s = .next (answer l (ruleReadNotices l s).2 (ruleReadNotices l s).1) :=
  event_takeCommand_of_ready _ hr (by cases l <;> decide) (by simp)

/-- At the link that reads, READ NOTICES' rule touches the pending set alone. -/
theorem port_ruleReadNotices (l : Link) (s : State) :
    (ruleReadNotices l s).1.port l = { s.port l with notices := Notices.empty } := port_updPort_same s l _

theorem ruleReadNotices_resetHeld (l : Link) (s : State) : (ruleReadNotices l s).1.resetHeld = s.resetHeld :=
  updPort_resetHeld s l _

/-! ## What an answer leaves of the port, and what a posting does to it -/

@[simp] theorem port_answer_notices (l : Link) (r : Response) (s : State) : ((answer l r s).port l).notices = (s.port l).notices := by
  simp [answer]

@[simp] theorem port_answer_noticeMask (l : Link) (r : Response) (s : State) :
    ((answer l r s).port l).noticeMask = (s.port l).noticeMask := by
  simp [answer]

@[simp] theorem answer_resetHeld (l : Link) (r : Response) (s : State) : (answer l r s).resetHeld = s.resetHeld := by
  simp [answer]

@[simp] theorem port_postTo_notices (l : Link) (k : NoticeKind) (bs : BaySet) (s : State) :
    ((postTo l k bs s).port l).notices = (s.port l).notices.add k bs := by
  simp [postTo]

@[simp] theorem port_postTo_noticeMask (l : Link) (k : NoticeKind) (bs : BaySet) (s : State) :
    ((postTo l k bs s).port l).noticeMask = (s.port l).noticeMask := by
  simp [postTo]

@[simp] theorem postTo_resetHeld (l : Link) (k : NoticeKind) (bs : BaySet) (s : State) :
    (postTo l k bs s).resetHeld = s.resetHeld := by
  simp [postTo]

/-! ## The attention line (R188) -/

theorem attention_of_not_held {l : Link} {s : State} (h : s.resetHeld = false) :
    s.attention l = true ↔ (s.port l).notices.kinds &&& (s.port l).noticeMask ≠ 0#8 := by
  simp [State.attention, Port.attention, h]

/-- Nothing pending asserts nothing, whatever the mask and the reset line. -/
theorem attention_of_empty {l : Link} {s : State} (h : (s.port l).notices = Notices.empty) : s.attention l = false := by
  simp [State.attention, Port.attention, Notices.empty, h]

/-- R187: a posting makes its own kind pending and no other. -/
theorem kinds_add (n : Notices) (k : NoticeKind) (bs : BaySet) : (n.add k bs).kinds = n.kinds ||| k.bit := by
  cases k <;> rfl

/-- A notice posted where nothing is pending asserts the line exactly when its kind is enabled. -/
theorem attention_postTo_of_empty {l : Link} {s : State} (k : NoticeKind) (bs : BaySet) (hheld : s.resetHeld = false)
    (h : (s.port l).notices = Notices.empty) :
    (postTo l k bs s).attention l = true ↔ (s.port l).noticeMask &&& k.bit ≠ 0#8 := by
  have hkinds : (Notices.empty.add k bs).kinds = k.bit := by simp [kinds_add, Notices.empty]
  rw [attention_of_not_held (by simpa using hheld), port_postTo_notices, port_postTo_noticeMask, h, hkinds, BitVec.and_comm]

/-- Settles O10: the state the answer leaves has nothing pending at the link, its mask as it was and the reset line released; the line and
the posting then go by the lemmas for an empty pending set. -/
theorem noticesRead : Obligations.NoticesRead := by
  intro l s hr t
  have ht : t = answer l (ruleReadNotices l s).2 (ruleReadNotices l s).1 := rfl
  have hempty : (t.port l).notices = Notices.empty := by rw [ht, port_answer_notices, port_ruleReadNotices]
  have hmask : (t.port l).noticeMask = (s.port l).noticeMask := by rw [ht, port_answer_noticeMask, port_ruleReadNotices]
  have hheld : t.resetHeld = false := by rw [ht, answer_resetHeld, ruleReadNotices_resetHeld, hr.1]
  refine ⟨exec_readNotices_of_ready hr, attention_of_empty hempty, fun k bs => ⟨?_, ?_⟩⟩
  · rw [port_postTo_notices, hempty]
  · rw [attention_postTo_of_empty k bs hheld hempty, hmask]

end Sys2Proof.Machine

/-! PROOF. The laws that hold at all times: each is shown for the elementary changes of Kept, one block at a time; a change that touches
another block leaves the law's block as it stood. -/

namespace Sys2Proof.Machine

/-! ## What the sequencer's changes and a bay's state leave of the other blocks -/

@[simp] theorem commandHeat_book (b : BayNo) (on : Bool) (s : State) : (commandHeat b on s).book = s.book := by rw [commandHeat_frame]
@[simp] theorem commandHeat_bays (b : BayNo) (on : Bool) (s : State) : (commandHeat b on s).bays = s.bays := by rw [commandHeat_frame]
@[simp] theorem commandHeat_lamp (b : BayNo) (on : Bool) (s : State) : (commandHeat b on s).lamp = s.lamp := by rw [commandHeat_frame]
@[simp] theorem commandHeat_store (b : BayNo) (on : Bool) (s : State) : (commandHeat b on s).store = s.store := by rw [commandHeat_frame]

@[simp] theorem leaveOnSet_book (b : BayNo) (s : State) : (leaveOnSet b s).book = s.book := by rw [leaveOnSet_frame]
@[simp] theorem leaveOnSet_bays (b : BayNo) (s : State) : (leaveOnSet b s).bays = s.bays := by rw [leaveOnSet_frame]
@[simp] theorem leaveOnSet_lamp (b : BayNo) (s : State) : (leaveOnSet b s).lamp = s.lamp := by rw [leaveOnSet_frame]
@[simp] theorem leaveOnSet_store (b : BayNo) (s : State) : (leaveOnSet b s).store = s.store := by rw [leaveOnSet_frame]

@[simp] theorem silenceHeating_book (b : BayNo) (s : State) : (silenceHeating b s).book = s.book := by rw [silenceHeating_frame]
@[simp] theorem silenceHeating_bays (b : BayNo) (s : State) : (silenceHeating b s).bays = s.bays := by rw [silenceHeating_frame]
@[simp] theorem silenceHeating_lamp (b : BayNo) (s : State) : (silenceHeating b s).lamp = s.lamp := by rw [silenceHeating_frame]
@[simp] theorem silenceHeating_store (b : BayNo) (s : State) : (silenceHeating b s).store = s.store := by rw [silenceHeating_frame]

@[simp] theorem tearDownHeating_book (b : BayNo) (s : State) : (tearDownHeating b s).book = s.book := by rw [tearDownHeating_frame]
@[simp] theorem tearDownHeating_bays (b : BayNo) (s : State) : (tearDownHeating b s).bays = s.bays := by rw [tearDownHeating_frame]
@[simp] theorem tearDownHeating_lamp (b : BayNo) (s : State) : (tearDownHeating b s).lamp = s.lamp := by rw [tearDownHeating_frame]
@[simp] theorem tearDownHeating_store (b : BayNo) (s : State) : (tearDownHeating b s).store = s.store := by rw [tearDownHeating_frame]

@[simp] theorem shed_book (s : State) : (shed s).book = s.book := by rw [shed_frame]
@[simp] theorem shed_bays (s : State) : (shed s).bays = s.bays := by rw [shed_frame]
@[simp] theorem shed_lamp (s : State) : (shed s).lamp = s.lamp := by rw [shed_frame]
@[simp] theorem shed_store (s : State) : (shed s).store = s.store := by rw [shed_frame]

@[simp] theorem setBayState_book (b : BayNo) (st : BayState) (s : State) : (setBayState b st s).book = s.book := by rw [setBayState_frame]
@[simp] theorem setBayState_seq (b : BayNo) (st : BayState) (s : State) : (setBayState b st s).seq = s.seq := by rw [setBayState_frame]
@[simp] theorem setBayState_lamp (b : BayNo) (st : BayState) (s : State) : (setBayState b st s).lamp = s.lamp := by rw [setBayState_frame]
@[simp] theorem setBayState_store (b : BayNo) (st : BayState) (s : State) : (setBayState b st s).store = s.store := by
  rw [setBayState_frame]

/-! ## The defect store (R137) -/

theorem storeSound_kept : Kept fun s => s.store.sound := by
  constructor
  case finding => intro b f s h; exact Store.applyFinding_sound h b f
  case remove => intro b p s h; exact Store.removeWhere_sound h b p
  case update => intro b p f s hf h; exact Store.updateWhere_sound h b p f hf
  case marks => intro m s h; exact Store.sound_congr h rfl rfl
  case manual => intro b code x st s hm hc h; exact Store.manual_sound h hm hc
  case restartStore => intro s h; exact Store.reset_sound
  case powerOn => intro b f a q n; exact Store.reset_sound
  case timers =>
    intro s h
    refine Store.map_sound h Defect.elapse rfl rfl fun d => ?_
    unfold Defect.elapse
    split <;> exact ⟨rfl, rfl, rfl⟩
  case recordAges => intro ms s h; exact Store.map_sound h _ rfl rfl fun d => ⟨rfl, rfl, rfl⟩
  all_goals intros; simpa [reorder, updRecord, removeRecord, addRecord, setBayState_store] using ‹Store.sound _›

/-! ## The plug (R13) -/

/-- R13 at one bay's record. -/
def Bay.plugSound (r : Bay) : Prop := (r.state = .cleared → r.plug = true) ∧ (r.state = .leaving → r.plug = false)

theorem plugSound_iff (s : State) : s.plugSound ↔ ∀ b, (s.bay b).plugSound := Iff.rfl

theorem plugSound_of_bays {s t : State} (h : s.plugSound) (hb : t.bays = s.bays) : t.plugSound := by
  simpa [State.plugSound, State.bay, hb] using h

/-- R13 is a law of each bay by itself, so that a change at one bay is judged there. -/
theorem plugSound_updBay {b : BayNo} {f : Bay → Bay} {s : State} (h : s.plugSound) (hb : (f (s.bay b)).plugSound) :
    (s.updBay b f).plugSound := by
  rw [plugSound_iff]
  intro c
  by_cases hc : b = c
  · subst hc; simpa using hb
  · rw [bay_updBay_of_ne _ _ _ _ hc]; exact h c

theorem plugSound_map {f : Bay → Bay} {s t : State} (h : s.plugSound) (hb : t.bays = s.bays.map f)
    (hf : ∀ r, (f r).state = r.state ∧ (f r).plug = r.plug) : t.plugSound := by
  intro b
  simpa [State.bay, hb, hf] using h b

theorem bays_setBayState (b : BayNo) (st : BayState) (s : State) :
    (setBayState b st s).bays = (s.updBay b fun r => { r with state := st }).bays := by
  unfold setBayState
  split
  case isTrue h => subst h; exact (Vector.set_getElem_self b.isLt).symm
  case isFalse => rw [notifyBay_frame]

theorem plugSound_setBayState {b : BayNo} {st : BayState} {s : State} (h : (s.updBay b fun r => { r with state := st }).plugSound) :
    (setBayState b st s).plugSound :=
  plugSound_of_bays h (bays_setBayState b st s)

/-- A bay's state and plug set by two changes of its record, whatever the record was between them. -/
theorem plugSound_updBay_updBay {b : BayNo} {f g : Bay → Bay} {s : State} (h : s.plugSound) (hb : (g (f (s.bay b))).plugSound) :
    ((s.updBay b f).updBay b g).plugSound := by
  rw [updBay_updBay]; exact plugSound_updBay h hb

theorem plugSound_kept : Kept State.plugSound := by
  constructor
  case cabinAges => intro ms s h; exact plugSound_map h rfl fun r => ⟨rfl, rfl⟩
  case timers => intro s h; exact plugSound_map h rfl fun r => ⟨rfl, rfl⟩
  case powerOn => intro b f a q n c; simp [State.bay, State.powerOn, Bay.reset]
  case bayField =>
    intro b f s hf h
    exact plugSound_updBay h (by simpa [Bay.plugSound, hf] using h b)
  case bayState =>
    intro b st s hc hl h
    exact plugSound_updBay h ⟨fun e => absurd e hc, fun e => absurd e hl⟩
  case bayGrant =>
    intro b s h
    refine plugSound_updBay h ?_
    cases hp : (s.bay b).plug <;> simp [Bay.plugSound]
  case bayPlug =>
    intro b v f s hf hin hout h
    refine plugSound_updBay h ?_
    simp only [Bay.plugSound, hf]
    grind
  case plugDrawn =>
    intro b s hs h
    refine plugSound_setBayState ?_
    rw [recordUnplug, updBay_updBay]
    exact plugSound_updBay_updBay h ⟨by simp, by simp⟩
  case plugBack =>
    intro b s hs h
    refine plugSound_setBayState ?_
    rw [updBay_updBay]
    exact plugSound_updBay_updBay h ⟨by simp, by simp⟩
  all_goals
    intros
    refine plugSound_of_bays ‹State.plugSound _› ?_
    simp [reorder, updRecord, removeRecord, addRecord, ageRecords, setEngine, setLimits, closeRound, closeHeating, restartHeating,
      restartStore]

/-! ## The book (R38) -/

theorem insertSorted_perm {α : Type} (before : α → α → Bool) (x : α) (xs : List α) : (insertSorted before x xs).Perm (x :: xs) := by
  induction xs with
  | nil => exact .refl _
  | cons y ys ih =>
    unfold insertSorted
    split
    · exact .refl _
    · exact (ih.cons y).trans (.swap x y ys)

theorem sortBy_perm {α : Type} (before : α → α → Bool) (xs : List α) : (sortBy before xs).Perm xs := by
  induction xs with
  | nil => exact .refl _
  | cons x xs ih => exact (insertSorted_perm _ x _).trans (ih.cons x)

/-- The book's law is one of its refs alone, and of fewer of them. -/
theorem Book.sound_of_subperm {k k' : Book} (h : k.sound) (hr : (k'.records.map (·.ref)).Subperm (k.records.map (·.ref))) : k'.sound := by
  obtain ⟨hlen, hnodup, hrange⟩ := h
  refine ⟨by simpa using hr.length_le.trans (by simpa using hlen), ?_, fun d hd => ?_⟩
  · obtain ⟨l, hl, hsub⟩ := hr
    exact hl.nodup_iff.mp (hsub.nodup hnodup)
  · obtain ⟨e, he, href⟩ := List.mem_map.mp (hr.subset (List.mem_map_of_mem hd))
    exact href ▸ hrange e he

theorem Book.sound_of_refs {k k' : Book} (h : k.sound) (hr : k'.records.map (·.ref) = k.records.map (·.ref)) : k'.sound :=
  Book.sound_of_subperm h (by rw [hr])

theorem bookSound_reorder {s : State} (h : s.book.sound) : (reorder s).book.sound :=
  Book.sound_of_subperm h ((sortBy_perm _ _).map _).subperm

theorem readyNumber_refs (k : Book) : k.readyNumber.records.map (·.ref) = k.records.map (·.ref) := by
  unfold Book.readyNumber
  split
  · rfl
  · simp [renumber, Function.comp_def]

theorem bookRefusal_eq_none {s : State} {a : BookArgs} (h : s.bookRefusal a = none) :
    a.ref ≠ 0#16 ∧ s.book.find a.ref.toNat = none ∧ s.book.records.length < 48 := by
  unfold State.bookRefusal bookRoom at h
  split_ifs at h; simp_all

theorem bookSound_addRecord {s : State} {a : BookArgs} (hfree : s.bookRefusal a = none) (h : s.book.sound) : (addRecord a s).book.sound := by
  obtain ⟨hzero, hnew, hroom⟩ := bookRefusal_eq_none hfree
  obtain ⟨hlen, hnodup, hrange⟩ := Book.sound_of_refs h (readyNumber_refs s.book)
  have href : ∀ d ∈ s.book.readyNumber.records, d.ref ≠ a.ref.toNat := by
    intro d hd he
    have hmem : a.ref.toNat ∈ s.book.records.map (·.ref) := by
      rw [← readyNumber_refs, ← he]; exact List.mem_map_of_mem hd
    obtain ⟨e, he, heq⟩ := List.mem_map.mp hmem
    simpa [heq] using List.find?_eq_none.mp hnew e he
  have hlength : s.book.readyNumber.records.length = s.book.records.length := by
    simpa using congrArg List.length (readyNumber_refs s.book)
  refine bookSound_reorder ⟨?_, ?_, ?_⟩
  · simp only [updBook_book, List.length_append, List.length_singleton]; omega
  · simpa [List.nodup_append, newRecord, hnodup] using href
  · intro d hd
    obtain hd | rfl := by simpa using hd
    · exact hrange d hd
    · have : a.ref.toNat ≠ 0 := fun e => hzero (by bv_omega)
      exact ⟨by simp only [newRecord]; omega, by simp only [newRecord]; bv_omega⟩

theorem bookSound_kept : Kept fun s => s.book.sound := by
  constructor
  case reorder => intro s h; exact bookSound_reorder h
  case updRecord =>
    intro ref f s hf h
    refine Book.sound_of_refs h ?_
    simp only [Machine.updRecord, updBook_book, Book.update, List.map_map]
    refine List.map_congr_left fun d _ => ?_
    simp only [Function.comp]
    split
    · exact hf d
    · rfl
  case removeRecord => intro d o a s h; exact Book.sound_of_subperm h (List.filter_sublist.map _).subperm
  case addRecord => intro a s hfree h; exact bookSound_addRecord hfree h
  case bookNumber => intro n s h; exact Book.sound_of_refs h rfl
  case timers =>
    intro s h
    refine Book.sound_of_refs h ?_
    simp [State.runTimers, Departure.elapse, Function.comp_def]
  case powerOn => intro b f a q n; exact ⟨by simp [State.powerOn, Book.reset], by simp [State.powerOn, Book.reset], by simp [State.powerOn, Book.reset]⟩
  all_goals intros; simpa using ‹Book.sound _›

/-! ## The lamp unit (R104, R105) -/

/-- The bays with a test queued or running. -/
def LampUnit.active (u : LampUnit) : List BayNo := u.queue.map (·.bay) ++ u.engines.toList.filterMap Engine.testing

theorem lampSound_iff (u : LampUnit) :
    u.sound ↔ u.queue.length ≤ 8 ∧ u.active.Nodup ∧ u.queue.Pairwise fun x y => y.level = .urgent → x.level = .urgent := Iff.rfl

/-- The bays under a running test, one engine's first. -/
theorem testing_perm (v : Vector Engine 2) (e : EngineNo) :
    (v.toList.filterMap Engine.testing).Perm (v[e].testing.toList ++ v[1 - e].testing.toList) := by
  have htwo : v.toList.filterMap Engine.testing = v[0].testing.toList ++ v[1].testing.toList := by
    have : v.toList = [v[0], v[1]] := List.ext_getElem (by simp) fun i h1 h2 => by
      have : i < 2 := by simpa using h1
      interval_cases i <;> simp
    rw [this]
    cases h0 : v[0].testing <;> cases h1 : v[1].testing <;> simp [h0, h1]
  rw [htwo]
  fin_cases e
  · exact .refl _
  · exact List.perm_append_comm

theorem engine_set_other (v : Vector Engine 2) (e : EngineNo) (x : Engine) : (v.set e x)[1 - e] = v[1 - e] := by
  fin_cases e <;> simp

theorem testing_set_perm (v : Vector Engine 2) (e : EngineNo) (x : Engine) :
    ((v.set e x).toList.filterMap Engine.testing).Perm (x.testing.toList ++ v[1 - e].testing.toList) := by
  have hself : (v.set e x)[e] = x := by simp
  have := testing_perm (v.set e x) e
  rwa [hself, engine_set_other] at this

theorem testActive_eq_false_iff (s : State) (b : BayNo) : s.testActive b = false ↔ b ∉ s.lamp.active := by
  simp only [State.testActive, Bool.or_eq_false_iff, List.any_eq_false, LampUnit.active, List.mem_append, not_or, List.mem_filterMap]
  refine and_congr (by simp) ?_
  simp only [not_exists, not_and]
  refine forall₂_congr fun x _ => ?_
  cases x <;> simp [Engine.testing]

/-- Only the queue and the bays under test count for the law. -/
theorem lampSound_of_engines {u u' : LampUnit} (h : u.sound) (hq : u'.queue = u.queue)
    (he : (u'.engines.toList.filterMap Engine.testing).Subperm (u.engines.toList.filterMap Engine.testing)) : u'.sound := by
  obtain ⟨hlen, hnodup, hurgent⟩ := (lampSound_iff u).mp h
  refine (lampSound_iff u').mpr ⟨hq ▸ hlen, ?_, hq ▸ hurgent⟩
  have hsub : u'.active.Subperm u.active := by
    rw [LampUnit.active, LampUnit.active, hq]; exact (List.Subperm.refl _).append he
  obtain ⟨l, hl, hs⟩ := hsub
  exact hl.nodup_iff.mp (hs.nodup hnodup)

theorem lampSound_setEngine {s : State} {e : EngineNo} {x : Engine} (h : s.lamp.sound)
    (hx : x.testing = none ∨ x.testing = s.lamp.engines[e].testing) : (setEngine e x s).lamp.sound := by
  refine lampSound_of_engines h rfl ?_
  refine (testing_set_perm _ e x).subperm.trans (List.Subperm.trans ?_ (testing_perm _ e).symm.subperm)
  obtain hx | hx := hx
  · rw [hx]; exact (List.sublist_append_right _ _).subperm
  · rw [hx]

theorem lampSound_start {s : State} {e : EngineNo} {t : RunningTest} (h : s.lamp.sound) (hfree : s.lamp.engines[e] = .free)
    (hnew : s.testActive t.bay = false) : (setEngine e (.running t) s).lamp.sound := by
  obtain ⟨hlen, hnodup, hurgent⟩ := (lampSound_iff _).mp h
  refine (lampSound_iff _).mpr ⟨hlen, ?_, hurgent⟩
  have hbefore : (s.lamp.engines.toList.filterMap Engine.testing).Perm s.lamp.engines[1 - e].testing.toList := by
    simpa [hfree, Engine.testing] using testing_perm s.lamp.engines e
  have hafter : (setEngine e (.running t) s).lamp.active.Perm (t.bay :: s.lamp.active) := by
    have hset : ((setEngine e (.running t) s).lamp.engines.toList.filterMap Engine.testing).Perm
        (t.bay :: s.lamp.engines.toList.filterMap Engine.testing) :=
      (testing_set_perm _ e (.running t)).trans (hbefore.symm.cons t.bay)
    exact (hset.append_left _).trans List.perm_middle
  exact hafter.nodup_iff.mpr (List.nodup_cons.mpr ⟨(testActive_eq_false_iff _ _).mp hnew, hnodup⟩)

/-- R105: the URGENT entries stand first. -/
theorem filter_level_perm (q : List QueueEntry) : (q.filter (·.level == .urgent) ++ q.filter (·.level == .routine)).Perm q := by
  have : (fun x : QueueEntry => x.level == .routine) = fun x => !(x.level == .urgent) := funext fun x => by cases x.level <;> rfl
  rw [this]
  exact List.filter_append_perm _ q

theorem insertUrgent_perm (b : BayNo) (q : List QueueEntry) : (insertUrgent b q).Perm (⟨b, .urgent⟩ :: q) :=
  List.perm_middle.trans ((filter_level_perm q).cons _)

theorem insertUrgent_pairwise (b : BayNo) (q : List QueueEntry) :
    (insertUrgent b q).Pairwise fun x y => y.level = .urgent → x.level = .urgent := by
  have hfirst : ∀ x ∈ q.filter (·.level == .urgent), x.level = .urgent := fun x hx => by simpa using (List.mem_filter.mp hx).2
  have hlast : ∀ x ∈ q.filter (·.level == .routine), x.level ≠ .urgent := fun x hx e => by simpa [e] using (List.mem_filter.mp hx).2
  rw [insertUrgent, List.pairwise_append, List.pairwise_cons]
  refine ⟨?_, ⟨fun y _ _ => rfl, ?_⟩, fun x hx y _ _ => hfirst x hx⟩
  · exact List.pairwise_iff_forall_sublist.mpr fun hs _ => hfirst _ (hs.subset (by simp))
  · exact List.pairwise_iff_forall_sublist.mpr fun hs e => absurd e (hlast _ (hs.subset (by simp)))

theorem active_of_queue_perm {u : LampUnit} {q q' : List QueueEntry} (h : q.Perm q') :
    ({ u with queue := q } : LampUnit).active.Perm ({ u with queue := q' } : LampUnit).active :=
  (h.map _).append_right _

/-- R105: a test that joins the queue is of a bay with none queued or running. -/
theorem active_nodup_of_queue_cons {u : LampUnit} {q : List QueueEntry} {x : QueueEntry} (h : q.Perm (x :: u.queue))
    (hnodup : u.active.Nodup) (hnew : x.bay ∉ u.active) : ({ u with queue := q } : LampUnit).active.Nodup :=
  (active_of_queue_perm h).nodup_iff.mpr (List.nodup_cons.mpr ⟨hnew, hnodup⟩)

theorem active_nodup_of_queue_sublist {u : LampUnit} {q : List QueueEntry} (h : q.Sublist u.queue) (hnodup : u.active.Nodup) :
    ({ u with queue := q } : LampUnit).active.Nodup :=
  hnodup.sublist ((h.map _).append_right _)

/-- R105: a promoted entry leaves its place and stands behind the last URGENT one. -/
theorem lampSound_promote {u : LampUnit} {b : BayNo} (h : u.sound) (hq : u.queue.contains ⟨b, .routine⟩ = true) :
    ({ u with queue := promote b u.queue } : LampUnit).sound := by
  obtain ⟨hlen, hnodup, -⟩ := (lampSound_iff u).mp h
  have hmem : (⟨b, .routine⟩ : QueueEntry) ∈ u.queue := by simpa using hq
  have hgone : b ∉ ({ u with queue := u.queue.filter (·.bay != b) } : LampUnit).active := by
    obtain ⟨-, -, hdisj⟩ := List.nodup_append.mp hnodup
    have hrun : b ∉ u.engines.toList.filterMap Engine.testing := fun hb => hdisj b (List.mem_map_of_mem hmem) b hb rfl
    simp only [LampUnit.active, List.mem_append, not_or]
    exact ⟨by simp, hrun⟩
  have hshort : (u.queue.filter (·.bay != b)).length < u.queue.length :=
    List.length_filter_lt_length_iff_exists.mpr ⟨_, hmem, by simp⟩
  have hperm := insertUrgent_perm b (u.queue.filter (·.bay != b))
  refine (lampSound_iff _).mpr ⟨?_, ?_, insertUrgent_pairwise b _⟩
  · have : (promote b u.queue).length = (u.queue.filter (·.bay != b)).length + 1 := hperm.length_eq
    show (promote b u.queue).length ≤ 8
    omega
  · exact active_nodup_of_queue_cons (u := { u with queue := u.queue.filter (·.bay != b) }) hperm
      (active_nodup_of_queue_sublist List.filter_sublist hnodup) hgone

theorem elapse_testing (x : Engine) : x.elapse.testing = x.testing := by cases x <;> rfl

theorem lampReset_sound : LampUnit.reset.sound := ⟨by decide, by decide, List.Pairwise.nil⟩

theorem lampSound_kept : Kept fun s => s.lamp.sound := by
  constructor
  case lampFree =>
    intro g s hg h
    exact lampSound_of_engines h (hg _).1 (by rw [updLamp_lamp, (hg _).2])
  case engineOff => intro e x s hx h; exact lampSound_setEngine h (.inl hx)
  case engineRun =>
    intro e t t' s he hb h
    exact lampSound_setEngine h (.inr (by simp [he, Engine.testing, hb]))
  case engineStart => intro e t s hfree hnew h; exact lampSound_start h hfree hnew
  case enqueueUrgent =>
    intro b s hnew hroom h
    obtain ⟨-, hnodup, -⟩ := (lampSound_iff _).mp h
    have hperm := insertUrgent_perm b s.lamp.queue
    refine (lampSound_iff _).mpr ⟨?_, ?_, insertUrgent_pairwise b _⟩
    · simpa [hperm.length_eq] using hroom
    · exact active_nodup_of_queue_cons hperm hnodup ((testActive_eq_false_iff _ _).mp hnew)
  case enqueueRoutine =>
    intro b s hnew hroom h
    obtain ⟨-, hnodup, hurgent⟩ := (lampSound_iff _).mp h
    refine (lampSound_iff _).mpr ⟨?_, ?_, ?_⟩
    · simpa using hroom
    · exact active_nodup_of_queue_cons (x := ⟨b, .routine⟩) (List.perm_append_singleton _ _) hnodup
        ((testActive_eq_false_iff _ _).mp hnew)
    · simpa [List.pairwise_append] using hurgent
  case promote => intro b s hq h; exact lampSound_promote h hq
  case dequeue =>
    intro b s h
    obtain ⟨hlen, hnodup, hurgent⟩ := (lampSound_iff _).mp h
    exact (lampSound_iff _).mpr ⟨(List.length_filter_le _ _).trans hlen, active_nodup_of_queue_sublist List.filter_sublist hnodup,
      hurgent.filter _⟩
  case timers =>
    intro s h
    refine lampSound_of_engines h rfl ?_
    simp only [State.runTimers, Vector.toList_map, List.filterMap_map, Function.comp_def, elapse_testing]
    exact List.Subperm.refl _
  case recordAges => intro ms s h; exact lampSound_of_engines h rfl (List.Subperm.refl _)
  case powerOn => intro b f a q n; exact lampReset_sound
  all_goals intros; simpa [reorder, updRecord, removeRecord, addRecord] using ‹LampUnit.sound _›

/-! ## Contactor commands and the on-set, as the sequencer sees them (R90, R91) -/

theorem commandHeat_seq (b : BayNo) (on : Bool) (s : State) :
    (commandHeat b on s).seq = { s.seq with commanded := (commandHeat b on s).seq.commanded } := by
  unfold commandHeat
  split
  · rfl
  · simp

theorem leaveOnSet_seq (b : BayNo) (s : State) : (leaveOnSet b s).seq =
    { s.seq with
      onSet := s.seq.onSet.filter (·.bay != b)
      chain := (leaveOnSet b s).seq.chain
      commanded := (leaveOnSet b s).seq.commanded } := by
  cases hm : s.seq.member b with
  | none =>
    have hfilter : s.seq.onSet.filter (·.bay != b) = s.seq.onSet := by
      simpa [Sequencer.member] using hm
    rw [leaveOnSet_of_not_member hm, hfilter]
  | some m => rw [leaveOnSet_of_member hm, commandHeat_seq]

/-! ## The load (R89) -/

/-- The units of a list of loads, in total and on one feeder. -/
def unitsIn (us : List UnitsOn) : Nat := (us.map (·.units)).sum
def unitsInOn (f : Fin 4) (us : List UnitsOn) : Nat := unitsIn (us.filter (·.feeder == f))

/-- A member of the on-set as a load. -/
def Member.load (m : Member) : UnitsOn := ⟨m.units, m.feeder⟩

/-- Everything that counts (R89): the on-set's members, the held and the stuck units. -/
def Sequencer.fixedLoads (q : Sequencer) : List UnitsOn := q.held.toList.filterMap id ++ q.stuck.toList.filterMap id
def Sequencer.loads (q : Sequencer) : List UnitsOn := q.onSet.map Member.load ++ q.fixedLoads

/-- These loads keep within the limits. -/
def Sequencer.allows (q : Sequencer) (us : List UnitsOn) : Prop := unitsIn us ≤ q.total ∧ ∀ f : Fin 4, unitsInOn f us ≤ q.feeders[f]

theorem unitsIn_append (us vs : List UnitsOn) : unitsIn (us ++ vs) = unitsIn us + unitsIn vs := by simp [unitsIn]

theorem unitsInOn_append (f : Fin 4) (us vs : List UnitsOn) : unitsInOn f (us ++ vs) = unitsInOn f us + unitsInOn f vs := by
  simp [unitsInOn, unitsIn]

theorem memberUnits_eq (ms : List Member) : memberUnits ms = unitsIn (ms.map Member.load) := by
  simp [memberUnits, unitsIn, Function.comp_def, Member.load]

theorem memberUnitsOn_eq (f : Fin 4) (ms : List Member) : memberUnitsOn f ms = unitsInOn f (ms.map Member.load) := by
  simp [memberUnitsOn, memberUnits_eq, unitsInOn, List.filter_map, Function.comp_def, Member.load]

theorem fixedUnits_eq (v : Vector (Option UnitsOn) 24) : fixedUnits v = unitsIn (v.toList.filterMap id) := rfl

theorem fixedUnitsOn_eq (f : Fin 4) (v : Vector (Option UnitsOn) 24) : fixedUnitsOn f v = unitsInOn f (v.toList.filterMap id) := rfl

theorem load_eq (q : Sequencer) : q.load = unitsIn q.loads := by
  simp only [Sequencer.load, Sequencer.loads, Sequencer.fixedLoads, unitsIn_append, memberUnits_eq, fixedUnits_eq]; omega

theorem loadOn_eq (q : Sequencer) (f : Fin 4) : q.loadOn f = unitsInOn f q.loads := by
  simp only [Sequencer.loadOn, Sequencer.loads, Sequencer.fixedLoads, unitsInOn_append, memberUnitsOn_eq, fixedUnitsOn_eq]; omega

theorem fixedExceed_eq_false_iff (q : Sequencer) : q.fixedExceed = false ↔ q.allows q.fixedLoads := by
  simp [Sequencer.fixedExceed, Sequencer.allows, Sequencer.fixedLoads, unitsIn_append, unitsInOn_append, fixedUnits_eq, fixedUnitsOn_eq,
    allFeeders]

theorem unitsIn_le {us vs : List UnitsOn} (h : us.Subperm vs) : unitsIn us ≤ unitsIn vs := by
  obtain ⟨l, hl, hs⟩ := h
  rw [unitsIn, ← (hl.map _).sum_eq]
  exact (hs.map _).sum_le_sum fun _ _ => Nat.zero_le _

theorem allows_of_subperm {q : Sequencer} {us vs : List UnitsOn} (h : us.Subperm vs) (hv : q.allows vs) : q.allows us :=
  ⟨(unitsIn_le h).trans hv.1, fun f => (unitsIn_le (h.filter _)).trans (hv.2 f)⟩

/-- R89: the law asks that the loads keep within the limits while the on-set holds a bay. -/
theorem loadSound_iff (q : Sequencer) : q.loadSound ↔ q.onSet = [] ∨ q.allows q.loads := by
  have hfixed : q.onSet = [] → q.loads = q.fixedLoads := fun h => by simp [Sequencer.loads, h]
  have hall : q.allows q.loads ↔ q.load ≤ q.total ∧ ∀ f : Fin 4, q.loadOn f ≤ q.feeders[f] := by
    simp only [load_eq, loadOn_eq]; exact Iff.rfl
  rw [Sequencer.loadSound, ← hall]
  cases he : q.fixedExceed with
  | true =>
    have hnot : ¬ q.allows q.fixedLoads := fun h => by simpa [he] using (fixedExceed_eq_false_iff q).mpr h
    have : ¬ q.allows q.loads := fun h => hnot (allows_of_subperm (List.sublist_append_right _ _).subperm h)
    simp [this]
  | false =>
    have hok := (fixedExceed_eq_false_iff q).mp he
    refine ⟨fun h => .inr (h.1 rfl), fun h => ⟨fun _ => h.elim (fun hon => hfixed hon ▸ hok) id, by simp⟩⟩

/-- Fewer loads under the same limits. -/
theorem loadSound_of_subperm {q q' : Sequencer} (h : q.loadSound) (ht : q'.total = q.total) (hf : q'.feeders = q.feeders)
    (hon : q.onSet = [] → q'.onSet = []) (hl : q'.loads.Subperm q.loads) : q'.loadSound := by
  refine (loadSound_iff q').mpr (((loadSound_iff q).mp h).imp hon fun hall => ?_)
  have : q.allows q'.loads := allows_of_subperm hl hall
  simpa only [Sequencer.allows, ht, hf] using this

theorem loadSound_of_loads {q q' : Sequencer} (h : q.loadSound) (ht : q'.total = q.total) (hf : q'.feeders = q.feeders)
    (hon : q'.onSet.map Member.load = q.onSet.map Member.load) (hfixed : q'.fixedLoads = q.fixedLoads) : q'.loadSound := by
  refine loadSound_of_subperm h ht hf (fun h => ?_) (by rw [Sequencer.loads, Sequencer.loads, hon, hfixed])
  simpa [h] using hon

theorem filterMap_set_subperm (v : Vector (Option UnitsOn) 24) (b : BayNo) (x : Option UnitsOn) :
    ((v.set b x).toList.filterMap id).Subperm (x.toList ++ v.toList.filterMap id) := by
  have hlt : b.val < v.toList.length := by simp
  have hsplit : v.toList.filterMap id = (v.toList.take b).filterMap id ++ (v.toList.drop b).filterMap id := by
    rw [← List.filterMap_append, List.take_append_drop]
  rw [Vector.toList_set, List.set_eq_take_append_cons_drop, if_pos hlt, List.filterMap_append, hsplit]
  have hcons : (x :: v.toList.drop (b + 1)).filterMap id = x.toList ++ (v.toList.drop (b + 1)).filterMap id := by cases x <;> simp
  have hdrop : ((v.toList.drop (b + 1)).filterMap id).Sublist ((v.toList.drop b).filterMap id) :=
    (List.drop_sublist_drop_left _ (Nat.le_succ _)).filterMap _
  rw [hcons, ← List.append_assoc]
  refine (List.Perm.append_right _ List.perm_append_comm).subperm.trans ?_
  rw [List.append_assoc]
  exact ((List.Sublist.refl _).append ((List.Sublist.refl _).append hdrop)).subperm

theorem loadSound_leave {b : BayNo} {s : State} (h : s.seq.loadSound) : (leaveOnSet b s).seq.loadSound := by
  rw [leaveOnSet_seq]
  exact loadSound_of_subperm h rfl rfl (fun h => by simp [h])
    ((List.filter_sublist.map _).append (List.Sublist.refl _)).subperm

theorem loadSound_command {b : BayNo} {on : Bool} {s : State} (h : s.seq.loadSound) : (commandHeat b on s).seq.loadSound := by
  rw [commandHeat_seq]
  exact loadSound_of_loads h rfl rfl rfl rfl

theorem member_cons_subperm {q : Sequencer} {b : BayNo} {m : Member} (h : q.member b = some m) :
    (m :: q.onSet.filter (·.bay != b)).Subperm q.onSet := by
  have hb : (m.bay != b) = false := by simpa using List.find?_some h
  have hmem : m ∈ q.onSet.filter fun x => !(x.bay != b) := List.mem_filter.mpr ⟨List.mem_of_find?_eq_some h, by simp [hb]⟩
  have hsingle : [m].Sublist (q.onSet.filter fun x => !(x.bay != b)) := List.singleton_sublist.mpr hmem
  have := (List.Sublist.refl (q.onSet.filter (·.bay != b))).append hsingle
  exact List.perm_append_comm.subperm.trans (this.subperm.trans (List.filter_append_perm _ _).subperm)

/-- R96: the units that leave the on-set are the units held. -/
theorem loadSound_silence {b : BayNo} {s : State} (h : s.seq.loadSound) : (silenceHeating b s).seq.loadSound := by
  unfold silenceHeating
  split
  · exact h
  · next m hm =>
    rw [updSeq_seq, leaveOnSet_seq]
    refine loadSound_of_subperm h rfl rfl (fun hon => by simp [hon]) ?_
    show ((s.seq.onSet.filter (·.bay != b)).map Member.load
      ++ ((s.seq.held.set b (some ⟨m.units, m.feeder⟩)).toList.filterMap id ++ s.seq.stuck.toList.filterMap id)).Subperm s.seq.loads
    refine ((List.Subperm.refl _).append ((filterMap_set_subperm _ b _).append (List.Subperm.refl _))).trans ?_
    have hmem : (m.load :: (s.seq.onSet.filter (·.bay != b)).map Member.load).Subperm (s.seq.onSet.map Member.load) := by
      obtain ⟨l, hl, hs⟩ := member_cons_subperm hm
      exact ⟨_, hl.map _, hs.map _⟩
    refine List.Subperm.trans ?_ (hmem.append (List.Subperm.refl s.seq.fixedLoads))
    simpa [Sequencer.fixedLoads, Member.load] using (List.perm_middle).subperm

/-! ## Shedding (R93) -/

/-- With nothing left to shed, the loads are within the limits, or the on-set is empty. -/
theorem loadSound_of_nextShed {q : Sequencer} (hfixed : q.fixedExceed = false) (h : q.nextShed = none) : q.loadSound := by
  rw [loadSound_iff]
  rw [Sequencer.nextShed, List.find?_eq_none] at h
  refine or_iff_not_imp_left.mpr fun hon => ?_
  obtain ⟨m, hm⟩ := List.exists_mem_of_ne_nil _ hon
  have hkeeps : ∀ m ∈ q.onSet, q.load ≤ q.total ∧ q.loadOn m.feeder ≤ q.feeders[m.feeder] := fun m hm => by
    simpa using h m (List.mem_reverse.mpr hm)
  refine ⟨load_eq q ▸ (hkeeps m hm).1, fun f => ?_⟩
  by_cases hf : ∃ m ∈ q.onSet, m.feeder = f
  · obtain ⟨m, hm, rfl⟩ := hf
    exact loadOn_eq q _ ▸ (hkeeps m hm).2
  · have hnone : (q.onSet.map Member.load).filter (·.feeder == f) = [] := by
      simp only [List.filter_eq_nil_iff, List.mem_map]
      rintro _ ⟨m, hm, rfl⟩
      simpa [Member.load] using fun e => hf ⟨m, hm, e⟩
    have : unitsInOn f q.loads = unitsInOn f q.fixedLoads := by
      simp [Sequencer.loads, unitsInOn, hnone]
    rw [this]
    exact ((fixedExceed_eq_false_iff q).mp hfixed).2 f

@[simp] theorem leaveOnSet_fixedExceed (b : BayNo) (s : State) : (leaveOnSet b s).seq.fixedExceed = s.seq.fixedExceed := by
  rw [leaveOnSet_seq]; rfl

theorem leaveOnSet_shorter {m : Member} {s : State} (h : m ∈ s.seq.onSet) : (leaveOnSet m.bay s).seq.onSet.length < s.seq.onSet.length := by
  rw [leaveOnSet_seq]
  exact List.length_filter_lt_length_iff_exists.mpr ⟨m, h, by simp⟩

theorem loadSound_shedSome (n : Nat) (s : State) (hfixed : s.seq.fixedExceed = false) (hn : s.seq.onSet.length ≤ n) :
    (shedSome n s).seq.loadSound := by
  induction n generalizing s with
  | zero => exact (loadSound_iff _).mpr (.inl (List.length_eq_zero_iff.mp (Nat.le_zero.mp hn)))
  | succ n ih =>
    unfold shedSome
    split
    · next h => exact loadSound_of_nextShed hfixed h
    · next m h =>
      have hmem : m ∈ s.seq.onSet := List.mem_reverse.mp (List.mem_of_find?_eq_some h)
      have := leaveOnSet_shorter hmem
      exact ih _ (by simpa using hfixed) (by omega)

/-- Every bay of the list leaves the on-set. -/
theorem foldl_leaveOnSet_onSet (ms : List Member) (s : State) :
    (ms.foldl (fun s m => leaveOnSet m.bay s) s).seq.onSet = s.seq.onSet.filter fun x => !ms.any (·.bay == x.bay) := by
  induction ms generalizing s with
  | nil => simp
  | cons m ms ih =>
    rw [List.foldl_cons, ih, leaveOnSet_seq, List.filter_filter]
    refine List.filter_congr fun x _ => ?_
    simp only [List.any_cons, Bool.not_or, bne, Bool.and_comm, BEq.comm (a := m.bay)]

theorem shedAll_onSet (s : State) : (shedAll s).seq.onSet = [] := by
  rw [shedAll, foldl_leaveOnSet_onSet, List.filter_eq_nil_iff]
  intro m hm
  simpa using ⟨m, hm, rfl⟩

/-- R93: shedding brings the law about, whatever the limits and the stuck units have become. -/
theorem loadSound_shed (s : State) : (shed s).seq.loadSound := by
  unfold shed
  split
  · exact (loadSound_iff _).mpr (.inl (shedAll_onSet s))
  · next h => exact loadSound_shedSome _ s (by simpa using h) le_rfl

/-! ## The walk (R88, R89) -/

/-- R88, step 3: the walk once the entry at position i has joined. -/
def WalkState.join (w : WalkState) (s : State) (i : Nat) (e : Entry) : WalkState :=
  { w with
    joined := w.joined ++ [⟨e.bay, s.unitsOf e.bay, (s.bay e.bay).feeder, some i⟩]
    stuck := w.stuck.set e.bay none
    ended := if w.stuck[e.bay].isSome then w.ended ++ [e.bay] else w.ended }

/-- R88, step 3: an entry is passed over, stops the walk, is MISSED, or joins, being of a bay that has not joined and fits. -/
theorem walkEntry_cases (s : State) (w : WalkState) (i : Nat) (e : Entry) :
    walkEntry s w i e = (w, e) ∨ walkEntry s w i e = ({ w with stopped := true }, e)
      ∨ walkEntry s w i e = (w, { e with status := .missed })
      ∨ (w.joined.any (·.bay == e.bay) = false
          ∧ w.fits s.seq (w.stuck.set e.bay none) (s.unitsOf e.bay) (s.bay e.bay).feeder = true
          ∧ walkEntry s w i e = (w.join s i e, { e with status := .taken })) := by
  unfold walkEntry
  split
  · exact .inl rfl
  split
  · exact .inr (.inl rfl)
  split
  · exact .inr (.inr (.inl rfl))
  split
  · exact .inr (.inl rfl)
  next hnew =>
    by_cases hfits : w.fits s.seq (w.stuck.set e.bay none) (s.unitsOf e.bay) (s.bay e.bay).feeder = true
    · exact .inr (.inr (.inr ⟨by simpa using hnew, hfits, if_pos hfits⟩))
    · exact .inl (if_neg hfits)

theorem walkEntry_key (s : State) (w : WalkState) (i : Nat) (e : Entry) :
    (walkEntry s w i e).2.bay = e.bay ∧ (walkEntry s w i e).2.pinned = e.pinned := by
  obtain h | h | h | ⟨-, -, h⟩ := walkEntry_cases s w i e <;> simp [h]

/-- What an entry that stops nothing and one that joins keep, the whole walk keeps. -/
theorem walkFrom_induction {I : WalkState → Prop} (s : State) (hstop : ∀ w, I w → I { w with stopped := true })
    (hjoin : ∀ w i e, w.joined.any (·.bay == e.bay) = false →
      w.fits s.seq (w.stuck.set e.bay none) (s.unitsOf e.bay) (s.bay e.bay).feeder = true → I w → I (w.join s i e))
    (es : List Entry) (w : WalkState) (i : Nat) (h : I w) : I (walkFrom s w i es).1 := by
  induction es generalizing w i with
  | nil => exact h
  | cons e es ih =>
    refine ih _ _ ?_
    obtain he | he | he | ⟨hnew, hfits, he⟩ := walkEntry_cases s w i e <;> rw [he]
    · exact h
    · exact hstop w h
    · exact h
    · exact hjoin w i e hnew hfits h

/-- The loads a walk counts. -/
def WalkState.loads (w : WalkState) : List UnitsOn := w.joined.map Member.load ++ w.stuck.toList.filterMap id

/-- R89: an entry that fits keeps the loads within the limits, of its own feeder by the check, of another because its units count there no
more than before. -/
theorem allows_join {s : State} {w : WalkState} {i : Nat} {e : Entry}
    (hfits : w.fits s.seq (w.stuck.set e.bay none) (s.unitsOf e.bay) (s.bay e.bay).feeder = true) (h : s.seq.allows w.loads) :
    s.seq.allows (w.join s i e).loads := by
  have hloads : (w.join s i e).loads.Perm
      (⟨s.unitsOf e.bay, (s.bay e.bay).feeder⟩ :: (w.joined.map Member.load ++ (w.stuck.set e.bay none).toList.filterMap id)) := by
    simp [WalkState.loads, WalkState.join, Member.load]
  have hless : (w.joined.map Member.load ++ (w.stuck.set e.bay none).toList.filterMap id).Subperm w.loads :=
    (List.Subperm.refl _).append (filterMap_set_subperm w.stuck e.bay none)
  simp only [WalkState.fits, memberUnits_eq, memberUnitsOn_eq, fixedUnits_eq, fixedUnitsOn_eq, Bool.and_eq_true, decide_eq_true_eq] at hfits
  refine allows_of_subperm hloads.subperm ⟨?_, fun f => ?_⟩
  · simp only [unitsIn, List.map_cons, List.sum_cons, List.map_append, List.sum_append] at hfits ⊢
    omega
  · by_cases hf : (s.bay e.bay).feeder = f
    · subst hf
      simp only [unitsInOn, unitsIn, List.filter_cons, beq_self_eq_true, if_true, List.map_cons, List.sum_cons, List.filter_append,
        List.map_append, List.sum_append] at hfits ⊢
      omega
    · have hother : unitsInOn f (⟨s.unitsOf e.bay, (s.bay e.bay).feeder⟩
          :: (w.joined.map Member.load ++ (w.stuck.set e.bay none).toList.filterMap id))
            = unitsInOn f (w.joined.map Member.load ++ (w.stuck.set e.bay none).toList.filterMap id) := by
        simp [unitsInOn, hf]
      rw [hother]
      exact (unitsIn_le (hless.filter _)).trans (h.2 f)

theorem filterMap_replicate_none (n : Nat) : (Vector.replicate n (none : Option UnitsOn)).toList.filterMap id = [] := by simp

theorem stuckExceed_eq_false_iff (q : Sequencer) : q.stuckExceed = false ↔ q.allows (q.stuck.toList.filterMap id) := by
  simp [Sequencer.stuckExceed, Sequencer.allows, fixedUnits_eq, fixedUnitsOn_eq, allFeeders]

/-- R88: the on-set a walk lays keeps the law. -/
theorem loadSound_walk {s : State} (hheld : s.seq.held = Vector.replicate 24 none) (hstuck : s.seq.stuckExceed = false) :
    (s.updSeq fun q =>
      { q with
        onSet := (walkFrom s ⟨[], s.seq.stuck, [], false⟩ 0 s.seq.chain).1.joined
        stuck := (walkFrom s ⟨[], s.seq.stuck, [], false⟩ 0 s.seq.chain).1.stuck
        chain := (walkFrom s ⟨[], s.seq.stuck, [], false⟩ 0 s.seq.chain).2 }).seq.loadSound := by
  have hwalk : s.seq.allows (walkFrom s ⟨[], s.seq.stuck, [], false⟩ 0 s.seq.chain).1.loads :=
    walkFrom_induction (I := fun w => s.seq.allows w.loads) s (fun w h => h) (fun w i e _ hfits h => allows_join hfits h) _ _ _
      (by simpa [WalkState.loads] using (stuckExceed_eq_false_iff _).mp hstuck)
  refine (loadSound_iff _).mpr (.inr ?_)
  simpa only [Sequencer.allows, Sequencer.loads, Sequencer.fixedLoads, updSeq_seq, hheld, filterMap_replicate_none, List.nil_append,
    WalkState.loads] using hwalk

theorem loadSound_kept : Kept fun s => s.seq.loadSound := by
  constructor
  case command => intro b on s h; exact loadSound_command h
  case leave => intro b s h; exact loadSound_leave h
  case silence => intro b s h; exact loadSound_silence h
  case tearHeating =>
    intro b s h
    exact loadSound_command (loadSound_of_loads (loadSound_leave (b := b) h) rfl rfl rfl rfl)
  case alarm => intro v s h; exact loadSound_of_loads h rfl rfl rfl rfl
  case slotTimer => intro i t s h; exact loadSound_of_loads h rfl rfl rfl rfl
  case timers => intro s h; exact loadSound_of_loads h rfl rfl rfl rfl
  case limits => intro a s _; exact loadSound_shed _
  case stuck => intro b u s _; exact loadSound_shed _
  case unstuck =>
    intro b s h
    exact loadSound_of_subperm h rfl rfl id
      ((List.Subperm.refl _).append ((List.Subperm.refl _).append (filterMap_set_subperm _ b none)))
  case endSlot => intro s _; exact (loadSound_iff _).mpr (.inl rfl)
  case walk => intro s hheld _ hstuck _; exact loadSound_walk hheld hstuck
  case closeRound => intro s h; exact loadSound_of_loads h rfl rfl rfl rfl
  case layOut => intro hs s _ _ h; exact loadSound_of_loads h rfl rfl rfl rfl
  case lateAppend => intro b n s h; exact loadSound_of_loads h rfl rfl rfl rfl
  case pin => intro b s _ _ h; exact loadSound_of_loads h rfl rfl (by simp [Sequencer.addPin, Member.load]) rfl
  case unpin => intro p s h; exact loadSound_of_loads h rfl rfl (by simp [Sequencer.removeEntry, Member.load]) rfl
  case closeHeating =>
    intro b s h
    refine loadSound_of_subperm h ?_ ?_ ?_ ?_ <;> simp only [Machine.closeHeating, updSeq_seq, removePins_eq]
    · intro hon; simp [hon]
    · simp only [Sequencer.loads, List.map_map]
      exact (List.Subperm.refl _).append ((List.Subperm.refl _).append (filterMap_set_subperm _ b none))
  case restartHeating => intro s _; exact (loadSound_iff _).mpr (.inl rfl)
  case powerOn => intro b f a q n; exact (loadSound_iff _).mpr (.inl rfl)
  all_goals intros; simpa [reorder, updRecord, removeRecord, addRecord] using ‹Sequencer.loadSound _›

/-! ## The share chain (R81) -/

/-- What R81 asks of a chain, said of the bays and pins of its entries. -/
def keysSound (ks : List (BayNo × Bool)) : Prop :=
  ks.length ≤ 64 ∧ ks.countP (·.2) ≤ 16 ∧ (ks.Pairwise fun x y => y.2 = true → x.2 = true) ∧ ∀ b : BayNo, ks.countP (· == (b, false)) ≤ 16

def Entry.key (e : Entry) : BayNo × Bool := (e.bay, e.pinned)

/-- The elements that satisfy p stand first exactly when as many elements as satisfy it, taken from the front, all do. -/
theorem all_take_countP_iff {α : Type} (p : α → Bool) (xs : List α) :
    (xs.take (xs.countP p)).all p = true ↔ xs.Pairwise fun x y => p y = true → p x = true := by
  induction xs with
  | nil => simp
  | cons x xs ih =>
    cases hx : p x with
    | true => simpa [hx] using ih
    | false =>
      have hcount : xs.countP p = 0 ↔ ∀ y ∈ xs, p y = false := by simp
      rw [List.countP_cons_of_neg (by simp [hx]), List.pairwise_cons]
      by_cases h0 : xs.countP p = 0
      · have hnone := hcount.mp h0
        simp only [h0, List.take_zero, List.all_nil, true_iff]
        exact ⟨fun y hy e => absurd e (by simp [hnone y hy]), List.pairwise_of_forall_mem_list fun x _ y hy e => absurd e (by simp [hnone y hy])⟩
      · obtain ⟨n, hn⟩ := Nat.exists_eq_succ_of_ne_zero h0
        simp only [hn, Nat.succ_eq_add_one, List.take_succ_cons, List.all_cons, hx, Bool.false_and, Bool.false_eq_true, false_iff, not_and]
        intro hall
        exact absurd (hcount.mpr fun y hy => by simpa [hx] using hall y hy) h0

theorem chainSound_iff (q : Sequencer) : q.chainSound ↔ keysSound (q.chain.map Entry.key) ∧ (q.onSet.map (·.bay)).Nodup := by
  have hpinned : q.pinned = (q.chain.map Entry.key).countP (·.2) := by simp [Sequencer.pinned, Entry.key, List.countP_map, Function.comp_def]
  have hfirst : (q.chain.take q.pinned).all (·.pinned) = true ↔ (q.chain.map Entry.key).Pairwise fun x y => y.2 = true → x.2 = true := by
    rw [Sequencer.pinned, all_take_countP_iff, List.pairwise_map]; rfl
  have hplanned : ∀ b, q.plannedOf b = (q.chain.map Entry.key).countP (· == (b, false)) := by
    intro b
    rw [Sequencer.plannedOf, List.countP_map]
    refine List.countP_congr fun e _ => ?_
    simp [Entry.key, Prod.ext_iff, and_comm]
  simp only [Sequencer.chainSound, keysSound, hfirst, hplanned, ← hpinned, List.length_map, and_assoc]

theorem keysSound_of_sublist {ks ks' : List (BayNo × Bool)} (hs : ks'.Sublist ks) (h : keysSound ks) : keysSound ks' := by
  obtain ⟨hlen, hpins, hfirst, hplanned⟩ := h
  exact ⟨hs.length_le.trans hlen, (hs.countP_le).trans hpins, hfirst.sublist hs, fun b => (hs.countP_le).trans (hplanned b)⟩

/-- Entries may leave the chain and members the on-set; statuses do not count. -/
theorem chainSound_of_sublist {q q' : Sequencer} (h : q.chainSound) (hc : (q'.chain.map Entry.key).Sublist (q.chain.map Entry.key))
    (hon : (q'.onSet.map (·.bay)).Sublist (q.onSet.map (·.bay))) : q'.chainSound := by
  obtain ⟨hkeys, hnodup⟩ := (chainSound_iff q).mp h
  exact (chainSound_iff q').mpr ⟨keysSound_of_sublist hc hkeys, hnodup.sublist hon⟩

theorem chainSound_of_keys {q q' : Sequencer} (h : q.chainSound) (hc : q'.chain.map Entry.key = q.chain.map Entry.key)
    (hon : q'.onSet.map (·.bay) = q.onSet.map (·.bay)) : q'.chainSound :=
  chainSound_of_sublist h (by rw [hc]) (by rw [hon])

theorem chainSound_of_empty {q : Sequencer} (hc : q.chain = []) (hon : q.onSet = []) : q.chainSound :=
  (chainSound_iff q).mpr (by simp [keysSound, hc, hon])

theorem map_key_of_status {xs : List Entry} {f : Entry → Entry} (hf : ∀ e, (f e).bay = e.bay ∧ (f e).pinned = e.pinned) :
    (xs.map f).map Entry.key = xs.map Entry.key := by
  rw [List.map_map]
  exact List.map_congr_left fun e _ => by simp [Entry.key, hf]

theorem markMissed_key (chain : List Entry) (i : Option Nat) : (markMissed chain i).map Entry.key = chain.map Entry.key := by
  cases i with
  | none => rfl
  | some i =>
    refine List.ext_getElem (by simp [markMissed]) fun j h1 h2 => ?_
    simp only [markMissed, List.getElem_map, List.getElem_modify]
    split <;> rfl

theorem chainSound_leave {b : BayNo} {s : State} (h : s.seq.chainSound) : (leaveOnSet b s).seq.chainSound := by
  cases hm : s.seq.member b with
  | none => rwa [leaveOnSet_of_not_member hm]
  | some m =>
    rw [leaveOnSet_of_member hm, commandHeat_seq]
    exact chainSound_of_sublist h (by rw [markMissed_key]) (List.filter_sublist.map _)

theorem chainSound_command {b : BayNo} {on : Bool} {s : State} (h : s.seq.chainSound) : (commandHeat b on s).seq.chainSound := by
  rw [commandHeat_seq]
  exact chainSound_of_keys h rfl rfl

theorem chainSound_shedSome (n : Nat) (s : State) (h : s.seq.chainSound) : (shedSome n s).seq.chainSound := by
  induction n generalizing s with
  | zero => exact h
  | succ n ih =>
    unfold shedSome
    split
    · exact h
    · exact ih _ (chainSound_leave h)

theorem chainSound_shed {s : State} (h : s.seq.chainSound) : (shed s).seq.chainSound := by
  unfold shed
  split
  · exact Kept.foldl (P := fun s => s.seq.chainSound) _ (fun s m h => chainSound_leave h) _ _ h
  · exact chainSound_shedSome _ s h

/-! ## New entries (R82, R85, R86) -/

/-- A chain whose entries satisfying p stand first is those, then the others. -/
theorem chain_split {q : Sequencer} (h : q.chainSound) :
    (∀ e ∈ q.chain.take q.pinned, e.pinned = true) ∧ ∀ e ∈ q.chain.drop q.pinned, e.pinned = false := by
  obtain ⟨-, -, hfirst, -, -⟩ := h
  have hfirst' := List.all_eq_true.mp hfirst
  refine ⟨hfirst', fun e he => ?_⟩
  have hcount : q.pinned = (q.chain.take q.pinned).countP (·.pinned) + (q.chain.drop q.pinned).countP (·.pinned) := by
    conv_lhs => rw [Sequencer.pinned, ← List.take_append_drop q.pinned q.chain, List.countP_append]
  have hall : (q.chain.take q.pinned).countP (·.pinned) = q.pinned := by
    rw [List.countP_eq_length.mpr hfirst', List.length_take]
    exact Nat.min_eq_left List.countP_le_length
  have hnone : (q.chain.drop q.pinned).countP (·.pinned) = 0 := by omega
  simpa using List.countP_eq_zero.mp hnone e he

/-- Pinned entries, and behind them planned ones. -/
theorem pinsFirst_append {pins planned : List Entry} (hpin : ∀ e ∈ pins, e.pinned = true) (hplan : ∀ e ∈ planned, e.pinned = false) :
    ((pins ++ planned).map Entry.key).Pairwise fun x y => y.2 = true → x.2 = true := by
  rw [List.pairwise_map, List.pairwise_append]
  refine ⟨List.pairwise_of_forall_mem_list fun x hx y _ _ => hpin x hx,
    List.pairwise_of_forall_mem_list fun x _ y hy e => ?_, fun x hx y _ _ => hpin x hx⟩
  exact absurd e (by simp [Entry.key, hplan y hy])

theorem keysSound_addPin {q : Sequencer} {b : BayNo} (h : q.chainSound) (hpins : q.pinned < 16) (hroom : q.chain.length < 64) :
    keysSound ((q.addPin b).chain.map Entry.key) := by
  obtain ⟨hpin, hplan⟩ := chain_split h
  obtain ⟨⟨-, -, -, hplanned⟩, -⟩ := (chainSound_iff q).mp h
  have hperm : ((q.addPin b).chain.map Entry.key).Perm ((b, true) :: q.chain.map Entry.key) := by
    have : (q.addPin b).chain.Perm (⟨b, true, .waiting⟩ :: q.chain) := by
      simpa [Sequencer.addPin] using List.perm_middle (l₁ := q.chain.take q.pinned) (l₂ := q.chain.drop q.pinned)
    exact this.map Entry.key
  refine ⟨by simpa [hperm.length_eq] using hroom, ?_, ?_, fun c => ?_⟩
  · have : (q.chain.map Entry.key).countP (·.2) = q.pinned := by
      simp [Sequencer.pinned, Entry.key, List.countP_map, Function.comp_def]
    rw [hperm.countP_eq, List.countP_cons_of_pos rfl, this]
    omega
  · have hchain : (q.addPin b).chain = (q.chain.take q.pinned ++ [⟨b, true, .waiting⟩]) ++ q.chain.drop q.pinned := by
      simp [Sequencer.addPin]
    rw [hchain]
    refine pinsFirst_append (fun e he => ?_) hplan
    obtain he | rfl := by simpa only [List.mem_append, List.mem_singleton] using he
    · exact hpin e he
    · rfl
  · rw [hperm.countP_eq, List.countP_cons_of_neg (by simp)]
    exact hplanned c


theorem countP_pinned (xs : List Entry) : (xs.map Entry.key).countP (·.2) = xs.countP (·.pinned) := by
  rw [List.countP_map]; rfl

theorem countP_planned_of_bay (b : BayNo) (xs : List Entry) :
    (xs.map Entry.key).countP (· == (b, false)) = xs.countP fun e => !e.pinned && e.bay == b := by
  rw [List.countP_map]
  exact List.countP_congr fun e _ => by simp [Entry.key, Prod.ext_iff, and_comm]

/-- R85: one pass lays at most one entry of a bay. -/
theorem countP_pass_le {hs : List Handed} (hnodup : (hs.map (·.bay)).Nodup) (p : Nat) (b : BayNo) :
    (((hs.filter fun h => p < h.count).map fun h => (⟨h.bay, false, .waiting⟩ : Entry)).countP fun e => !e.pinned && e.bay == b) ≤ 1 := by
  rw [List.countP_map]
  calc _ ≤ hs.countP fun h => h.bay == b := by
        refine (List.filter_sublist.countP_le).trans_eq (List.countP_congr fun h _ => ?_)
        simp
    _ = (hs.map (·.bay)).count b := by rw [List.count, List.countP_map]; rfl
    _ ≤ 1 := List.nodup_iff_count_le_one.mp hnodup b

theorem layout_planned_le {hs : List Handed} (hnodup : (hs.map (·.bay)).Nodup) (b : BayNo) :
    (layout hs).countP (fun e => !e.pinned && e.bay == b) ≤ 16 := by
  have hsorted : ((sortBy Handed.before hs).map (·.bay)).Nodup := ((sortBy_perm _ hs).map _).nodup_iff.mpr hnodup
  rw [layout, List.countP_flatMap]
  calc _ ≤ ((List.range 16).map fun _ => 1).sum := List.sum_le_sum fun p _ => countP_pass_le hsorted p b
    _ = 16 := by simp

theorem layout_planned {hs : List Handed} : ∀ e ∈ layout hs, e.pinned = false := by
  intro e he
  simp only [layout, List.mem_flatMap, List.mem_map] at he
  obtain ⟨_, _, _, _, rfl⟩ := he
  rfl

/-- R85: the planned entries behind the pins. -/
theorem keysSound_layOut {q : Sequencer} {hs : List Handed} (h : q.chainSound) (hnodup : (hs.map (·.bay)).Nodup)
    (hpins : q.chain.all (·.pinned) = true) : keysSound ((q.layOut hs).chain.map Entry.key) := by
  have hpin : ∀ e ∈ q.chain, e.pinned = true := List.all_eq_true.mp hpins
  have hsub : (((q.chain ++ layout hs).take chainRoom).map Entry.key).Sublist ((q.chain ++ layout hs).map Entry.key) :=
    (List.take_sublist _ _).map _
  refine ⟨by simp [Sequencer.layOut, chainRoom], ?_, (pinsFirst_append hpin layout_planned).sublist hsub, fun b => ?_⟩
  · refine hsub.countP_le.trans ?_
    have hnone : (layout hs).countP (·.pinned) = 0 := List.countP_eq_zero.mpr fun e he => by simp [layout_planned e he]
    rw [countP_pinned, List.countP_append, hnone]
    exact h.2.1
  · refine hsub.countP_le.trans ?_
    have hnone : q.chain.countP (fun e => !e.pinned && e.bay == b) = 0 := List.countP_eq_zero.mpr fun e he => by simp [hpin e he]
    rw [countP_planned_of_bay, List.countP_append, hnone, Nat.zero_add]
    exact layout_planned_le hnodup b

/-- R86: a late pass appends no more than the chain and the bay have room for. -/
theorem keysSound_lateAppend {q : Sequencer} {b : BayNo} {n : Nat} (h : q.chainSound) :
    keysSound ((q.lateAppend b n).chain.map Entry.key) := by
  obtain ⟨hpin, hplan⟩ := chain_split h
  obtain ⟨hlen, hpins, -, hplanned, -⟩ := h
  have hcount : q.lateCount b n ≤ 64 - q.chain.length ∧ q.lateCount b n ≤ 16 - q.plannedOf b := by
    simp only [Sequencer.lateCount, chainRoom]; omega
  have hnew : ∀ e ∈ List.replicate (q.lateCount b n) (⟨b, false, .waiting⟩ : Entry), e.pinned = false := fun e he => by
    rw [List.eq_of_mem_replicate he]
  refine ⟨?_, ?_, ?_, fun c => ?_⟩
  · simp only [Sequencer.lateAppend, List.length_map, List.length_append, List.length_replicate]
    omega
  · have hnone := List.countP_eq_zero.mpr fun e he => by simpa using hnew e he
    rw [countP_pinned, Sequencer.lateAppend, List.countP_append, hnone]
    exact hpins
  · have hchain : (q.lateAppend b n).chain =
        q.chain.take q.pinned ++ (q.chain.drop q.pinned ++ List.replicate (q.lateCount b n) ⟨b, false, .waiting⟩) := by
      rw [← List.append_assoc, List.take_append_drop]; rfl
    rw [hchain]
    exact pinsFirst_append hpin fun e he => (List.mem_append.mp he).elim (hplan e) (hnew e)
  · have hc := hplanned c
    rw [countP_planned_of_bay, Sequencer.lateAppend, List.countP_append, List.countP_replicate]
    rw [Sequencer.plannedOf] at hc hcount
    split
    · next hbay =>
      obtain rfl : b = c := by simpa using hbay
      omega
    · exact hc

theorem removeEntry_chainSound {q : Sequencer} (h : q.chainSound) (p : Nat) : (q.removeEntry p).chainSound :=
  chainSound_of_sublist h ((List.eraseIdx_sublist _ _).map _) (by simp [Sequencer.removeEntry, Function.comp_def])

/-- R88: no bay joins twice. -/
theorem walk_nodup (s : State) (es : List Entry) (w : WalkState) (i : Nat) (h : (w.joined.map (·.bay)).Nodup) :
    ((walkFrom s w i es).1.joined.map (·.bay)).Nodup := by
  refine walkFrom_induction (I := fun w => (w.joined.map (·.bay)).Nodup) s (fun _ => id) (fun w i e hnew _ h => ?_) es w i h
  have hfresh : ∀ m ∈ w.joined, m.bay ≠ e.bay := by simpa using hnew
  simpa [WalkState.join, List.nodup_append, h] using hfresh

theorem walk_keys (s : State) (es : List Entry) (w : WalkState) (i : Nat) :
    (walkFrom s w i es).2.map Entry.key = es.map Entry.key := by
  induction es generalizing w i with
  | nil => rfl
  | cons e es ih =>
    obtain ⟨hbay, hpin⟩ := walkEntry_key s w i e
    simp only [walkFrom, List.map_cons, ih, Entry.key, hbay, hpin]

theorem chainSound_kept : Kept fun s => s.seq.chainSound := by
  constructor
  case command => intro b on s h; exact chainSound_command h
  case leave => intro b s h; exact chainSound_leave h
  case silence =>
    intro b s h
    unfold silenceHeating
    split
    · exact h
    · exact chainSound_of_keys (chainSound_leave h) rfl rfl
  case tearHeating =>
    intro b s h
    refine chainSound_command (chainSound_of_keys (chainSound_leave (b := b) h) ?_ rfl)
    exact map_key_of_status fun e => by split <;> exact ⟨rfl, rfl⟩
  case alarm => intro v s h; exact chainSound_of_keys h rfl rfl
  case slotTimer => intro i t s h; exact chainSound_of_keys h rfl rfl
  case timers => intro s h; exact chainSound_of_keys h rfl rfl
  case limits => intro a s h; exact chainSound_shed (chainSound_of_keys h rfl rfl)
  case stuck => intro b u s h; exact chainSound_shed (chainSound_of_keys h rfl rfl)
  case unstuck => intro b s h; exact chainSound_of_keys h rfl rfl
  case endSlot => intro s h; exact chainSound_of_sublist h (List.Sublist.refl _) (List.nil_sublist _)
  case walk =>
    intro s _ _ _ h
    obtain ⟨hkeys, -⟩ := (chainSound_iff _).mp h
    exact (chainSound_iff _).mpr ⟨by rw [updSeq_seq, walk_keys]; exact hkeys, walk_nodup s _ _ _ List.nodup_nil⟩
  case closeRound =>
    intro s h
    refine chainSound_of_sublist h ?_ (List.Sublist.refl _)
    simp only [Machine.closeRound, updSeq_seq]
    rw [map_key_of_status (f := fun e => { e with status := .waiting }) fun e => ⟨rfl, rfl⟩]
    have hmissed : (s.seq.chain.map fun e => if e.status = .waiting then { e with status := .missed } else e).map Entry.key
        = s.seq.chain.map Entry.key := map_key_of_status fun e => by split <;> exact ⟨rfl, rfl⟩
    exact hmissed ▸ List.filter_sublist.map _
  case layOut =>
    intro hs s hnodup hpins h
    exact (chainSound_iff _).mpr ⟨keysSound_layOut h hnodup hpins, ((chainSound_iff _).mp h).2⟩
  case lateAppend => intro b n s h; exact (chainSound_iff _).mpr ⟨keysSound_lateAppend h, ((chainSound_iff _).mp h).2⟩
  case pin =>
    intro b s hpins hroom h
    refine (chainSound_iff _).mpr ⟨keysSound_addPin h hpins hroom, ?_⟩
    simpa [Sequencer.addPin, Function.comp_def] using ((chainSound_iff _).mp h).2
  case unpin => intro p s h; exact removeEntry_chainSound h p
  case closeHeating =>
    intro b s h
    refine chainSound_of_sublist h ?_ ?_ <;> simp only [Machine.closeHeating, updSeq_seq, removePins_eq]
    · exact List.filter_sublist.map _
    · simp [Function.comp_def]
  case restartHeating => intro s h; exact chainSound_of_empty rfl rfl
  case powerOn => intro b f a q n; exact chainSound_of_empty rfl rfl
  all_goals intros; simpa [reorder, updRecord, removeRecord, addRecord] using ‹Sequencer.chainSound _›

/-! ## The statements -/

/-- Settles O54: the store's law is Kept. -/
theorem storeKept : Obligations.StoreKept := storeSound_kept.step

/-- Settles O55: the load's law is Kept. -/
theorem loadKept : Obligations.LoadKept := loadSound_kept.step

/-- Settles O56: the chain's laws are Kept. -/
theorem chainKept : Obligations.ChainKept := chainSound_kept.step

/-- Settles O57: the lamp unit's law is Kept. -/
theorem lampKept : Obligations.LampKept := lampSound_kept.step

/-- Settles O58: the plug's law is Kept. -/
theorem plugKept : Obligations.PlugKept := plugSound_kept.step

/-- Settles O59: the book's law is Kept. -/
theorem bookKept : Obligations.BookKept := bookSound_kept.step

/-- Settles O60: the state at reset is one right after the release of the reset line, where every Kept law holds. -/
theorem lawsAtReset : Obligations.LawsAtReset :=
  ⟨storeSound_kept.powerOn 3#2 3#2 false [] 0, loadSound_kept.powerOn 3#2 3#2 false [] 0, chainSound_kept.powerOn 3#2 3#2 false [] 0,
    lampSound_kept.powerOn 3#2 3#2 false [] 0, plugSound_kept.powerOn 3#2 3#2 false [] 0, bookSound_kept.powerOn 3#2 3#2 false [] 0⟩

end Sys2Proof.Machine

/-! PROOF. Steps, the release of the reset line, and the line held (R190; log 1, log 9, log 21). -/

namespace Sys2Proof.Machine

/-! ## Steps -/

theorem step_of_front {c : Instr} {rest : List Instr} {s : State} (h : s.pending = c :: rest) :
    step s = exec c { s with pending := rest } := by
  simp [step, h]

theorem step_of_due {e : Instr} {s : State} (hq : s.pending = []) (h : s.nextDue = some e) : step s = exec e s.chosen := by
  simp [step, hq, h]

theorem step_of_none_due {s : State} (hq : s.pending = []) (h : s.nextDue = none) : step s = .next (timePasses s) := by
  simp [step, hq, h]

theorem nextDue_of_held {s : State} (h : s.resetHeld = true) : s.nextDue = none := if_pos h

theorem timePasses_of_held {s : State} (h : s.resetHeld = true) : timePasses s = s := if_pos h

/-- A request that waits at a free bus is granted before time passes (log 10). -/
theorem timePasses_of_grant {s : State} (hheld : s.resetHeld = false) (hwire : s.bus.wire = .free) (hwait : s.bus.waiting ≠ []) :
    timePasses s = arbitrate s := by
  simp [timePasses, hheld, hwire, hwait]

theorem timePasses_of_no_grant {s : State} (hheld : s.resetHeld = false) (h : s.bus.wire ≠ .free ∨ s.bus.waiting = []) :
    timePasses s = passMillisecond s := by
  cases hwire : s.bus.wire with
  | free => simp [timePasses, hheld, hwire, h.resolve_left (not_not.mpr hwire)]
  | busy t => simp [timePasses, hheld, hwire]
  | quiet => simp [timePasses, hheld, hwire]

/-- Settles O1: a command at the front is taken. -/
theorem stepRunsTheFront : Obligations.StepRunsTheFront := fun _ _ _ h => step_of_front h

/-- Settles O2: the time base at an empty queue, by the reset line, the due event and the waiting request. -/
theorem stepOnEmptyQueue : Obligations.StepOnEmptyQueue := by
  intro s hq
  refine ⟨fun hheld => ?_, fun e he => step_of_due hq he, fun hheld hdue hwire hwait => ?_, fun hheld hdue h => ?_⟩
  · rw [step_of_none_due hq (nextDue_of_held hheld), timePasses_of_held hheld]
  · rw [step_of_none_due hq hdue, timePasses_of_grant hheld hwire hwait]
  · rw [step_of_none_due hq hdue, timePasses_of_no_grant hheld h]

/-! ## The release of the reset line -/

theorem bayCountOf_eq (b : BitVec 2) : Config.bayCountOf b = if b = 0#2 then 8 else if b = 1#2 then 16 else 24 := by
  revert b; decide

theorem feedOf_eq (f : BitVec 2) : Config.feedOf f = 12 * (f.toNat + 1) := rfl

theorem bay_powerOn (b f : BitVec 2) (a : Bool) (q : List Instr) (x : BayNo) : (State.powerOn b f a q).bay x = Bay.reset := by
  simp [State.bay, State.powerOn]

/-- R190: the START notice pulls both attention lines low. -/
theorem attention_of_reset {l : Link} {s : State} (hheld : s.resetHeld = false) (hport : s.port l = Port.reset) : s.attention l = true := by
  have : Port.reset.attention = true := by decide
  simp [State.attention, hheld, hport, this]

theorem replicate_at {α : Type} {n : Nat} (a : α) (x : Fin n) : (Vector.replicate n a)[x] = a := Vector.getElem_replicate _

/-- Settles O3: the state after the release is State.powerOn's, each vector one value at every place. -/
theorem powerOnValues : Obligations.PowerOnValues := by
  intro b f s
  exact ⟨{ State.powerOn b f s.seq.feedAlarm s.pending with choices := s.choices }, rfl, rfl, rfl, rfl, bayCountOf_eq b, feedOf_eq f,
    rfl, ⟨rfl, rfl, rfl⟩, bay_powerOn b f s.seq.feedAlarm s.pending, replicate_at _, rfl, rfl, rfl, rfl, rfl, replicate_at _,
    ⟨rfl, rfl, rfl, rfl⟩, replicate_at _, fun x => ⟨replicate_at _ x, replicate_at _ x, replicate_at _ x, replicate_at _ x⟩,
    ⟨rfl, rfl, rfl, rfl⟩,
    fun x => ⟨replicate_at _ x, replicate_at _ x, replicate_at _ x, replicate_at _ x, replicate_at _ x⟩, replicate_at _, rfl,
    ⟨rfl, rfl, rfl⟩, fun x => ⟨replicate_at _ x, replicate_at _ x⟩, ⟨rfl, rfl⟩, fun x => ⟨replicate_at _ x, replicate_at _ x⟩,
    ⟨rfl, rfl, rfl, rfl⟩, ⟨rfl, rfl, rfl, rfl⟩, replicate_at _,
    fun l => by cases l <;> exact ⟨attention_of_reset rfl rfl, rfl⟩⟩

/-! ## The reset line held -/

theorem exec_resetLineHeld (s : State) : exec .resetLineHeld s = .next (holdReset s) := rfl

/-- R190, log 21: nothing but the release, the line itself and the level of the feed alarm line is seen. -/
theorem exec_of_held {c : Instr} {s : State} (h : s.resetHeld = true) (hrelease : ∀ b f, c ≠ .powerOnReset b f)
    (hline : c ≠ .resetLineHeld) (hon : c ≠ .feedAlarmAsserted) (hoff : c ≠ .feedAlarmReleased) : exec c s = .next s := by
  have hevent : ∀ f, event f s = .next s := fun f => by simp [event, h]
  cases c with
  | powerOnReset b f => exact absurd rfl (hrelease b f)
  | resetLineHeld => exact absurd rfl hline
  | feedAlarmAsserted => exact absurd rfl hon
  | feedAlarmReleased => exact absurd rfl hoff
  | slotTimerExpiry => exact hevent fun s => arbitrate (nextSlot s)
  | _ => exact hevent _

/-- Settles O4: the line's own effect by definition; everything else is an event, which the held line lets pass. -/
theorem resetLineHeld : Obligations.ResetLineHeld := by
  refine ⟨fun s => rfl, fun s l h => by simp [State.attention, h], fun s h => ⟨?_, rfl⟩, fun c s h hrelease hline hon hoff =>
    exec_of_held h hrelease hline hon hoff⟩
  simp [exec, execFeedAlarmAsserted, State.updSeq, h]

end Sys2Proof.Machine

/-! PROOF. The links (R181 to R185, R188): the receiver byte by byte, the checks of a frame, the frame that runs its command, the masks. -/

namespace Sys2Proof.Machine

/-! ## Ports -/

theorem event_of_not_held {f : State → State} {s : State} (h : s.resetHeld = false) : event f s = .next (f s) := by
  simp [event, h]

theorem updPort_eq_setPort (s : State) (l : Link) (f : Port → Port) : s.updPort l f = s.setPort l (f (s.port l)) := rfl

@[simp] theorem port_setPort_same (s : State) (l : Link) (p : Port) : (s.setPort l p).port l = p := by cases l <;> rfl

@[simp] theorem setPort_setPort (s : State) (l : Link) (p q : Port) : (s.setPort l p).setPort l q = s.setPort l q := by cases l <;> rfl

@[simp] theorem setPort_resetHeld (s : State) (l : Link) (p : Port) : (s.setPort l p).resetHeld = s.resetHeld := by cases l <;> rfl

theorem sending_eq_false_iff (p : Port) : p.sending = false ↔ p.responder = .free := by simp [Port.sending]

theorem sending_eq_true_iff (p : Port) : p.sending = true ↔ p.responder ≠ .free := by simp [Port.sending]

theorem setReceiver_idle (l : Link) (s : State) :
    setReceiver l .idle s = s.setPort l { s.port l with receiver := .idle, gap := 0 } := rfl

theorem setReceiver_of_ne {l : Link} {r : Receiver} {s : State} (h : r ≠ .idle) :
    setReceiver l r s = s.setPort l { s.port l with receiver := r, gap := gapTime } := by
  simp [setReceiver, updPort_eq_setPort, h]

/-- R182: a frame lost: the receiver IDLE and the error counted. -/
theorem discardFrame_eq (l : Link) (s : State) : discardFrame l s = s.setPort l
    { s.port l with receiver := .idle, gap := 0, frameErrors := min 65535 ((s.port l).frameErrors + 1) } := by
  simp [discardFrame, setReceiver_idle, updPort_eq_setPort, sat16]

theorem countOverrun_eq (l : Link) (s : State) :
    countOverrun l s = s.setPort l { s.port l with overruns := min 65535 ((s.port l).overruns + 1) } := rfl

theorem startOverrun_eq (l : Link) (s : State) : startOverrun l s = s.setPort l
    { s.port l with receiver := .discarding none, gap := gapTime, overruns := min 65535 ((s.port l).overruns + 1) } := by
  simp [startOverrun, setReceiver_of_ne, countOverrun_eq]

/-! ## A byte (R182) -/

theorem exec_linkByteReceived {l : Link} {x : Byte} {good : Bool} {s : State} (h : s.resetHeld = false) :
    exec (.linkByteReceived l x good) s = .next (receiveByte l x good s) := event_of_not_held h

/-- An IDLE receiver waits for a good sync byte. -/
theorem receiveByte_idle {l : Link} {x : Byte} {good : Bool} {s : State} (h : (s.port l).receiver = .idle)
    (hx : x ≠ 0xC3#8 ∨ good = false) : receiveByte l x good s = s := by
  obtain hx | hx := hx <;> simp [receiveByte, h, syncByte, hx]

theorem receiveByte_sync {l : Link} {s : State} (h : (s.port l).receiver = .idle) : receiveByte l 0xC3#8 true s =
    if (s.port l).sending then startOverrun l s else setReceiver l (.receiving []) s := by
  simp [receiveByte, h, syncByte]

theorem receiveByte_badStop {l : Link} {x : Byte} {s : State} {bs : List Byte} (h : (s.port l).receiver = .receiving bs) :
    receiveByte l x false s = discardFrame l s := by
  simp [receiveByte, h]

theorem receiveByte_receiving {l : Link} {x : Byte} {s : State} {bs : List Byte} (h : (s.port l).receiver = .receiving bs) :
    receiveByte l x true s = receiveNext l (bs ++ [x]) s := by
  simp [receiveByte, h]

theorem receiveByte_discarding {l : Link} {x : Byte} {s : State} {k : Option Nat} (h : (s.port l).receiver = .discarding k) :
    receiveByte l x true s = skipNext l k x s := by
  simp [receiveByte, h]

theorem receiveByte_endSkip {l : Link} {x : Byte} {s : State} {k : Option Nat} (h : (s.port l).receiver = .discarding k) :
    receiveByte l x false s = setReceiver l .idle s := by
  simp [receiveByte, h]

theorem receiveNext_of_long {l : Link} {n : Byte} {bs : List Byte} {s : State} (h : 120 < n.toNat) :
    receiveNext l (n :: bs) s = discardFrame l s := if_pos h

theorem receiveNext_of_more {l : Link} {n : Byte} {bs : List Byte} {s : State} (hn : n.toNat ≤ 120) (hlen : bs.length + 1 ≠ n.toNat + 4) :
    receiveNext l (n :: bs) s = s.setPort l { s.port l with receiver := .receiving (n :: bs), gap := gapTime } := by
  rw [receiveNext, mostPayload, if_neg (Nat.not_lt.mpr hn), List.length_cons, if_neg hlen, setReceiver_of_ne (by simp)]

theorem receiveNext_of_last {l : Link} {n : Byte} {bs : List Byte} {s : State} (hn : n.toNat ≤ 120) (hlen : bs.length + 1 = n.toNat + 4) :
    receiveNext l (n :: bs) s = completeFrame l (n :: bs) s := by
  rw [receiveNext, mostPayload, if_neg (Nat.not_lt.mpr hn), List.length_cons, if_pos hlen]

/-- R182: the check decides between the frame taken and the frame lost. -/
theorem completeFrame_eq (l : Link) (n code : Byte) (bs : List Byte) (s : State) : completeFrame l (n :: code :: bs) s =
    if bs.drop n.toNat = halfBytes (crc16 (n :: code :: bs.take n.toNat))
    then takeFrame l code (bs.take n.toNat) (setReceiver l .idle s) else discardFrame l s := rfl

theorem skipNext_none (l : Link) (x : Byte) (s : State) : skipNext l none x s =
    if 120 < x.toNat then setReceiver l .idle s else setReceiver l (.discarding (some (x.toNat + 3))) s := rfl

theorem skipNext_some (l : Link) (k : Nat) (x : Byte) (s : State) : skipNext l (some k) x s =
    if k ≤ 1 then setReceiver l .idle s else setReceiver l (.discarding (some (k - 1))) s := rfl

/-- Settles O6: a byte at each state of the receiver. -/
theorem bytesReceived : Obligations.BytesReceived := by
  intro l x good s hheld p goes lost
  have hgoes : ∀ {q}, receiveByte l x good s = s.setPort l q → goes q := fun h => (exec_linkByteReceived hheld).trans (congrArg _ h)
  refine ⟨fun h hx => ?_, ?_, ?_, ?_, ?_, ?_, ?_, ?_, ?_, ?_, ?_, ?_⟩
  · rw [exec_linkByteReceived hheld, receiveByte_idle h hx]
  · rintro h rfl rfl hfree
    exact hgoes (by rw [receiveByte_sync h, if_neg (Bool.eq_false_iff.mp ((sending_eq_false_iff _).mpr hfree)), setReceiver_of_ne (by simp)])
  · rintro h rfl rfl hbusy
    exact hgoes (by rw [receiveByte_sync h, if_pos ((sending_eq_true_iff _).mpr hbusy), startOverrun_eq])
  · rintro bs h rfl
    exact hgoes (by rw [receiveByte_badStop h, discardFrame_eq])
  · rintro h rfl hlong
    exact hgoes (by rw [receiveByte_receiving h, List.nil_append, receiveNext_of_long hlong, discardFrame_eq])
  · rintro h rfl hshort
    exact hgoes (by rw [receiveByte_receiving h, List.nil_append, receiveNext_of_more hshort (by simp)])
  · rintro n bs h rfl hn hlen
    exact hgoes (by rw [receiveByte_receiving h, List.cons_append,
      receiveNext_of_more hn (by rw [List.length_append, List.length_singleton]; omega)])
  · rintro n code bs h rfl hn hlen hcheck
    have hle : n.toNat ≤ bs.length := by omega
    refine hgoes ?_
    rw [receiveByte_receiving h, List.cons_append, List.cons_append,
      receiveNext_of_last hn (by simp only [List.length_cons, List.length_append, List.length_nil]; omega),
      completeFrame_eq, List.drop_append_of_le_length hle, List.take_append_of_le_length hle, if_neg hcheck, discardFrame_eq]
  · rintro k h rfl
    exact hgoes (by rw [receiveByte_endSkip h, setReceiver_idle])
  · rintro h rfl hlong
    exact hgoes (by rw [receiveByte_discarding h, skipNext_none, if_pos hlong, setReceiver_idle])
  · rintro h rfl hshort
    exact hgoes (by rw [receiveByte_discarding h, skipNext_none, if_neg (Nat.not_lt.mpr hshort), setReceiver_of_ne (by simp)])
  · rintro k h rfl
    refine hgoes ?_
    rw [receiveByte_discarding h, skipNext_some]
    split
    · rw [setReceiver_idle]
    · rw [setReceiver_of_ne (by simp)]

/-! ## The events of a link that are no bytes (R182, R183) -/

theorem frameDiscarded_of_receiving {l : Link} {s : State} {bs : List Byte} (cause : DiscardCause)
    (h : (s.port l).receiver = .receiving bs) : frameDiscarded l cause s = discardFrame l s := by
  cases cause <;> simp [frameDiscarded, h]

theorem gapExceeded_of_receiving {l : Link} {s : State} {bs : List Byte} (h : (s.port l).receiver = .receiving bs) :
    gapExceeded l s = discardFrame l s := by
  simp [gapExceeded, h]

theorem gapExceeded_of_discarding {l : Link} {s : State} {k : Option Nat} (h : (s.port l).receiver = .discarding k) :
    gapExceeded l s = setReceiver l .idle s := by
  simp [gapExceeded, h]

theorem overrunStarts_of_sending {l : Link} {s : State} (h : (s.port l).receiver = .idle) (hbusy : (s.port l).responder ≠ .free) :
    overrunStarts l s = startOverrun l s := by
  simp [overrunStarts, h, (sending_eq_true_iff _).mpr hbusy]

/-- Settles O7: each event of a link that is not held, by the receiver's state. -/
theorem linkEvents : Obligations.LinkEvents := by
  intro l s hheld p lost broken
  have hbroken : breakLine l s = broken := by simp [breakLine, setReceiver_idle, updPort_eq_setPort, broken, p]
  refine ⟨fun cause bs h => ?_, fun bs h => ?_, fun k h => ?_, fun h hbusy => ?_, ?_, ?_, ?_⟩
  · calc exec (.frameDiscard l cause) s
      _ = .next (frameDiscarded l cause s) := event_of_not_held hheld
      _ = .next (s.setPort l lost) := by rw [frameDiscarded_of_receiving cause h, discardFrame_eq]
  · calc exec (.byteGapTimeout l) s
      _ = .next (gapExceeded l s) := event_of_not_held hheld
      _ = .next (s.setPort l lost) := by rw [gapExceeded_of_receiving h, discardFrame_eq]
  · calc exec (.byteGapTimeout l) s
      _ = .next (gapExceeded l s) := event_of_not_held hheld
      _ = _ := by rw [gapExceeded_of_discarding h, setReceiver_idle]
  · calc exec (.overrun l) s
      _ = .next (overrunStarts l s) := event_of_not_held hheld
      _ = _ := by rw [overrunStarts_of_sending h hbusy, startOverrun_eq]
  · calc exec (.lineBreak l) s
      _ = .next (breakLine l s) := event_of_not_held hheld
      _ = .next broken := by rw [hbroken]
  · exact attention_of_empty (by simp [broken])
  · calc exec (.responseSent l) s
      _ = .next (responseEnd l s) := event_of_not_held hheld
      _ = _ := rfl

/-! ## The codes (R185) -/

theorem permitted_dispatch_iff (k : Byte) : permitted .dispatch k = true ↔
    0x10 ≤ k.toNat ∧ k.toNat ≤ 0x15 ∨ 0x18 ≤ k.toNat ∧ k.toNat ≤ 0x1F ∨ 0x30 ≤ k.toNat ∧ k.toNat ≤ 0x3D := by
  simp [permitted, sharedCode, dispatchCode, BitVec.le_def]; omega

theorem permitted_workshop_iff (k : Byte) : permitted .workshop k = true ↔
    0x20 ≤ k.toNat ∧ k.toNat ≤ 0x2E ∨ 0x30 ≤ k.toNat ∧ k.toNat ≤ 0x3D := by
  simp [permitted, sharedCode, workshopCode, BitVec.le_def]; omega

theorem knownCode_iff (k : Byte) : knownCode k = true ↔ permitted .dispatch k = true ∨ permitted .workshop k = true := by
  simp only [knownCode, permitted, Bool.or_eq_true]; tauto

theorem knownCode_of_permitted {l : Link} {k : Byte} (h : permitted l k = true) : knownCode k = true := by
  rw [knownCode_iff]; cases l <;> simp [h]

theorem knownCode_codeOf {c : Instr} {code : Byte} (h : codeOf c = some code) : knownCode code = true := by
  cases c <;> cases h <;> decide

/-! ## Link commands as frames (R184) -/

/-- A link command's row is the frame that runs it. -/
theorem exec_eq_runCommand {c : Instr} {l : Link} (h : linkOf c = some l) (s : State) : exec c s = event (runCommand c) s := by
  cases c <;> cases h <;> rfl

/-- Every link command but REQUEST CLEARANCE is a rule behind the checks of its code and its bay. -/
theorem exec_linkCommand {c : Instr} {l : Link} {code : Byte} (hl : linkOf c = some l) (hc : codeOf c = some code) :
    (∃ rule, ∀ s, exec c s = event (takeCommand l code (bayNamed c) rule) s) ∨ ∃ ref cold, c = .requestClearance l ref cold := by
  cases c with
  | requestClearance _ ref cold => cases hl; exact .inr ⟨ref, cold, rfl⟩
  | _ => cases hl <;> cases hc <;> exact .inl ⟨_, fun _ => rfl⟩

theorem codeOf_isSome_of_linkOf {c : Instr} {l : Link} (h : linkOf c = some l) : ∃ code, codeOf c = some code := by
  cases c <;> cases h <;> exact ⟨_, rfl⟩

section Checks

variable {refused : Status → Response} {l : Link} {code : Byte} {bay : Option Byte} {rule : State → State × Response} {s : State}

theorem takeFrameWith_of_sending (h : (s.port l).responder ≠ .free) : takeFrameWith refused l code bay rule s = countOverrun l s :=
  if_pos ((sending_eq_true_iff _).mpr h)

theorem takeFrameWith_of_notPermitted (hfree : (s.port l).responder = .free) (h : permitted l code = false) :
    takeFrameWith refused l code bay rule s = answer l (refused .notPermitted) s := by
  simp [takeFrameWith, (sending_eq_false_iff _).mpr hfree, h]

theorem takeFrameWith_of_noBay {b : Byte} (hfree : (s.port l).responder = .free) (hp : permitted l code = true)
    (h : s.bayCount ≤ b.toNat) : takeFrameWith refused l code (some b) rule s = answer l (refused .noBay) s := by
  simp [takeFrameWith, (sending_eq_false_iff _).mpr hfree, hp, h]

end Checks

/-- REQUEST CLEARANCE uses a free reason set, and its frame is checked like any other. -/
theorem exec_requestClearance {l : Link} {ref : Half} {cold : Bool} {s : State} (h : s.resetHeld = false) :
    ∃ rule, exec (.requestClearance l ref cold) s = .next (takeFrameWith
      (fun st => clearanceReply ref st (Config.openReasons s.choices)) l 0x1C#8 none rule { s with choices := s.choices + 1 }) :=
  ⟨fun t =>
    let r := ruleRequestClearance ref.toNat cold (Config.openReasons s.choices) t
    (r.1, clearanceReply ref r.2.1 r.2.2), event_of_not_held (f := takeRequestClearance l ref cold) h⟩

theorem port_choices (s : State) (n : Nat) (l : Link) : ({ s with choices := n } : State).port l = s.port l := by cases l <;> rfl

/-! ## Payload lengths (11, Command payloads) -/

/-- The command codes. -/
def commandCodes : List Byte :=
  (List.range' 0x10 6 ++ List.range' 0x18 8 ++ List.range' 0x20 15 ++ List.range' 0x30 14).map (BitVec.ofNat 8)

theorem mem_commandCodes {k : Byte} (h : knownCode k = true) : k ∈ commandCodes := by
  rw [knownCode_iff, permitted_dispatch_iff, permitted_workshop_iff] at h
  refine List.mem_map.mpr ⟨k.toNat, ?_, BitVec.ofNat_toNat ..⟩
  simp only [List.mem_append, List.mem_range'_1]
  omega

/-- The lengths that 11 gives for the payload of a code, the long form of WRITE CLASS apart. -/
def payloadLengths : List (Nat × Nat) :=
  [(0x10, 3), (0x11, 2), (0x12, 6), (0x13, 9), (0x14, 2), (0x15, 1), (0x18, 10), (0x19, 10), (0x1A, 4), (0x1B, 2), (0x1C, 3), (0x1D, 2),
    (0x1E, 1), (0x1F, 0), (0x20, 1), (0x21, 1), (0x22, 1), (0x23, 1), (0x24, 2), (0x25, 1), (0x26, 1), (0x26, 6), (0x27, 1), (0x28, 1),
    (0x29, 1), (0x2A, 2), (0x2B, 4), (0x2C, 2), (0x2D, 4), (0x2E, 1), (0x30, 0), (0x31, 1), (0x32, 3), (0x33, 2), (0x34, 1), (0x35, 1),
    (0x36, 1), (0x37, 1), (0x38, 1), (0x39, 1), (0x3A, 0), (0x3B, 1), (0x3C, 1), (0x3D, 0)]

/-- These codes take a payload exactly when its length is one of theirs, and read a command of the link. -/
def payloadJudged (l : Link) (p : List Byte) (codes : List Byte) : Bool :=
  codes.all fun k =>
    (parsePayload l k p).isSome == payloadLengths.contains (k.toNat, p.length) && (parsePayload l k p).all (linkOf · == some l)

/-- Up to eight bytes no payload is of the long form: every code is judged by the number of the bytes alone. -/
theorem payloadJudged_short (l : Link) : ∀ p : List Byte, p.length ≤ 8 → payloadJudged l p commandCodes = true
  | [], _ | [_], _ | [_, _], _ | [_, _, _], _ | [_, _, _, _], _ | [_, _, _, _, _], _ | [_, _, _, _, _, _], _
  | [_, _, _, _, _, _, _], _ | [_, _, _, _, _, _, _, _], _ => by cases l <;> rfl
  | _ :: _ :: _ :: _ :: _ :: _ :: _ :: _ :: _ :: _, h => absurd h (by simp)

/-- More than ten bytes make no payload but the long form. -/
theorem payloadJudged_tail (l : Link) (a0 a1 a2 a3 a4 a5 a6 a7 a8 a9 a10 : Byte) (p : List Byte) :
    payloadJudged l (a0 :: a1 :: a2 :: a3 :: a4 :: a5 :: a6 :: a7 :: a8 :: a9 :: a10 :: p) (commandCodes.erase 0x25#8) = true := by
  have hlengths : ∀ x ∈ payloadLengths, x.2 ≤ 10 := by decide
  have hnone : ∀ k ∈ commandCodes.erase 0x25#8,
      (parsePayload l k (a0 :: a1 :: a2 :: a3 :: a4 :: a5 :: a6 :: a7 :: a8 :: a9 :: a10 :: p)).isNone = true :=
    List.all_eq_true.mp rfl
  refine List.all_eq_true.mpr fun k hk => ?_
  rw [Option.isNone_iff_eq_none.mp (hnone k hk)]
  have : payloadLengths.contains (k.toNat, p.length + 11) = false := by
    simpa using fun h => absurd (hlengths _ h) (by simp)
  simpa using this

/-- From nine bytes on the same holds of every code but that of WRITE CLASS. -/
theorem payloadJudged_long (l : Link) : ∀ p : List Byte, 9 ≤ p.length → payloadJudged l p (commandCodes.erase 0x25#8) = true
  | [_, _, _, _, _, _, _, _, _], _ | [_, _, _, _, _, _, _, _, _, _], _ => by cases l <;> rfl
  | _ :: _ :: _ :: _ :: _ :: _ :: _ :: _ :: _ :: _ :: _ :: _, _ => payloadJudged_tail ..
  | [], h | [_], h | [_, _], h | [_, _, _], h | [_, _, _, _], h | [_, _, _, _, _], h | [_, _, _, _, _, _], h
  | [_, _, _, _, _, _, _], h | [_, _, _, _, _, _, _, _], h => absurd h (by simp)

/-- R26: the circuit descriptions are read exactly when they are whole. -/
theorem isSome_parseCircuits_iff : ∀ p : List Byte, (parseCircuits p).isSome = true ↔ 6 ∣ p.length
  | [] => by simp [parseCircuits]
  | [_] | [_, _] | [_, _, _] | [_, _, _, _] | [_, _, _, _, _] => by simp [parseCircuits]
  | _ :: _ :: _ :: _ :: _ :: _ :: rest => by
    have hlen : 6 ∣ rest.length + 6 ↔ 6 ∣ rest.length := by omega
    simpa [parseCircuits, hlen] using isSome_parseCircuits_iff rest

/-- The long form of WRITE CLASS: nine bytes, then the circuit descriptions. -/
theorem parsePayload_class (l : Link) (c u k1 k0 g1 g0 t1 t0 a : Byte) (rest : List Byte) :
    parsePayload l 0x25#8 (c :: u :: k1 :: k0 :: g1 :: g0 :: t1 :: t0 :: a :: rest) =
      (parseCircuits rest).map fun cs => .writeClass l ⟨c, u, half k1 k0, half g1 g0, half t1 t0, a != 0#8, cs⟩ := rfl

theorem exists_of_nine_le : ∀ p : List Byte, 9 ≤ p.length → ∃ a0 a1 a2 a3 a4 a5 a6 a7 a8 rest,
    p = a0 :: a1 :: a2 :: a3 :: a4 :: a5 :: a6 :: a7 :: a8 :: rest
  | _ :: _ :: _ :: _ :: _ :: _ :: _ :: _ :: _ :: _, _ => ⟨_, _, _, _, _, _, _, _, _, _, rfl⟩
  | [], h | [_], h | [_, _], h | [_, _, _], h | [_, _, _, _], h | [_, _, _, _, _], h | [_, _, _, _, _, _], h
  | [_, _, _, _, _, _, _], h | [_, _, _, _, _, _, _, _], h => absurd h (by simp)

/-- R184, check 3. -/
theorem isSome_parsePayload_iff {l : Link} {code : Byte} {p : List Byte} (h : knownCode code = true) :
    (parsePayload l code p).isSome = true ↔
      (code.toNat, p.length) ∈ payloadLengths ∨ (code = 0x25#8 ∧ ∃ m, p.length = 9 + 6 * m) := by
  by_cases hclass : code = 0x25#8 ∧ 9 ≤ p.length
  · obtain ⟨rfl, hlen⟩ := hclass
    obtain ⟨_, _, _, _, _, _, _, _, _, rest, rfl⟩ := exists_of_nine_le p hlen
    have hshort : ((0x25#8).toNat, rest.length + 9) ∉ payloadLengths := fun hmem => by
      have : ∀ x ∈ payloadLengths, x.1 = 37 → x.2 = 1 := by decide
      exact absurd (this _ hmem rfl) (by simp)
    rw [parsePayload_class, Option.isSome_map, isSome_parseCircuits_iff]
    simp only [List.length_cons, hshort, false_or, true_and]
    exact ⟨fun ⟨m, hm⟩ => ⟨m, by omega⟩, fun ⟨m, hm⟩ => ⟨m, by omega⟩⟩
  · have hjudged : (parsePayload l code p).isSome = payloadLengths.contains (code.toNat, p.length) := by
      have hmem := mem_commandCodes h
      rcases Nat.lt_or_ge p.length 9 with hlen | hlen
      · have := List.all_eq_true.mp (payloadJudged_short l p (Nat.le_of_lt_succ hlen)) code hmem
        simpa using (Bool.and_eq_true_iff.mp this).1
      · have hne : code ≠ 0x25#8 := fun e => hclass ⟨e, hlen⟩
        have := List.all_eq_true.mp (payloadJudged_long l p hlen) code ((List.mem_erase_of_ne hne).mpr hmem)
        simpa using (Bool.and_eq_true_iff.mp this).1
    have hnot : ¬ (code = 0x25#8 ∧ ∃ m, p.length = 9 + 6 * m) := fun ⟨hc, m, hm⟩ => hclass ⟨hc, by omega⟩
    rw [hjudged, List.contains_iff_mem, or_iff_left hnot]

/-- A command read on a link is one of that link. -/
theorem linkOf_of_parsePayload {l : Link} {code : Byte} {p : List Byte} {c : Instr} (hknown : knownCode code = true)
    (h : parsePayload l code p = some c) : linkOf c = some l := by
  have hmem := mem_commandCodes hknown
  rcases Nat.lt_or_ge p.length 9 with hlen | hlen
  · have := List.all_eq_true.mp (payloadJudged_short l p (Nat.le_of_lt_succ hlen)) code hmem
    simpa [h] using (Bool.and_eq_true_iff.mp this).2
  · by_cases hc : code = 0x25#8
    · obtain ⟨_, _, _, _, _, _, _, _, _, rest, rfl⟩ := exists_of_nine_le p hlen
      rw [hc, parsePayload_class] at h
      obtain ⟨_, -, rfl⟩ := Option.map_eq_some_iff.mp h
      rfl
    · have := List.all_eq_true.mp (payloadJudged_long l p hlen) code ((List.mem_erase_of_ne hc).mpr hmem)
      simpa [h] using (Bool.and_eq_true_iff.mp this).2

/-! ## The checks of a frame (R184) -/

theorem setPort_eq_updPort (s : State) (l : Link) (p : Port) : s.setPort l p = s.updPort l fun _ => p := rfl

/-- R184, check 2, for every link command. -/
theorem exec_of_notPermitted {c : Instr} {l : Link} {code : Byte} {s : State} (hl : linkOf c = some l) (hc : codeOf c = some code)
    (hp : permitted l code = false) (hr : s.ready l) :
    ∃ n r, exec c s = .next (answer l r { s with choices := n }) ∧ r.status = .notPermitted
      ∧ (r.reply = .empty ∨ ∃ ref cold rs, c = .requestClearance l ref cold ∧ r.reply = .clearance ref.toNat rs) := by
  obtain ⟨hheld, hfree⟩ := hr
  obtain ⟨rule, he⟩ | ⟨ref, cold, rfl⟩ := exec_linkCommand hl hc
  · refine ⟨s.choices, refusal .notPermitted, ?_, rfl, .inl rfl⟩
    rw [he, event_of_not_held hheld, takeCommand, takeFrameWith_of_notPermitted hfree hp]
  · cases hc
    obtain ⟨rule, he⟩ := exec_requestClearance (l := l) (ref := ref) (cold := cold) hheld
    refine ⟨s.choices + 1, clearanceReply ref .notPermitted (Config.openReasons s.choices), ?_, rfl, .inr ⟨ref, cold, _, rfl, rfl⟩⟩
    rw [he, takeFrameWith_of_notPermitted (by rwa [port_choices]) hp]

/-- R184, check 4, for every command that names a bay. -/
theorem exec_of_noBay {c : Instr} {l : Link} {code b : Byte} {s : State} (hl : linkOf c = some l) (hc : codeOf c = some code)
    (hp : permitted l code = true) (hb : bayNamed c = some b) (hr : s.ready l) (hfit : s.bayCount ≤ b.toNat) :
    exec c s = .next (answer l ⟨.noBay, .empty⟩ s) := by
  obtain ⟨hheld, hfree⟩ := hr
  obtain ⟨rule, he⟩ | ⟨ref, cold, rfl⟩ := exec_linkCommand hl hc
  · rw [he, event_of_not_held hheld, hb, takeCommand, takeFrameWith_of_noBay hfree hp hfit]; rfl
  · cases hb

/-- R182: a frame that finds the responder SENDING. -/
theorem exec_of_sending {c : Instr} {l : Link} {s : State} (hl : linkOf c = some l) (hheld : s.resetHeld = false)
    (hbusy : (s.port l).responder ≠ .free) : ∃ n, exec c s = .next
      (({ s with choices := n } : State).setPort l { s.port l with overruns := min 65535 ((s.port l).overruns + 1) }) := by
  obtain ⟨code, hc⟩ := codeOf_isSome_of_linkOf hl
  obtain ⟨rule, he⟩ | ⟨ref, cold, rfl⟩ := exec_linkCommand hl hc
  · refine ⟨s.choices, ?_⟩
    rw [he, event_of_not_held hheld, takeCommand, takeFrameWith_of_sending hbusy, countOverrun_eq]
  · obtain ⟨rule, he⟩ := exec_requestClearance (l := l) (ref := ref) (cold := cold) hheld
    refine ⟨s.choices + 1, ?_⟩
    rw [he, takeFrameWith_of_sending (by rwa [port_choices]), countOverrun_eq, port_choices]

theorem exec_unknownCommandCode {l : Link} {code : Byte} {s : State} (hk : knownCode code = false) (hr : s.ready l) :
    exec (.unknownCommandCode l code) s = .next (answer l ⟨.badCommand, .empty⟩ s) := by
  obtain ⟨hheld, hfree⟩ := hr
  calc exec (.unknownCommandCode l code) s
    _ = .next (takeUnknownCode l code s) := event_of_not_held hheld
    _ = _ := by simp [takeUnknownCode, hk, (sending_eq_false_iff _).mpr hfree, refusal]

/-! ## A good frame (R182, R184) -/

/-- The last byte of a good frame takes it, with the receiver IDLE. -/
theorem receiveByte_last {l : Link} {n code hi lo : Byte} {payload : List Byte} {s : State}
    (h : (s.port l).receiver = .receiving (n :: code :: payload ++ [hi])) (hn : n.toNat = payload.length) (hmost : payload.length ≤ 120)
    (hcheck : [hi, lo] = halfBytes (crc16 (n :: code :: payload))) :
    receiveByte l lo true s = takeFrame l code payload (s.setPort l { s.port l with receiver := .idle, gap := 0 }) := by
  have hbytes : n :: code :: payload ++ [hi] ++ [lo] = n :: code :: (payload ++ [hi, lo]) := by simp
  rw [receiveByte_receiving h, hbytes, receiveNext_of_last (hn ▸ hmost) (by simp [hn]), completeFrame_eq, hn,
    List.take_left, List.drop_left, if_pos hcheck, setReceiver_idle]

theorem takeFrame_unknown {l : Link} {code : Byte} (payload : List Byte) (s : State) (h : knownCode code = false) :
    takeFrame l code payload s = answer l ⟨.badCommand, .empty⟩ s := by simp [takeFrame, h, refusal]

theorem takeFrame_command {l : Link} {code : Byte} {payload : List Byte} {c : Instr} (s : State) (h : knownCode code = true)
    (hc : parsePayload l code payload = some c) : takeFrame l code payload s = runCommand c s := by simp [takeFrame, h, hc]

theorem takeFrame_badLength {l : Link} {code : Byte} {payload : List Byte} (s : State) (h : knownCode code = true)
    (hc : parsePayload l code payload = none) : takeFrame l code payload s =
      refuseFrame l code payload (if permitted l code then .badCommand else .notPermitted) s := by
  simp [takeFrame, h, hc]

/-- A frame of a known code and a right length does what its command's row does. -/
theorem takeFrame_eq_exec {l : Link} {code : Byte} {payload : List Byte} {c : Instr} {s : State} (hheld : s.resetHeld = false)
    (h : knownCode code = true) (hc : parsePayload l code payload = some c) : .next (takeFrame l code payload s) = exec c s := by
  rw [takeFrame_command s h hc, exec_eq_runCommand (linkOf_of_parsePayload h hc), event_of_not_held hheld]

/-- Settles O5: the codes and the lengths by their tables; each check by the branch of the frame that makes it. -/
theorem frameChecks : Obligations.FrameChecks := by
  refine ⟨fun k => ⟨?_, ?_, knownCode_iff k⟩, fun c l code s hl hc hp hr => exec_of_notPermitted hl hc hp hr,
    fun l code s hk hr => exec_unknownCommandCode hk hr, fun l code payload hk => isSome_parsePayload_iff hk, ?_,
    fun c l code b s hl hc hp hb hr hfit => exec_of_noBay hl hc hp hb hr hfit,
    fun c l s hl hheld hbusy => exec_of_sending hl hheld hbusy⟩
  · simp only [permitted_dispatch_iff, List.mem_cons, List.not_mem_nil, or_false]; omega
  · simp only [permitted_workshop_iff, List.mem_cons, List.not_mem_nil, or_false]; omega
  · intro l n code hi lo payload s hr hrec hn hmost hcheck t taken
    have hheld : t.resetHeld = false := by simp [t, hr.1]
    have htaken : taken = .next (takeFrame l code payload t) := by
      rw [← receiveByte_last hrec hn hmost hcheck]; exact exec_linkByteReceived hr.1
    refine ⟨fun hk => ?_, fun c hk hc => ?_, fun hk hc => ?_⟩
    · rw [htaken, takeFrame_unknown payload t hk]
    · rw [htaken, takeFrame_eq_exec hheld hk hc]
    · intro st
      refine ⟨fun hcode => ?_, fun hcode => ?_⟩
      · rw [htaken, takeFrame_badLength t hk hc, refuseFrame, clearanceCode, if_neg hcode]
        rfl
      · have hchoices : t.choices = s.choices := by simp only [t]; cases l <;> rfl
        refine ⟨(clearanceRef payload (Config.openRef (t.choices + 1))).toNat, Config.openReasons t.choices, ?_, clearanceRef_of_two_le _⟩
        rw [htaken, takeFrame_badLength t hk hc, refuseFrame, clearanceCode, if_pos hcode, ← hchoices]
        rfl

/-! ## Payloads are read back (11, Command payloads) -/

theorem half_toNat (hi lo : Byte) : (half hi lo).toNat = 256 * hi.toNat + lo.toNat := by
  rw [half, BitVec.toNat_append, ← Nat.shiftLeft_add_eq_or_of_lt lo.isLt, Nat.shiftLeft_eq, Nat.mul_comm]

theorem highByte_toNat (h : Half) : (h.extractLsb' 8 8).toNat = h.toNat / 256 := by
  simp only [BitVec.extractLsb'_toNat, Nat.shiftRight_eq_div_pow]; omega

theorem lowByte_toNat (h : Half) : (h.extractLsb' 0 8).toNat = h.toNat % 256 := by simp

theorem half_halfBytes (h : Half) : half (h.extractLsb' 8 8) (h.extractLsb' 0 8) = h := by
  refine BitVec.eq_of_toNat_eq ?_
  rw [half_toNat, highByte_toNat, lowByte_toNat]
  omega

theorem getElem_flagBit {α : Type} (v : Option α) (i j : Nat) (hj : j < 8) : (flagBit i v)[j] = (v.isSome && decide (i = j)) := by
  cases v with
  | none => simp [flagBit]
  | some x =>
    simp only [flagBit, Option.isSome_some, if_true, BitVec.getElem_shiftLeft, Bool.true_and]
    by_cases hij : j < i
    · simp [hij, Nat.ne_of_gt hij]
    · simp [hij]; omega

/-- A carried field is read where its flag is set, and else is absent. -/
theorem carried_getD {α : Type} {f : Byte} {i : Nat} {v : Option α} (d : α) (h : f.getLsbD i = v.isSome) : carried f i (v.getD d) = v := by
  cases v <;> simp [carried, h]

theorem carried_optionalHalf {f : Byte} {i : Nat} {v : Option Half} (h : f.getLsbD i = v.isSome) :
    carried f i (half ((v.getD 0#16).extractLsb' 8 8) ((v.getD 0#16).extractLsb' 0 8)) = v := by
  rw [half_halfBytes, carried_getD _ h]

theorem parseCircuits_circuitBytes (cs : List CircuitArgs) : parseCircuits (circuitBytes cs) = some cs := by
  induction cs with
  | nil => rfl
  | cons c cs ih =>
    have hrest : parseCircuits (circuitBytes (c :: cs)) = (parseCircuits (circuitBytes cs)).map fun cs =>
        ⟨c.circuit, half (c.minimum.extractLsb' 8 8) (c.minimum.extractLsb' 0 8),
          half (c.maximum.extractLsb' 8 8) (c.maximum.extractLsb' 0 8), c.action⟩ :: cs := rfl
    rw [hrest, ih, half_halfBytes, half_halfBytes]
    rfl

theorem length_circuitBytes (cs : List CircuitArgs) : (circuitBytes cs).length = 6 * cs.length := by
  induction cs with
  | nil => rfl
  | cons c cs ih => simp only [circuitBytes, List.flatMap_cons, List.length_append, halfBytes] at ih ⊢; simp; omega

/-- AMEND's eight bytes of fields; the two behind them are ignored (log 33). -/
theorem parsePayload_amend (l : Link) (a : AmendArgs) : parsePayload l 0x19#8 (payloadOf (.amend l a)) = some (.amend l a) := by
  obtain ⟨r, m, t, ld⟩ := a
  obtain ⟨t1, t0, hbytes, hset⟩ : ∃ t1 t0, targetBytes t = [t1, t0] ∧ ∀ x, t = .set x → half t1 t0 = x := by
    cases t with
    | set x => exact ⟨_, _, rfl, fun y h => by cases h; exact half_halfBytes x⟩
    | keep => exact ⟨_, _, rfl, fun y h => by cases h⟩
    | remove => exact ⟨_, _, rfl, fun y h => by cases h⟩
  let f := flagBit 0 m ||| targetFlags t ||| flagBit 3 ld
  have hminute : f.getLsbD 0 = m.isSome := by cases t <;> simp [f, getElem_flagBit, targetFlags]
  have hlead : f.getLsbD 3 = ld.isSome := by cases t <;> simp [f, getElem_flagBit, targetFlags]
  have htarget : (if f.getLsbD 2 then TargetChange.remove else if f.getLsbD 1 then .set (half t1 t0) else .keep) = t := by
    cases t with
    | set x => simp [f, getElem_flagBit, targetFlags, hset x rfl]
    | keep => simp [f, getElem_flagBit, targetFlags]
    | remove => simp [f, getElem_flagBit, targetFlags]
  have hpayload : payloadOf (.amend l ⟨r, m, t, ld⟩) = [r.extractLsb' 8 8, r.extractLsb' 0 8, f, (m.getD 0#16).extractLsb' 8 8,
      (m.getD 0#16).extractLsb' 0 8, t1, t0, ld.getD 0#8, 0#8, 0#8] := by
    rw [payloadOf, hbytes]; rfl
  calc parsePayload l 0x19#8 (payloadOf (.amend l ⟨r, m, t, ld⟩))
    _ = some (.amend l ⟨half (r.extractLsb' 8 8) (r.extractLsb' 0 8),
          carried f 0 (half ((m.getD 0#16).extractLsb' 8 8) ((m.getD 0#16).extractLsb' 0 8)),
          if f.getLsbD 2 then .remove else if f.getLsbD 1 then .set (half t1 t0) else .keep, carried f 3 (ld.getD 0#8)⟩) := by
      rw [hpayload]; rfl
    _ = some (.amend l ⟨r, m, t, ld⟩) := by rw [half_halfBytes, carried_optionalHalf hminute, htarget, carried_getD _ hlead]

/-- 11: a well-formed command's payload is read back as the command. -/
theorem parsePayload_payloadOf {c : Instr} {l : Link} {code : Byte} (hl : linkOf c = some l) (hc : codeOf c = some code)
    (hwf : c.wf = true) : parsePayload l code (payloadOf c) = some c := by
  cases c with
  | setClock _ m s => cases hl; cases hc; exact congrArg (fun h => some (Instr.setClock l h s)) (half_halfBytes m)
  | setWeather _ t => cases hl; cases hc; exact congrArg (fun h => some (Instr.setWeather l h)) (half_halfBytes t)
  | setFeedLimits _ a =>
    cases hl; cases hc
    refine congrArg (fun x => some (Instr.setFeedLimits l x)) ?_
    obtain ⟨t, f0, f1, f2, f3⟩ := a
    simp only [FeedLimitArgs.mk.injEq]
    refine ⟨?_, ?_, ?_, ?_, ?_⟩ <;> exact carried_getD _ (by simp [getElem_flagBit])
  | setPlanner _ a =>
    cases hl; cases hc
    refine congrArg (fun x => some (Instr.setPlanner l x)) ?_
    obtain ⟨sl, rm, ff, t, d⟩ := a
    simp only [PlannerArgs.mk.injEq]
    refine ⟨carried_getD _ ?_, carried_getD _ ?_, carried_optionalHalf ?_, carried_optionalHalf ?_, carried_optionalHalf ?_⟩ <;>
      simp [getElem_flagBit]
  | setLampFreshness _ m => cases hl; cases hc; exact congrArg (fun h => some (Instr.setLampFreshness l h)) (half_halfBytes m)
  | book _ a =>
    cases hl; cases hc
    refine congrArg (fun x => some (Instr.book l x)) ?_
    obtain ⟨r, m, co, t, ld⟩ := a
    simp only [BookArgs.mk.injEq]
    refine ⟨half_halfBytes r, half_halfBytes m, carried_optionalHalf ?_, carried_optionalHalf ?_, carried_getD _ ?_⟩ <;>
      simp [getElem_flagBit]
  | amend _ a => cases hl; cases hc; exact parsePayload_amend l a
  | assignCoach _ r c =>
    cases hl; cases hc
    exact congrArg₂ (fun x y => some (Instr.assignCoach l x y)) (half_halfBytes r) (half_halfBytes c)
  | cancel _ r => cases hl; cases hc; exact congrArg (fun h => some (Instr.cancel l h)) (half_halfBytes r)
  | requestClearance _ r cold =>
    cases hl; cases hc
    exact congrArg₂ (fun x y => some (Instr.requestClearance l x y)) (half_halfBytes r) (by cases cold <;> rfl)
  | withdrawClearance _ r => cases hl; cases hc; exact congrArg (fun h => some (Instr.withdrawClearance l h)) (half_halfBytes r)
  | writeClass _ a =>
    cases hl; cases hc
    show (parseCircuits (circuitBytes a.circuits)).map _ = _
    rw [parseCircuits_circuitBytes]
    refine congrArg (fun x => some (Instr.writeClass l x)) ?_
    obtain ⟨c, u, k, g, t, auto, cs⟩ := a
    simp only [half_halfBytes, ClassArgs.mk.injEq, true_and, and_true]
    cases auto <;> rfl
  | writeRule _ i a =>
    cases hl; cases hc
    cases a with
    | unused => rfl
    | use low high x =>
      exact congrArg₂ (fun p q => some (Instr.writeRule l i (.use p q x))) (half_halfBytes low) (half_halfBytes high)
  | acknowledge _ i => cases hl; cases hc; exact congrArg (fun h => some (Instr.acknowledge l h)) (half_halfBytes i)
  | defer _ i m =>
    cases hl; cases hc; exact congrArg₂ (fun x y => some (Instr.defer l x y)) (half_halfBytes i) (half_halfBytes m)
  | closeDefect _ i => cases hl; cases hc; exact congrArg (fun h => some (Instr.closeDefect l h)) (half_halfBytes i)
  | enterDefect _ b c x => cases hl; cases hc; exact congrArg (fun h => some (Instr.enterDefect l b h x)) (half_halfBytes c)
  | readDeparture _ sel =>
    cases hl; cases hc
    cases sel with
    | byRef r => exact congrArg (fun h => some (Instr.readDeparture l (.byRef h))) (half_halfBytes r)
    | byPosition p => exact congrArg (fun h => some (Instr.readDeparture l (.byPosition h))) (half_halfBytes p)
  | readChain _ sel =>
    cases hl; cases hc
    cases sel with
    | summary => rfl
    | fromPosition p =>
      have hp : p ≠ 255#8 := by simpa [Instr.wf] using hwf
      exact congrArg (fun x => some (Instr.readChain l x)) (if_neg hp)
  | _ => cases hl <;> cases hc <;> rfl

theorem length_halfBytes (h : Half) : (halfBytes h).length = 2 := rfl

/-- 11: a well-formed command's payload is at most 120 bytes. -/
theorem length_payloadOf_le {c : Instr} (hwf : c.wf = true) : (payloadOf c).length ≤ 120 := by
  cases c with
  | writeClass _ a =>
    have hcircuits : a.circuits.length ≤ 18 := by simpa [Instr.wf] using hwf
    simp only [payloadOf, List.length_append, length_halfBytes, length_circuitBytes, List.length_cons, List.length_nil]
    omega
  | amend _ a =>
    have : (targetBytes a.target).length = 2 := by cases a.target <;> rfl
    simp [payloadOf, length_halfBytes, optionalHalf, this]
  | writeRule _ _ a => cases a <;> simp [payloadOf, length_halfBytes]
  | readDeparture _ sel => cases sel <;> simp [payloadOf, length_halfBytes]
  | readChain _ sel => cases sel <;> simp [payloadOf]
  | _ => simp [payloadOf, length_halfBytes, optionalHalf]

/-! ## A frame, byte by byte -/

theorem Core.run_succ {M : Host.Core} {k : Nat} {s t : M.State} (h : M.step s = .next t) : M.run (k + 1) s = M.run k t := by
  simp only [Host.Core.run, h]

theorem Core.run_one (M : Host.Core) (s : M.State) : M.run 1 s = M.step s := by
  cases h : M.step s <;> simp only [Host.Core.run, h]

theorem Core.run_append {M : Host.Core} {j k : Nat} {s t : M.State} (h : M.run j s = .next t) : M.run (j + k) s = M.run k t := by
  induction j generalizing s with
  | zero => cases h; rw [Nat.zero_add]
  | succ j ih =>
    cases hs : M.step s with
    | next u =>
      rw [Core.run_succ hs] at h
      rw [Nat.add_right_comm, Core.run_succ hs, ih h]
    | fault r => simp only [Host.Core.run, hs] at h; cases h
    | refused r => simp only [Host.Core.run, hs] at h; cases h

theorem run_succ {k : Nat} {s t : State} (h : step s = .next t) : core.run (k + 1) s = core.run k t := Core.run_succ (M := core) h

/-- The bytes of a line, waiting as events. -/
def asEvents (l : Link) (bs : List Byte) : List Instr := bs.map fun x => .linkByteReceived l x true

theorem setReceiver_pending (l : Link) (r : Receiver) (s : State) (q : List Instr) :
    ({ setReceiver l r s with pending := q } : State) = setReceiver l r { s with pending := q } := by cases l <;> rfl

theorem port_setReceiver (l : Link) (r : Receiver) (s : State) : ((setReceiver l r s).port l).receiver = r := by simp [setReceiver]

theorem setReceiver_setReceiver (l : Link) (r r' : Receiver) (s : State) : setReceiver l r (setReceiver l r' s) = setReceiver l r s := by
  simp [setReceiver, updPort_eq_setPort]

/-- A step takes the byte at the front of the queue. -/
theorem step_byte {l : Link} {x : Byte} {q : List Instr} {r : Receiver} {s : State} (hheld : s.resetHeld = false) :
    step (setReceiver l r { s with pending := .linkByteReceived l x true :: q })
      = .next (receiveByte l x true (setReceiver l r { s with pending := q })) := by
  have hheld' : (setReceiver l r { s with pending := q }).resetHeld = false := by rwa [setReceiver, updPort_resetHeld]
  rw [step_of_front (c := .linkByteReceived l x true) (rest := q) (by rw [setReceiver, updPort_pending]), setReceiver_pending]
  exact exec_linkByteReceived hheld'

/-- A byte that is not the frame's last joins those received. -/
theorem receiveByte_more {l : Link} {n x : Byte} {ds : List Byte} {s : State} (hn : n.toNat ≤ 120) (hlen : ds.length + 2 < n.toNat + 4) :
    receiveByte l x true (setReceiver l (.receiving (n :: ds)) s) = setReceiver l (.receiving (n :: (ds ++ [x]))) s := by
  rw [receiveByte_receiving (port_setReceiver ..), List.cons_append, receiveNext_of_more hn (by simp; omega),
    ← setReceiver_of_ne (by simp), setReceiver_setReceiver]

/-- The bytes behind the length byte, up to the last, only gather. -/
theorem run_gather {l : Link} {n : Byte} {s : State} (hheld : s.resetHeld = false) (hn : n.toNat ≤ 120) (q : List Instr)
    (bs ds : List Byte) (hlen : ds.length + bs.length + 1 < n.toNat + 4) :
    core.run bs.length (setReceiver l (.receiving (n :: ds)) { s with pending := asEvents l bs ++ q })
      = .next (setReceiver l (.receiving (n :: (ds ++ bs))) { s with pending := q }) := by
  induction bs generalizing ds with
  | nil => rw [List.append_nil]; rfl
  | cons x bs ih =>
    simp only [List.length_cons] at hlen
    have hstep := step_byte (l := l) (x := x) (q := asEvents l bs ++ q) (r := .receiving (n :: ds)) hheld
    rw [receiveByte_more hn (by omega)] at hstep
    refine (run_succ hstep).trans ?_
    simpa using ih (ds ++ [x]) (by simp; omega)

/-- The sync byte and the length byte begin a frame. -/
theorem step_sync {l : Link} {s : State} (hr : s.ready l) (h : (s.port l).receiver = .idle) (q : List Instr) :
    step { s with pending := .linkByteReceived l 0xC3#8 true :: q } = .next (setReceiver l (.receiving []) { s with pending := q }) := by
  obtain ⟨hheld, hfree⟩ := hr
  have hport : ({ s with pending := q } : State).port l = s.port l := by cases l <;> rfl
  rw [step_of_front rfl]
  refine (exec_linkByteReceived (s := { s with pending := q }) hheld).trans ?_
  rw [receiveByte_sync (by rw [hport, h]), hport, (sending_eq_false_iff _).mpr hfree]
  rfl

theorem step_length {l : Link} {n : Byte} {s : State} (hheld : s.resetHeld = false) (hn : n.toNat ≤ 120) (q : List Instr) :
    step (setReceiver l (.receiving []) { s with pending := .linkByteReceived l n true :: q })
      = .next (setReceiver l (.receiving [n]) { s with pending := q }) := by
  rw [step_byte hheld, receiveByte_receiving (port_setReceiver ..), List.nil_append, receiveNext_of_more hn (by simp),
    ← setReceiver_of_ne (by simp), setReceiver_setReceiver]

/-- The last byte of a good frame takes it. -/
theorem step_last {l : Link} {n code hi lo : Byte} {payload : List Byte} {s : State} (hheld : s.resetHeld = false)
    (hn : n.toNat = payload.length) (hmost : payload.length ≤ 120) (hcheck : [hi, lo] = halfBytes (crc16 (n :: code :: payload)))
    (q : List Instr) :
    step (setReceiver l (.receiving (n :: (code :: payload ++ [hi]))) { s with pending := .linkByteReceived l lo true :: q })
      = .next (takeFrame l code payload (setReceiver l .idle { s with pending := q })) := by
  have hreceived : ((setReceiver l (.receiving (n :: (code :: payload ++ [hi]))) { s with pending := q }).port l).receiver
      = .receiving (n :: code :: payload ++ [hi]) := port_setReceiver ..
  rw [step_byte hheld, receiveByte_last hreceived hn hmost hcheck, ← setReceiver_idle, setReceiver_setReceiver]

/-- The bytes of a good frame, one step each, take it. -/
theorem run_frame {l : Link} {code : Byte} {payload : List Byte} {s : State} (hr : s.ready l) (h : (s.port l).receiver = .idle)
    (hmost : payload.length ≤ 120) (q : List Instr) :
    core.run (frameBytes code payload).length { s with pending := asEvents l (frameBytes code payload) ++ q }
      = .next (takeFrame l code payload (setReceiver l .idle { s with pending := q })) := by
  let n : Byte := BitVec.ofNat 8 payload.length
  let hi := (crc16 (n :: code :: payload)).extractLsb' 8 8
  let lo := (crc16 (n :: code :: payload)).extractLsb' 0 8
  have hn : n.toNat = payload.length := by simp only [n, BitVec.toNat_ofNat]; omega
  have hframe : frameBytes code payload = 0xC3#8 :: n :: ((code :: payload ++ [hi]) ++ [lo]) := by
    simp [frameBytes, syncByte, halfBytes, n, hi, lo]
  have hlength : (frameBytes code payload).length = ((code :: payload ++ [hi]).length + 1) + 1 + 1 := by rw [hframe]; simp
  have hevents : asEvents l (frameBytes code payload) ++ q = .linkByteReceived l 0xC3#8 true :: .linkByteReceived l n true ::
      (asEvents l (code :: payload ++ [hi]) ++ .linkByteReceived l lo true :: q) := by
    rw [hframe]; simp [asEvents]
  have hgather := run_gather (l := l) hr.1 (hn ▸ hmost) (.linkByteReceived l lo true :: q) (code :: payload ++ [hi]) []
    (by simp [hn])
  rw [hlength, hevents]
  rw [run_succ (step_sync hr h _), run_succ (step_length hr.1 (hn ▸ hmost) _)]
  exact (Core.run_append (M := core) hgather).trans ((Core.run_one core _).trans (step_last hr.1 hn hmost rfl q))

/-- Settles O9: the frame's bytes take the frame, and the frame is the command's row. -/
theorem frameRunsItsCommand : Obligations.FrameRunsItsCommand := by
  intro c l code rest s hl hc hwf hr h
  have hheld : (setReceiver l .idle { s with pending := rest }).resetHeld = false := by rw [setReceiver, updPort_resetHeld]; exact hr.1
  rw [← takeFrame_eq_exec hheld (knownCode_codeOf hc) (parsePayload_payloadOf hl hc hwf)]
  exact run_frame hr h (length_payloadOf_le hwf) rest

/-! ## Masks and flags (R76, R77, R188) -/

theorem exec_setNoticeMask_of_ready {l : Link} {kinds : Byte} {s : State} (hr : s.ready l) : exec (.setNoticeMask l kinds) s =
    .next (answer l (ruleSetNoticeMask l kinds s).2 (ruleSetNoticeMask l kinds s).1) :=
  event_takeCommand_of_ready _ hr (by cases l <;> decide) (by simp)

theorem exec_setPlannerEnables_of_ready {l : Link} {causes : Byte} {s : State} (hr : s.ready l) : exec (.setPlannerEnables l causes) s =
    .next (answer l (ruleSetPlannerEnables l causes s).2 (ruleSetPlannerEnables l causes s).1) :=
  event_takeCommand_of_ready _ hr (by cases l <;> decide) (by simp)

theorem exec_clearPlannerFlags_of_ready {l : Link} {s : State} (hr : s.ready l) : exec (.clearPlannerFlags l) s =
    .next (answer l (ruleClearPlannerFlags s).2 (ruleClearPlannerFlags s).1) :=
  event_takeCommand_of_ready _ hr (by cases l <;> decide) (by simp)

/-- R77: the bits above the six causes are what makes a byte of 64 or more. -/
theorem highBits_iff (b : Byte) : (b.getLsbD 6 || b.getLsbD 7) = true ↔ 64 ≤ b.toNat := by
  revert b; decide

/-- A set meets the bit of a kind when it holds the kind. -/
def NoticeKind.index : NoticeKind → Nat
  | .start => 0 | .bay => 1 | .departure => 2 | .clearance => 3 | .defect => 4 | .lamp => 5 | .post => 6 | .planner => 7

theorem and_bit_ne_zero_iff (a : KindSet) (k : NoticeKind) : a &&& k.bit ≠ 0#8 ↔ a.getLsbD k.index = true := by
  revert a; cases k <;> decide

theorem exists_index_iff (p : Nat → Prop) : (∃ k : NoticeKind, p k.index) ↔ ∃ i < 8, p i := by
  constructor
  · rintro ⟨k, h⟩; exact ⟨k.index, by cases k <;> decide, h⟩
  · rintro ⟨i, hi, h⟩
    have hkind : ∃ k : NoticeKind, k.index = i := by
      interval_cases i
      exacts [⟨.start, rfl⟩, ⟨.bay, rfl⟩, ⟨.departure, rfl⟩, ⟨.clearance, rfl⟩, ⟨.defect, rfl⟩, ⟨.lamp, rfl⟩, ⟨.post, rfl⟩, ⟨.planner, rfl⟩]
    obtain ⟨k, rfl⟩ := hkind
    exact ⟨k, h⟩

/-- R188: two sets of kinds meet in the bit of some kind. -/
theorem kinds_meet_iff (a b : KindSet) : a &&& b ≠ 0#8 ↔ ∃ k : NoticeKind, a &&& k.bit ≠ 0#8 ∧ b &&& k.bit ≠ 0#8 := by
  simp only [and_bit_ne_zero_iff]
  rw [exists_index_iff fun i => a.getLsbD i = true ∧ b.getLsbD i = true]
  constructor
  · intro h
    by_contra hno
    refine h (BitVec.eq_of_getLsbD_eq fun i hi => ?_)
    rw [BitVec.getLsbD_and, BitVec.getLsbD_zero, Bool.and_eq_false_imp]
    intro ha
    by_contra hb
    exact hno ⟨i, hi, ha, by simpa using hb⟩
  · rintro ⟨i, -, ha, hb⟩ h
    have := congrArg (·.getLsbD i) h
    simp [ha, hb] at this

/-- Settles O11: the line by the bits of the kinds; each command by its rule. -/
theorem masksAndFlags : Obligations.MasksAndFlags := by
  intro l s
  refine ⟨?_, fun hr => ⟨fun kinds => exec_setNoticeMask_of_ready hr, fun causes h => ?_, fun causes h => ?_, exec_clearPlannerFlags_of_ready hr⟩⟩
  · rw [← kinds_meet_iff]
    cases hheld : s.resetHeld with
    | true => simp [State.attention, hheld]
    | false => simp [attention_of_not_held hheld]
  · have hlow : ¬ (causes.getLsbD 6 || causes.getLsbD 7) = true := by rw [highBits_iff]; omega
    rw [exec_setPlannerEnables_of_ready hr, ruleSetPlannerEnables, if_neg hlow]; rfl
  · rw [exec_setPlannerEnables_of_ready hr, ruleSetPlannerEnables, if_pos ((highBits_iff causes).mpr h)]; rfl

/-! ## Reply layouts (11, Layouts), field by field -/

theorem byteOf_toNat (n : Nat) : (byteOf n).toNat = n % 256 := BitVec.toNat_ofNat ..

/-- The two bytes of a field, most significant first, are its number. -/
theorem halfBytes_toNat (h : Half) : 256 * (h.extractLsb' 8 8).toNat + (h.extractLsb' 0 8).toNat = h.toNat := by
  rw [highByte_toNat, lowByte_toNat]; omega

theorem wordOf_toNat (n : Nat) :
    256 * ((BitVec.ofNat 16 n).extractLsb' 8 8).toNat + ((BitVec.ofNat 16 n).extractLsb' 0 8).toNat = n % 65536 := by
  rw [halfBytes_toNat, BitVec.toNat_ofNat]

/-- The word of an optional temperature, 0x8000 when absent. -/
def temperatureWord : Option Int → Half
  | some t => BitVec.ofInt 16 t
  | none => 0x8000#16

theorem temperatureBytes_eq (t : Option Int) : temperatureBytes t = halfBytes (temperatureWord t) := by cases t <;> rfl

theorem temperatureWord_toNat (t : Option Int) : (temperatureWord t).toNat = t.elim 0x8000 fun v => (v % 65536).toNat := by
  cases t with
  | none => rfl
  | some t => simp [temperatureWord, BitVec.toNat_ofInt]

theorem flagsByte_toNat (a b c d e f g h : Bool) : (flagsByte [a, b, c, d, e, f, g, h]).toNat =
    a.toNat + 2 * b.toNat + 4 * c.toNat + 8 * d.toNat + 16 * e.toNat + 32 * f.toNat + 64 * g.toNat + 128 * h.toNat := by
  revert a b c d e f g h; decide

theorem feederByte_toNat (n : Fin 4) (a b c d e f : Bool) : (byteOf n.val ||| flagsByte [false, false, a, b, c, d, e, f]).toNat =
    n.val + 4 * a.toNat + 8 * b.toNat + 16 * c.toNat + 32 * d.toNat + 64 * e.toNat + 128 * f.toNat := by
  revert n a b c d e f; decide

theorem optionalByte_toNat (n : Nat) (v : Option Nat) (hn : n < 256) : (optionalByte n v).toNat = v.elim n (· % 256) := by
  cases v with
  | none => simpa [optionalByte, byteOf_toNat] using hn
  | some x => exact byteOf_toNat x

/-- The bytes of a lamp outcome and its age. -/
def lampByte (x : Option (LampOutcome × Nat)) : Byte := x.elim 0#8 (·.1.byte)
def lampWord (x : Option (LampOutcome × Nat)) : Half := x.elim 0#16 fun y => BitVec.ofNat 16 y.2

/-- The word of a cabin temperature's age, free when the temperature is absent (log 34). -/
def ageWord (c : Option Cabin) : Half := c.elim (Config.openField 0) fun c => BitVec.ofNat 16 c.age

theorem bayView_bytes (v : BayView) : v.bytes =
    [byteOf v.bay.val, v.state.byte,
      flagsByte [v.occupied, v.plug, v.link, v.current, v.hold, v.conflict, v.unconfirmed, v.heatingOn]]
    ++ halfBytes (BitVec.ofNat 16 (v.coach.getD 0)) ++ [optionalByte 255 (v.cls.map (·.val))]
    ++ halfBytes (temperatureWord (v.cabin.map (·.temperature))) ++ halfBytes (ageWord v.cabin) ++ halfBytes (temperatureWord v.cabinAtUnplug)
    ++ [byteOf v.feeder.val ||| flagsByte [false, false, v.silent, v.underTest, v.readSince, v.marks.fault, v.marks.lamp, v.marks.post],
      v.signal.byte]
    ++ halfBytes (BitVec.ofNat 16 (v.boundRef.getD 0)) ++ lampByte v.lamp :: halfBytes (lampWord v.lamp)
    ++ [v.plan.causes.setWidth 8, byteOf v.plan.turns, byteOf v.missed, byteOf v.dropped] := by
  rw [BayView.bytes, temperatureBytes_eq, temperatureBytes_eq]
  cases v.cabin <;> cases v.lamp <;> rfl

/-- The word of the reasons, its top bit set when there are any. -/
def reasonsWord (r : Option ReasonSet) : Half := r.elim 0#16 fun rs => 0x8000#16 ||| rs.setWidth 16

theorem reasonsWord_toNat (r : Option ReasonSet) : (reasonsWord r).toNat = r.elim 0 fun rs => 0x8000 + rs.toNat := by
  cases r with
  | none => rfl
  | some rs =>
    have hlt : rs.toNat < 2 ^ 15 := by omega
    have hwide : (rs.setWidth 16).toNat = rs.toNat := BitVec.toNat_setWidth_of_le (by omega)
    show (0x8000#16 ||| rs.setWidth 16).toNat = 0x8000 + rs.toNat
    rw [BitVec.toNat_or, hwide]
    exact (Nat.shiftLeft_add_eq_or_of_lt hlt 1).symm

theorem departureView_bytes (v : DepartureView) : v.bytes =
    halfBytes (BitVec.ofNat 16 v.ref) ++ halfBytes (BitVec.ofNat 16 v.minute) ++ halfBytes (BitVec.ofNat 16 (v.coach.getD 0))
    ++ halfBytes (temperatureWord v.target) ++ [byteOf v.lead, v.state.byte, optionalByte 255 (v.bay.map (·.val))]
    ++ halfBytes (BitVec.ofNat 16 (v.overdue.getD 0)) ++ halfBytes (BitVec.ofNat 16 v.ahead) ++ [byteOf v.position]
    ++ halfBytes (reasonsWord v.reasons) ++ [if v.cold then 1#8 else 0#8, byteOf v.timer] := by
  rw [DepartureView.bytes, temperatureBytes_eq]
  cases v.reasons <;> rfl

/-- A number that may be absent, of bays or classes, which are far below 255. -/
theorem optionalByte_fin {n : Nat} (v : Option (Fin n)) (hn : n ≤ 256) : (optionalByte 255 (v.map (·.val))).toNat = v.elim 255 (·.val) := by
  rw [optionalByte_toNat _ _ (by decide)]
  cases v with
  | none => rfl
  | some x => exact Nat.mod_eq_of_lt (lt_of_lt_of_le x.isLt hn)

/-- The bytes of a defect's state, presence and detail. -/
def stateByte : DefectState → Byte
  | .opened => 0#8
  | .acknowledged => 1#8
  | .deferred _ => 2#8

def minutesOf : DefectState → Nat
  | .deferred minutes => minutes
  | .opened | .acknowledged => 0

def presentByte : Option Bool → Byte
  | some false => 0#8
  | some true => 1#8
  | none => 255#8

def detailByte (x : Option LampDetail) : Byte := x.elim 0#8 fun x => if x.high then 2#8 else 1#8
def detailWord (x : Option LampDetail) : Half := x.elim 0#16 fun x => BitVec.ofNat 16 x.current

theorem defectView_bytes (d : DefectView) : d.bytes =
    halfBytes (BitVec.ofNat 16 d.id) ++ [d.source.byte] ++ halfBytes (BitVec.ofNat 16 d.code)
    ++ [d.action.byte, stateByte d.state, presentByte d.present, byteOf d.count, optionalByte 255 d.severity]
    ++ detailByte d.detail :: halfBytes (detailWord d.detail) ++ halfBytes (BitVec.ofNat 16 d.age)
    ++ halfBytes (BitVec.ofNat 16 (minutesOf d.state)) := by
  unfold DefectView.bytes
  cases d.detail <;> cases d.state <;> rcases d.present with _ | _ | _ <;> rfl

/-- The seven bytes of a last read; its page transactions are free when there was none (log 34). -/
def lastByte (x : Option LastRead) (i : Nat) : Byte :=
  x.elim ([0#8, 0#8, 0#8, 255#8, (Config.openField 1).setWidth 8].getD i 0#8) fun x =>
    (x.outcome.bytes ++ [optionalByte 0 (x.pageZero.map (·.1)), optionalByte 255 (x.pageZero.map (·.2)), byteOf x.transactions]).getD i 0#8

theorem lastByte_outcome (x : LastRead) : (x.outcome, (lastByte (some x) 0).toNat, (lastByte (some x) 1).toNat) ∈
    [(.complete, 1, 0), (.truncated, 2, 0), (.unstable, 3, 0), (.failed .noPlug, 4, 1), (.failed .postSilent, 4, 2),
      (.failed .noCoach, 4, 3), (.failed .harnessFault, 4, 4), (.failed .busFailed, 4, 5), (.failed .plugRemoved, 4, 6)] := by
  obtain ⟨o, _, _, _⟩ := x
  have hfirst : ∀ o : ReadOutcome, (o, (o.bytes.getD 0 0#8).toNat, (o.bytes.getD 1 0#8).toNat) ∈
      [(ReadOutcome.complete, 1, 0), (.truncated, 2, 0), (.unstable, 3, 0), (.failed .noPlug, 4, 1), (.failed .postSilent, 4, 2),
        (.failed .noCoach, 4, 3), (.failed .harnessFault, 4, 4), (.failed .busFailed, 4, 5), (.failed .plugRemoved, 4, 6)] := by
    intro o
    cases o with
    | failed r => cases r <;> decide
    | _ => decide
  cases o <;> exact hfirst _

theorem lastByte_two (x : LastRead) : lastByte (some x) 2 = optionalByte 0 (x.pageZero.map (·.1)) := by
  obtain ⟨o, _, _, _⟩ := x; cases o <;> rfl

theorem lastByte_three (x : LastRead) : lastByte (some x) 3 = optionalByte 255 (x.pageZero.map (·.2)) := by
  obtain ⟨o, _, _, _⟩ := x; cases o <;> rfl

theorem lastByte_four (x : LastRead) : lastByte (some x) 4 = byteOf x.transactions := by
  obtain ⟨o, _, _, _⟩ := x; cases o <;> rfl

def readingByte (x : Option (Nat × Nat)) (i : Nat) : Byte := x.elim 0#8 fun r => [1#8, byteOf r.1, byteOf r.2].getD i 0#8

theorem readView_bytes (v : ReadView) : v.bytes =
    [readingByte v.reading 0, readingByte v.reading 1, readingByte v.reading 2, lastByte v.last 0, lastByte v.last 1, lastByte v.last 2,
      lastByte v.last 3, lastByte v.last 4]
    ++ halfBytes (v.last.elim 0#16 fun x => BitVec.ofNat 16 x.age) ++ halfBytes (BitVec.ofNat 16 (v.countdown.getD 0)) := by
  unfold ReadView.bytes
  cases v.reading with
  | none => cases v.last with
    | none => rfl
    | some x => obtain ⟨o, _, _, _⟩ := x; cases o <;> rfl
  | some r => cases v.last with
    | none => rfl
    | some x => obtain ⟨o, _, _, _⟩ := x; cases o <;> rfl

/-- The three bytes of a bay set. -/
theorem baySet_toNat (b : BaySet) : 65536 * (b.extractLsb' 16 8).toNat + (256 * (b.extractLsb' 8 8).toNat + (b.extractLsb' 0 8).toNat)
    = b.toNat := by
  simp only [BitVec.extractLsb'_toNat, Nat.shiftRight_eq_div_pow]
  omega

theorem marksByte_toNat (m : Marks) : m.byte.toNat = m.fault.toNat + 2 * m.lamp.toNat + 4 * m.post.toNat := by
  obtain ⟨f, l, p⟩ := m
  revert f l p; decide

theorem boolByte_toNat (b : Bool) : (if b then 1#8 else 0#8).toNat = b.toNat := by cases b <;> rfl

theorem causesByte_toNat (c : CauseSet) : (c.setWidth 8).toNat = c.toNat := BitVec.toNat_setWidth_of_le (by omega)

theorem crc16Bit_eq (r : BitVec 16) (bit : Bool) :
    crc16Bit r bit = if r.msb = bit then r <<< 1 else (r <<< 1) ^^^ 0x1021#16 := by
  unfold crc16Bit
  cases r.msb <;> cases bit <;> rfl

theorem byteBits_eq (x : Byte) : byteBits x = [x.getLsbD 7, x.getLsbD 6, x.getLsbD 5, x.getLsbD 4, x.getLsbD 3, x.getLsbD 2, x.getLsbD 1,
    x.getLsbD 0] := by
  simp [byteBits, List.range_succ, BitVec.getMsbD]

/-- Settles O8: every payload by the command it spells; every layout by its bytes written out, each field by the number it holds. -/
theorem payloadsReadBack : Obligations.PayloadsReadBack := by
  unfold Obligations.PayloadsReadBack
  intro temperature number
  refine ⟨fun c l code hl hc hwf => ⟨parsePayload_payloadOf hl hc hwf, length_payloadOf_le hwf⟩,
    ⟨fun code payload h => ⟨BitVec.ofNat 8 payload.length, ?_, rfl⟩, rfl, fun bs x => ?_, fun r bs h => ?_, by decide, rfl⟩,
    fun v => ⟨v.bytes, rfl, ?_⟩, fun v => ⟨v.bytes, rfl, ?_⟩, fun ref rs => ⟨_, rfl, rfl, wordOf_toNat ref, ?_⟩,
    fun b v => ⟨v.bytes, rfl, rfl, ?_⟩, fun v => ?_, fun b held m v es => ⟨_, _, _, rfl, ?_, byteOf_toNat held, marksByte_toNat m⟩,
    fun n => ⟨n.bytes, rfl, rfl, rfl, ?_, boolByte_toNat _⟩, fun m => rfl, fun c => ⟨_, rfl, causesByte_toNat c⟩⟩
  · rw [BitVec.toNat_ofNat]; omega
  · rw [crc16_append, byteBits_eq, funext fun r => funext (crc16Bit_eq r)]
  · rw [Response.frame, h]; rfl
  · rw [bayView_bytes]
    simp only [halfBytes, List.cons_append, List.nil_append]
    refine ⟨rfl, (byteOf_toNat _).trans (by omega), ?_, flagsByte_toNat .., wordOf_toNat _, optionalByte_fin _ (by decide),
      (halfBytes_toNat _).trans (temperatureWord_toNat _), fun c hc => ?_, (halfBytes_toNat _).trans (temperatureWord_toNat _),
      feederByte_toNat .., ?_, wordOf_toNat _, fun hn => ?_, fun o age ho => ⟨?_, ?_⟩, causesByte_toNat _, byteOf_toNat _, byteOf_toNat _,
      byteOf_toNat _⟩
    · show (v.state, v.state.byte.toNat) ∈ _
      cases v.state <;> decide
    · rw [hc]; exact wordOf_toNat _
    · show (v.signal, v.signal.byte.toNat) ∈ _
      cases v.signal <;> decide
    · rw [hn]; exact ⟨rfl, rfl⟩
    · rw [ho]; exact wordOf_toNat _
    · rw [ho]
      show (o, o.byte.toNat) ∈ _ ∨ _
      cases o with
      | incomplete reason => exact .inr ⟨reason, rfl, rfl⟩
      | _ => exact .inl (by decide)
  · rw [departureView_bytes]
    simp only [halfBytes, List.cons_append, List.nil_append]
    refine ⟨rfl, wordOf_toNat _, wordOf_toNat _, wordOf_toNat _, (halfBytes_toNat _).trans (temperatureWord_toNat _), byteOf_toNat _, ?_,
      optionalByte_fin _ (by decide), wordOf_toNat _, wordOf_toNat _, byteOf_toNat _, (halfBytes_toNat _).trans (reasonsWord_toNat _),
      boolByte_toNat _, byteOf_toNat _⟩
    show (v.state, v.state.byte.toNat) ∈ _
    cases v.state <;> decide
  · exact (halfBytes_toNat _).trans (BitVec.toNat_setWidth_of_le (by omega))
  · rw [defectView_bytes]
    simp only [halfBytes, List.cons_append, List.nil_append]
    refine ⟨rfl, wordOf_toNat _, ?_, wordOf_toNat _, ?_, ?_, ?_, byteOf_toNat _, optionalByte_toNat _ _ (by decide), fun hn => ?_,
      fun x hx => ⟨?_, ?_⟩, wordOf_toNat _⟩
    · show (v.source, v.source.byte.toNat) ∈ _
      cases v.source <;> decide
    · show (v.action, v.action.byte.toNat) ∈ _
      cases v.action <;> decide
    · cases hs : v.state with
      | opened => exact .inl (List.Mem.head _)
      | acknowledged => exact .inl (List.Mem.tail _ (List.Mem.head _))
      | deferred minutes => exact .inr ⟨minutes, rfl, rfl, wordOf_toNat _⟩
    · show (v.present, (presentByte v.present).toNat) ∈ _
      rcases v.present with _ | _ | _ <;> decide
    · rw [hn]; exact ⟨rfl, rfl⟩
    · rw [hx]
      show (if x.high then 2#8 else 1#8).toNat = _
      cases x.high <;> rfl
    · rw [hx]; exact wordOf_toNat _
  · rw [readView_bytes]
    simp only [halfBytes, List.cons_append, List.nil_append]
    refine ⟨rfl, fun h => ?_, fun page restarts h => ?_, fun h => ?_, fun x h => ⟨?_, ?_, ?_, ?_, ?_⟩, wordOf_toNat _⟩
    · rw [h]; exact ⟨rfl, rfl, rfl⟩
    · rw [h]; exact ⟨rfl, byteOf_toNat _, byteOf_toNat _⟩
    · rw [h]; exact ⟨rfl, rfl, rfl, rfl, rfl⟩
    · rw [h]; exact lastByte_outcome x
    · rw [h]; exact (congrArg BitVec.toNat (lastByte_two x)).trans (optionalByte_toNat _ _ (by decide))
    · rw [h]; exact (congrArg BitVec.toNat (lastByte_three x)).trans (optionalByte_toNat _ _ (by decide))
    · rw [h]; exact (congrArg BitVec.toNat (lastByte_four x)).trans (byteOf_toNat _)
    · rw [h]; exact wordOf_toNat _
  · exact (byteOf_toNat _).trans (by omega)
  · simp only [List.forall_mem_cons, List.not_mem_nil, false_imp_iff, implies_true, and_true, Notices.bytes, baySetBytes,
      List.cons_append, List.nil_append]
    exact ⟨baySet_toNat n.bay, baySet_toNat n.departure, baySet_toNat n.clearance, baySet_toNat n.defect, baySet_toNat n.lamp,
      baySet_toNat n.post, baySet_toNat n.planner⟩

end Sys2Proof.Machine

/-! PROOF. READ STATUS, READ DEPARTURE LOG and READ CLASS, and the reads of bays, defects, lamp results, the chain and departures: what stands
is answered and nothing changes. -/

namespace Sys2Proof.Machine

/-! ## The reads answer their rule -/

theorem exec_readStatus_of_ready {l : Link} {s : State} (hr : s.ready l) :
    exec (.readStatus l) s = .next (answer l ⟨.ok, .status s.statusView⟩ s) :=
  event_takeCommand_of_ready ruleReadStatus hr (by cases l <;> decide) (by simp)

theorem exec_readDepartureLog_of_ready {index : Byte} {s : State} (hr : s.ready .dispatch) :
    exec (.readDepartureLog .dispatch index) s = .next (answer .dispatch (ruleReadDepartureLog index s).2 s) :=
  event_takeCommand_of_ready (ruleReadDepartureLog index) hr (by decide) (by simp)

theorem exec_readClass_of_ready {l : Link} {cls : Byte} {s : State} (hr : s.ready l) :
    exec (.readClass l cls) s = .next (answer l (ruleReadClass cls s).2 s) :=
  event_takeCommand_of_ready (ruleReadClass cls) hr (by cases l <;> decide) (by simp)

theorem exec_readBay_of_ready {l : Link} {bay : Byte} {s : State} (hr : s.ready l) (hb : s.fits bay) :
    exec (.readBay l bay) s = .next (answer l ⟨.ok, .bay (s.bayView (bayOf bay))⟩ s) :=
  event_takeCommand_of_ready (ruleReadBay (bayOf bay)) hr (by cases l <;> decide) (by simpa using hb)

theorem exec_readDefects_of_ready {l : Link} {bay position : Byte} {s : State} (hr : s.ready l) (hb : s.fits bay) :
    exec (.readDefects l bay position) s = .next (answer l (ruleReadDefects (bayOf bay) position s).2 s) :=
  event_takeCommand_of_ready (ruleReadDefects (bayOf bay) position) hr (by cases l <;> decide) (by simpa using hb)

theorem exec_readLampResult_of_ready {l : Link} {bay : Byte} {s : State} (hr : s.ready l) (hb : s.fits bay) :
    exec (.readLampResult l bay) s = .next (answer l (ruleReadLampResult (bayOf bay) s).2 s) :=
  event_takeCommand_of_ready (ruleReadLampResult (bayOf bay)) hr (by cases l <;> decide) (by simpa using hb)

theorem exec_readChain_of_ready {l : Link} {sel : ChainSelector} {s : State} (hr : s.ready l) :
    exec (.readChain l sel) s = .next (answer l (ruleReadChain sel s).2 s) :=
  event_takeCommand_of_ready (ruleReadChain sel) hr (by cases l <;> decide) (by simp)

theorem exec_readDeparture_of_ready {l : Link} {sel : DepartureSelector} {s : State} (hr : s.ready l) :
    exec (.readDeparture l sel) s = .next (answer l (ruleReadDeparture sel s).2 s) :=
  event_takeCommand_of_ready (ruleReadDeparture sel) hr (by cases l <;> decide) (by simp)

/-! ## READ STATUS, READ DEPARTURE LOG, READ CLASS -/

/-- Settles O12: each of the three reads is its rule, split on the index where it has one. -/
theorem statusLogAndClassRead : Obligations.StatusLogAndClassRead := by
  unfold Obligations.StatusLogAndClassRead
  refine ⟨fun l s hr => exec_readStatus_of_ready hr, fun index s hr => ⟨fun h => ?_, fun h => ?_⟩,
    fun l cls s hr => ⟨fun h => ?_, fun h => ?_⟩⟩
  · rw [exec_readDepartureLog_of_ready hr]
    simp [ruleReadDepartureLog, h, refusal]
  · rw [exec_readDepartureLog_of_ready hr]
    simp [ruleReadDepartureLog, Nat.not_lt.mpr h]
  · rw [exec_readClass_of_ready hr]
    simp [ruleReadClass, refusal, Nat.not_lt.mpr (show 16 ≤ cls.toNat by omega)]
  · rw [exec_readClass_of_ready hr]
    simp [ruleReadClass, h]

/-! ## READ BAY and READ DEFECTS -/

/-- R80: a bay has a member of the on-set when one stands there for it. -/
theorem isSome_member_iff (q : Sequencer) (b : BayNo) : (q.member b).isSome = true ↔ ∃ m ∈ q.onSet, m.bay = b := by
  simp [Sequencer.member]

/-- R103: the bay an engine holds. -/
theorem engine_bay_eq_some_iff (x : Engine) (b : BayNo) : x.bay = some b ↔ x = .releasing b ∨ ∃ t, x = .running t ∧ t.bay = b := by
  cases x <;> simp [Engine.bay]

/-- R103: a bay under test is held by an engine. -/
theorem underTest_iff (s : State) (b : BayNo) :
    s.underTest b = true ↔ ∃ e : EngineNo, s.lamp.engines[e] = .releasing b ∨ ∃ x, s.lamp.engines[e] = .running x ∧ x.bay = b := by
  simp only [State.underTest, List.any_eq_true, Vector.mem_toList_iff, Vector.mem_iff_getElem, beq_iff_eq, engine_bay_eq_some_iff]
  constructor
  · rintro ⟨x, ⟨i, hi, rfl⟩, h⟩
    exact ⟨⟨i, hi⟩, h⟩
  · rintro ⟨e, h⟩
    exact ⟨_, ⟨e.val, e.isLt, rfl⟩, h⟩

/-! ## READ LAMP RESULT -/

theorem engine_testing_eq_some_iff (x : Engine) (b : BayNo) : x.testing = some b ↔ ∃ t, x = .running t ∧ t.bay = b := by
  cases x <;> simp [Engine.testing]

/-- R116: a result is fresh while its age in minutes is at most the setting. -/
theorem lampFresh_iff (s : State) (b : BayNo) :
    s.lampFresh b = true ↔ ∃ x, s.lamp.results[b] = some x ∧ x.age / 60000 ≤ s.lamp.freshness := by
  unfold State.lampFresh
  cases s.lamp.results[b] with
  | none => simp
  | some x =>
    simp only [Option.some.injEq, exists_eq_left']
    exact decide_eq_true_iff

/-- The first index that satisfies p, in a search of the numbers below n. -/
theorem find_finRange_eq_some {n : Nat} {p : Fin n → Bool} {e : Fin n} (he : p e = true) (hmin : ∀ f < e, p f = false) :
    (List.finRange n).find? p = some e := by
  rw [List.find?_eq_some_iff_getElem]
  refine ⟨he, e.val, by simp, by simp, fun j hj => ?_⟩
  simpa using hmin ⟨j, by omega⟩ hj

theorem find_finRange_eq_none {n : Nat} {p : Fin n → Bool} (h : ∀ e, p e = false) : (List.finRange n).find? p = none := by
  simp [h]

/-- R117: a queued test is shown with its level and its place. -/
theorem testView_of_queued {s : State} {b : BayNo} {i : Nat} {q : QueueEntry} (hi : s.lamp.queue[i]? = some q) (hq : q.bay = b)
    (hfirst : ∀ x ∈ s.lamp.queue.take i, x.bay ≠ b) : s.testView b = .queued q.level i := by
  obtain ⟨hlt, hget⟩ := List.getElem?_eq_some_iff.mp hi
  have hbefore : ∀ j (hj : j < i), (s.lamp.queue[j].bay == b) = false := fun j hj => by
    simpa using hfirst _ (List.mem_take_iff_getElem.mpr ⟨j, by omega, rfl⟩)
  have hfind : s.lamp.queue.find? (·.bay == b) = some q := by
    rw [List.find?_eq_some_iff_getElem]
    exact ⟨by simpa using hq, i, hlt, hget, fun j hj => by simpa using hbefore j hj⟩
  have hidx : s.lamp.queue.findIdx (·.bay == b) = i := by
    rw [List.findIdx_eq hlt]
    exact ⟨by simpa [hget] using hq, fun j hj => hbefore j hj⟩
  simp [State.testView, hfind, hidx]

theorem engineTesting_eq_some {s : State} {b : BayNo} {e : EngineNo} {x : RunningTest} (he : s.lamp.engines[e] = .running x)
    (hb : x.bay = b) (hmin : ∀ f < e, ¬ ∃ y, s.lamp.engines[f] = .running y ∧ y.bay = b) : s.engineTesting b = some e :=
  find_finRange_eq_some (by simpa [engine_testing_eq_some_iff] using ⟨x, he, hb⟩)
    fun f hf => by simpa only [beq_eq_false_iff_ne, ne_eq, engine_testing_eq_some_iff] using hmin f hf

theorem engineTesting_eq_none {s : State} {b : BayNo} (h : ∀ e : EngineNo, ¬ ∃ y, s.lamp.engines[e] = .running y ∧ y.bay = b) :
    s.engineTesting b = none :=
  find_finRange_eq_none fun f => by simpa only [beq_eq_false_iff_ne, ne_eq, engine_testing_eq_some_iff] using h f

/-- R117: a bay with no queued test has its running test shown. -/
theorem testView_of_running {s : State} {b : BayNo} {e : EngineNo} {x : RunningTest} (hq : ∀ q ∈ s.lamp.queue, q.bay ≠ b)
    (he : s.lamp.engines[e] = .running x) (hb : x.bay = b)
    (hmin : ∀ f < e, ¬ ∃ y, s.lamp.engines[f] = .running y ∧ y.bay = b) : s.testView b = .running e x.circuit := by
  have hfind : s.lamp.queue.find? (·.bay == b) = none := by simpa using hq
  simp [State.testView, hfind, engineTesting_eq_some he hb hmin, he]

/-- R117: with no test queued or running, the release of the bay's harness is shown. -/
theorem testView_of_not_running {s : State} {b : BayNo} (hq : ∀ q ∈ s.lamp.queue, q.bay ≠ b)
    (he : ∀ e : EngineNo, ¬ ∃ y, s.lamp.engines[e] = .running y ∧ y.bay = b) :
    s.testView b = (s.engineReleasing b).elim .absent .releasing := by
  have hfind : s.lamp.queue.find? (·.bay == b) = none := by simpa using hq
  simp only [State.testView, hfind, engineTesting_eq_none he]
  cases s.engineReleasing b <;> rfl

/-! ## READ CHAIN -/

/-- R89, R101: the units a list of holders names are those the vector holds. -/
theorem holders_units (v : Vector (Option UnitsOn) 24) : (holders v).map (·.2) = v.toList.filterMap id := by
  have hv : v.toList = (List.finRange 24).map fun b => v[b] := by
    apply List.ext_getElem <;> simp
  rw [hv, holders, allBays, List.map_filterMap, List.filterMap_map]
  refine List.filterMap_congr fun b _ => ?_
  simp [Option.map_map, Function.comp_def]

theorem mem_holders (v : Vector (Option UnitsOn) 24) (x : BayNo × UnitsOn) : x ∈ holders v ↔ v[x.1] = some x.2 := by
  obtain ⟨b, u⟩ := x
  simp [holders, allBays]

theorem holders_nodup (v : Vector (Option UnitsOn) 24) : ((holders v).map (·.1)).Nodup := by
  rw [holders, List.map_filterMap]
  exact (List.nodup_finRange 24).filterMap fun a a' c ha ha' => by
    cases h : v[a] <;> cases h' : v[a'] <;> simp_all

theorem fixedUnits_eq_holders (v : Vector (Option UnitsOn) 24) : fixedUnits v = ((holders v).map (·.2.units)).sum := by
  rw [fixedUnits, ← holders_units, List.map_map]; rfl

theorem fixedUnitsOn_eq_holders (f : Fin 4) (v : Vector (Option UnitsOn) 24) :
    fixedUnitsOn f v = (((holders v).filter (·.2.feeder == f)).map (·.2.units)).sum := by
  rw [fixedUnitsOn, ← holders_units, List.filter_map, List.map_map]; rfl

/-- R101: an entry read from a position is shown with its own. -/
theorem entriesFrom_getElem? {q : Sequencer} {p i : Nat} {x : Nat × Entry} (h : (q.entriesFrom p)[i]? = some x) :
    x.1 = p + i ∧ q.chain[x.1]? = some x.2 := by
  simp only [Sequencer.entriesFrom, List.getElem?_mapIdx, Option.map_eq_some_iff, List.getElem?_take, List.getElem?_drop] at h
  obtain ⟨e, he, rfl⟩ := h
  split at he
  · exact ⟨rfl, he⟩
  · simp at he

theorem entriesFrom_length (q : Sequencer) (p : Nat) : (q.entriesFrom p).length = min 16 (q.chain.length - p) := by
  simp [Sequencer.entriesFrom]

/-! ## READ DEPARTURE -/

theorem ruleReadDeparture_of_none {sel : DepartureSelector} {s : State} (h : s.book.select sel = none) :
    (ruleReadDeparture sel s).2 = ⟨.notFound, .empty⟩ := by
  simp [ruleReadDeparture, h, refusal]

theorem ruleReadDeparture_of_some {sel : DepartureSelector} {s : State} {d : Departure} (h : s.book.select sel = some d) :
    (ruleReadDeparture sel s).2 = ⟨.ok, .departure (s.departureView d)⟩ := by
  simp [ruleReadDeparture, h]

/-- R38: in a sound book the record at a place is the first with its ref. -/
theorem Book.ref_lt_of_sound {k : Book} (hk : k.sound) {p j : Nat} {d e : Departure} (hp : k.records[p]? = some d)
    (hj : k.records[j]? = some e) (hne : j ≠ p) : e.ref ≠ d.ref := by
  intro href
  obtain ⟨-, hnodup, -⟩ := hk
  obtain ⟨hplt, rfl⟩ := List.getElem?_eq_some_iff.mp hp
  obtain ⟨hjlt, rfl⟩ := List.getElem?_eq_some_iff.mp hj
  exact hne ((hnodup.getElem_inj_iff (i := j) (j := p) (hi := by simpa) (hj := by simpa)).mp (by simpa using href))

theorem Book.find_of_getElem? {k : Book} (hk : k.sound) {p : Nat} {d : Departure} (hp : k.records[p]? = some d) :
    k.find d.ref = some d := by
  obtain ⟨hlt, hget⟩ := List.getElem?_eq_some_iff.mp hp
  rw [Book.find, List.find?_eq_some_iff_getElem]
  refine ⟨by simp, p, hlt, hget, fun j hj => ?_⟩
  simpa using Book.ref_lt_of_sound hk hp (List.getElem?_eq_getElem (by omega)) (by omega)

theorem Book.position_of_getElem? {k : Book} (hk : k.sound) {p : Nat} {d : Departure} (hp : k.records[p]? = some d) :
    k.position d.ref = p := by
  obtain ⟨hlt, hget⟩ := List.getElem?_eq_some_iff.mp hp
  rw [Book.position, List.findIdx_eq hlt]
  refine ⟨by simp [hget], fun j hj => ?_⟩
  simpa using Book.ref_lt_of_sound hk hp (List.getElem?_eq_getElem (by omega)) (by omega)

/-- R52: what is shown of a record at a place of a sound book. -/
theorem departureView_shows (s : State) (d : Departure) : (s.departureView d).shows d :=
  ⟨rfl, rfl, rfl, rfl, rfl, rfl, rfl, rfl, rfl⟩

theorem departureView_of_clearing {s : State} {d : Departure} {x : PendingClearance} (hd : d.state = .clearing)
    (hx : s.clearance.find d.ref = some x) :
    (s.departureView d).cold = x.cold ∧ (s.departureView d).timer = (x.timer + 999) / 1000 := by
  rw [Clearance.find] at hx
  simp [State.departureView, hd, hx, secondsLeft]

theorem departureView_of_not_clearing {s : State} {d : Departure} (h : d.state ≠ .clearing ∨ s.clearance.find d.ref = none) :
    (s.departureView d).cold = false ∧ (s.departureView d).timer = 0 := by
  have hp : (if d.state = .clearing then s.clearance.pending.find? (·.ref == d.ref) else none) = none := by
    split_ifs with hd
    · exact h.resolve_left (not_not.mpr hd)
    · rfl
  simp only [State.departureView, hp, and_self]

theorem departureView_ahead (s : State) (d : Departure) :
    (s.departureView d).ahead = if d.overdue.isSome then 0 else (d.minute + 1440 - s.clock.minute) % 1440 := by
  cases h : d.overdue <;> simp [State.departureView, Departure.ahead, minutesAheadOf, h]

/-- Settles O13: each read answers its rule on the unchanged state; the searches of the rules are said by what they find. -/
theorem readsAnswer : Obligations.ReadsAnswer := by
  unfold Obligations.ReadsAnswer
  intro l s hr seconds
  refine ⟨?bay, ?defects, ?shown, ?lamp, ?summary, ?beyond, ?entries, ?noRef, ?noPosition, ?departure⟩
  case bay =>
    intro bay hb b r
    exact ⟨_, _, exec_readBay_of_ready hr hb, isSome_member_iff s.seq b, underTest_iff s b⟩
  case defects =>
    intro bay position hb b
    rw [exec_readDefects_of_ready hr hb]
    refine ⟨fun h => ?_, fun h => ?_⟩
    · simp [ruleReadDefects, h, refusal]
    · simp only [ruleReadDefects, Nat.not_lt.mpr h, if_false]
      rfl
  case shown =>
    intro d
    refine ⟨d.shown.state, rfl, fun ms h => ?_, fun h => ?_⟩
    · simp [Defect.shown, h, minutesLeft]
    · cases hs : d.state <;> simp_all [Defect.shown]
  case lamp =>
    intro bay hb b runs
    refine ⟨s.lampFresh b, s.testView b, ?_, lampFresh_iff s b, fun i q hi hq hfirst => testView_of_queued hi hq hfirst,
      fun hq => ⟨fun e x he hx hmin => testView_of_running hq he hx hmin, fun hrun => ?_⟩⟩
    · rw [exec_readLampResult_of_ready hr hb]
      have hview : Engine.view = fun e => match e with
          | .free => .free
          | .running x => .running x.bay
          | .releasing x => .releasing x := by
        funext e; cases e <;> rfl
      rw [ruleReadLampResult, hview]
      rfl
    · rw [testView_of_not_running hq hrun]
      refine ⟨fun e he hmin => ?_, fun hnone => ?_⟩
      · rw [State.engineReleasing, find_finRange_eq_some (by simpa using he) fun f hf => by simpa using hmin f hf]
        rfl
      · rw [State.engineReleasing, find_finRange_eq_none fun e => by simpa using hnone e]
        rfl
  case summary =>
    refine ⟨holders s.seq.held, holders s.seq.stuck, ?_, holders_nodup _, mem_holders _, holders_nodup _, mem_holders _⟩
    simp only [exec_readChain_of_ready hr, ruleReadChain, ← fixedUnits_eq_holders, ← fixedUnitsOn_eq_holders]
    rfl
  case beyond =>
    intro p hp
    simp [exec_readChain_of_ready hr, ruleReadChain, hp, refusal]
  case entries =>
    intro p hp
    refine ⟨s.seq.entriesFrom p.toNat, ?_, entriesFrom_length _ _, fun i x h => entriesFrom_getElem? h⟩
    simp [exec_readChain_of_ready hr, ruleReadChain, Nat.not_lt.mpr hp]
  case noRef =>
    intro ref h
    rw [exec_readDeparture_of_ready hr, ruleReadDeparture_of_none (by simpa [Book.select, Book.find] using h)]
  case noPosition =>
    intro p h
    rw [exec_readDeparture_of_ready hr, ruleReadDeparture_of_none (by simpa [Book.select] using h)]
  case departure =>
    intro hk p d hp
    obtain ⟨hlt, hget⟩ := List.getElem?_eq_some_iff.mp hp
    obtain ⟨hlen, -, hrefs⟩ := id hk
    obtain ⟨-, hmax⟩ := hrefs d (hget ▸ List.getElem_mem hlt)
    refine ⟨s.departureView d, departureView_shows s d, Book.position_of_getElem? hk hp,
      fun x hd hx => departureView_of_clearing hd hx, departureView_of_not_clearing, departureView_ahead s d, ?_, ?_⟩
    · have href : (BitVec.ofNat 16 d.ref).toNat = d.ref := by simp; omega
      rw [exec_readDeparture_of_ready hr, ruleReadDeparture_of_some (d := d)]
      rw [Book.select, href, Book.find_of_getElem? hk hp]
    · have hpos : (BitVec.ofNat 16 p).toNat = p := by simp; omega
      rw [exec_readDeparture_of_ready hr, ruleReadDeparture_of_some (d := d)]
      rw [Book.select, hpos, hp]

end Sys2Proof.Machine

/-! PROOF. Several bays leave the on-set one after the other (R91, R93); a class removed (R28). -/

namespace Sys2Proof.Machine

/-! ## What a loss of eligibility commands OFF -/

/-- R90: a bay of the on-set that is gone and was commanded ON. -/
def State.switchedOff (s : State) (gone : BayNo → Bool) (b : BayNo) : Bool :=
  s.seq.onSet.any (·.bay == b) && gone b && s.seq.commanded[b].on

/-- A HEAT request for a bay that is switched off. -/
def State.heatsOff (s : State) (gone : BayNo → Bool) (r : Request) : Bool :=
  match r.job with
  | .heat b _ => s.switchedOff gone b
  | _ => false

/-- R90: an entry as it stands when the members gone that refer to it have left. -/
def State.missedAt (s : State) (gone : BayNo → Bool) (i : Nat) : Bool := s.seq.onSet.any fun m => gone m.bay && m.entry == some i

/-- The state with what a loss of eligibility changes put back from another. -/
def State.withHeatingOf (t s : State) : State :=
  { t with
    seq := { t.seq with onSet := s.seq.onSet, commanded := s.seq.commanded, chain := s.seq.chain }
    bus := { t.bus with waiting := s.bus.waiting } }

theorem withHeatingOf_withHeatingOf (u t s : State) : (u.withHeatingOf t).withHeatingOf s = u.withHeatingOf s := rfl

theorem leaves_iff (s t : State) (gone : BayNo → Bool) : s.leaves t gone ↔
    t.seq.onSet = s.seq.onSet.filter (fun m => !gone m.bay)
    ∧ t.seq.commanded = Vector.ofFn (fun b => if s.switchedOff gone b then ⟨false, s.now⟩ else s.seq.commanded[b])
    ∧ ((s.seq.onSet.map (·.bay)).Nodup → t.seq.chain = s.seq.chain.mapIdx fun i e =>
        if s.missedAt gone i then { e with status := .missed } else e)
    ∧ (∀ b : BayNo, s.switchedOff gone b = true → s.silent b = false → t.waits (· == .heat b false) = true)
    ∧ t.bus.waiting.filter (fun r => !s.heatsOff gone r) = s.bus.waiting.filter (fun r => !s.heatsOff gone r)
    ∧ t.withHeatingOf s = s :=
  Iff.rfl

/-! ## Nobody leaves; one after the other -/

theorem switchedOff_congr {s : State} {g h : BayNo → Bool} (hgh : ∀ m ∈ s.seq.onSet, g m.bay = h m.bay) (b : BayNo) :
    s.switchedOff g b = s.switchedOff h b := by
  unfold State.switchedOff
  cases hb : s.seq.onSet.any (·.bay == b) with
  | false => simp
  | true =>
    obtain ⟨m, hm, hmb⟩ := List.any_eq_true.mp hb
    obtain rfl := eq_of_beq hmb
    rw [hgh m hm]

/-- Only the bays of the on-set matter. -/
theorem leaves_congr {s t : State} {g h : BayNo → Bool} (hgh : ∀ m ∈ s.seq.onSet, g m.bay = h m.bay) (hs : s.leaves t g) :
    s.leaves t h := by
  have hoff : s.switchedOff g = s.switchedOff h := funext (switchedOff_congr hgh)
  have hheats : s.heatsOff g = s.heatsOff h := by unfold State.heatsOff; rw [hoff]
  have hmissed : s.missedAt g = s.missedAt h := by
    funext i
    rw [State.missedAt, Bool.eq_iff_iff]
    simp only [State.missedAt, List.any_eq_true]
    exact exists_congr fun m => and_congr_right fun hm => by rw [hgh m hm]
  have hkept : s.seq.onSet.filter (fun m => !g m.bay) = s.seq.onSet.filter (fun m => !h m.bay) :=
    List.filter_congr fun m hm => by rw [hgh m hm]
  rw [leaves_iff] at hs ⊢
  rwa [← hoff, ← hheats, ← hmissed, ← hkept]

theorem leaves_refl (s : State) : s.leaves s fun _ => false := by
  rw [leaves_iff]
  refine ⟨by simp, ?_, fun _ => ?_, fun b h => by simp [State.switchedOff] at h, rfl, rfl⟩
  · apply Vector.ext; intro i hi; simp [State.switchedOff]
  · have hnone : ∀ i, s.missedAt (fun _ => false) i = false := fun i => by simp [State.missedAt]
    simp only [hnone, Bool.false_eq_true, if_false]
    exact (List.mapIdx_eq_iff.mpr fun i => by simp).symm

theorem leaves_trans {s t u : State} {g h : BayNo → Bool} (h₁ : s.leaves t g) (h₂ : t.leaves u h) :
    s.leaves u fun b => g b || h b := by
  rw [leaves_iff] at h₁ h₂ ⊢
  obtain ⟨hset₁, hcmd₁, hchain₁, hwaits₁, hothers₁, hframe₁⟩ := h₁
  obtain ⟨hset₂, hcmd₂, hchain₂, hwaits₂, hothers₂, hframe₂⟩ := h₂
  have hnow : t.now = s.now := congrArg State.now (a₁ := t.withHeatingOf s) hframe₁
  have hsilent : ∀ b, t.silent b = s.silent b := fun b => 
    congrArg (State.silent · b) (a₁ := t.withHeatingOf s) hframe₁
  have hcmd : ∀ b : BayNo, t.seq.commanded[b] = if s.switchedOff g b then ⟨false, s.now⟩ else s.seq.commanded[b] := fun b => by
    rw [hcmd₁]; simp
  have hany : ∀ b, t.seq.onSet.any (·.bay == b) = (s.seq.onSet.any (·.bay == b) && !g b) := fun b => by
    rw [hset₁, Bool.eq_iff_iff]
    simp only [List.any_filter, List.any_eq_true, Bool.and_eq_true, beq_iff_eq]
    constructor
    · rintro ⟨m, hm, hg, rfl⟩; exact ⟨⟨m, hm, rfl⟩, hg⟩
    · rintro ⟨⟨m, hm, rfl⟩, hg⟩; exact ⟨m, hm, hg, rfl⟩
  have hsecond : ∀ b, t.switchedOff h b = (s.seq.onSet.any (·.bay == b) && !g b && h b && s.seq.commanded[b].on) := fun b => by
    rw [State.switchedOff, hany, hcmd, State.switchedOff]
    generalize s.seq.onSet.any (·.bay == b) = stands
    cases g b <;> cases stands <;> cases h b <;> simp
  have hoff : ∀ b, s.switchedOff (fun b => g b || h b) b = (s.switchedOff g b || t.switchedOff h b) := fun b => by
    rw [hsecond]
    unfold State.switchedOff
    generalize s.seq.onSet.any (·.bay == b) = stands
    cases hg : g b <;> cases hh : h b <;> cases stands <;> simp [hg, hh]
  have hheats : ∀ r, s.heatsOff (fun b => g b || h b) r = (s.heatsOff g r || t.heatsOff h r) := fun r => by
    unfold State.heatsOff
    cases r.job <;> simp [hoff]
  refine ⟨?_, ?_, fun hn => ?_, fun b hb hs => ?_, ?_, ?_⟩
  · rw [hset₂, hset₁, List.filter_filter]
    exact List.filter_congr fun m _ => by cases g m.bay <;> cases h m.bay <;> rfl
  · rw [hcmd₂]
    congr 1; funext b
    rw [hcmd, hoff, hnow]
    cases s.switchedOff g b <;> cases t.switchedOff h b <;> simp
  · have hn' : (t.seq.onSet.map (·.bay)).Nodup := by
      rw [hset₁]; exact hn.sublist (List.filter_sublist.map _)
    rw [hchain₂ hn', hchain₁ hn, List.mapIdx_mapIdx]
    have hmissed : ∀ i, s.missedAt (fun b => g b || h b) i = (s.missedAt g i || t.missedAt h i) := fun i => by
      rw [State.missedAt, State.missedAt, State.missedAt, hset₁, Bool.eq_iff_iff]
      simp only [List.any_filter, Bool.or_eq_true, List.any_eq_true, ← exists_or, ← and_or_left]
      refine exists_congr fun m => and_congr_right fun _ => ?_
      cases g m.bay <;> cases h m.bay <;> simp
    refine List.mapIdx_eq_mapIdx_iff.mpr fun i hi => ?_
    simp only [Function.comp_apply, hmissed]
    cases s.missedAt g i <;> cases t.missedAt h i <;> simp
  · rw [hoff, Bool.or_eq_true] at hb
    by_cases hb₂ : t.switchedOff h b = true
    · exact hwaits₂ b hb₂ (by rw [hsilent, hs])
    · have hw := hwaits₁ b (hb.resolve_right hb₂) hs
      simp only [State.waits, List.any_eq_true, beq_iff_eq] at hw ⊢
      obtain ⟨r, hr, hjob⟩ := hw
      have hstays : r ∈ u.bus.waiting.filter fun r => !t.heatsOff h r := by
        rw [hothers₂, List.mem_filter]
        exact ⟨hr, by simp [State.heatsOff, hjob, hb₂]⟩
      exact ⟨r, (List.mem_filter.mp hstays).1, hjob⟩
  · simp only [hheats, Bool.not_or]
    have hsplit : ∀ rs : List Request, rs.filter (fun r => !s.heatsOff g r && !t.heatsOff h r)
        = (rs.filter fun r => !t.heatsOff h r).filter fun r => !s.heatsOff g r := fun rs => by rw [List.filter_filter]
    have hsplit' : ∀ rs : List Request, rs.filter (fun r => !s.heatsOff g r && !t.heatsOff h r)
        = (rs.filter fun r => !s.heatsOff g r).filter fun r => !t.heatsOff h r := fun rs => by
      rw [List.filter_filter]; exact List.filter_congr fun r _ => Bool.and_comm ..
    rw [hsplit, hothers₂, ← hsplit, hsplit', hothers₁, ← hsplit']
  · rw [← withHeatingOf_withHeatingOf u t s, hframe₂, hframe₁]

/-- Bays that leave one after the other. -/
theorem leaves_foldl (ms : List Member) (s : State) :
    s.leaves (ms.foldl (fun s m => leaveOnSet m.bay s) s) fun b => ms.any (·.bay == b) := by
  induction ms generalizing s with
  | nil => exact leaves_refl s
  | cons m ms ih =>
    refine leaves_congr (fun x _ => ?_) (leaves_trans (leaveOnSet_leaves m.bay s) (ih (leaveOnSet m.bay s)))
    rw [List.any_cons, Bool.beq_comm]

/-! ## CLASS_REMOVE -/

theorem exec_classRemove_of_ready {cls : Byte} {s : State} (hr : s.ready .workshop) :
    exec (.classRemove .workshop cls) s = .next (answer .workshop (ruleClassRemove cls s).2 (ruleClassRemove cls s).1) :=
  event_takeCommand_of_ready _ hr (by decide) (by simp)

theorem dropClass_leaves (c : Fin 16) (s : State) : s.leaves (dropClass c s) fun b => (s.bay b).cls == some c := by
  refine leaves_congr (fun m hm => ?_) (leaves_foldl (s.seq.onSet.filter fun m => (s.bay m.bay).cls == some c) s)
  rw [Bool.eq_iff_iff]
  simp only [List.any_eq_true, List.mem_filter, beq_iff_eq]
  constructor
  · rintro ⟨x, ⟨-, hx⟩, hbay⟩
    rwa [← hbay]
  · exact fun hc => ⟨m, ⟨hm, hc⟩, rfl⟩

/-- Settles O16: the bays of the class leave one after the other. -/
theorem classRemoved : Obligations.ClassRemoved := by
  unfold Obligations.ClassRemoved
  intro cls s hr
  rw [exec_classRemove_of_ready hr]
  refine ⟨fun h => ?_, fun h => ?_⟩
  · simp [ruleClassRemove, h, refusal]
  have hindex : classIndex cls = ⟨cls.toNat, h⟩ := Fin.ext (classIndex_val h)
  have hclass : s.classes[classIndex cls] = s.classes[cls.toNat] :=
    congrArg (fun i : Fin 16 => s.classes[i]) hindex
  have hin : ¬ 15 < cls.toNat := by omega
  refine ⟨fun hnone => ?_, fun hsome => ⟨dropClass ⟨cls.toNat, h⟩ (setClass ⟨cls.toNat, h⟩ none s), ?_, dropClass_leaves _ _⟩⟩
  · simp only [ruleClassRemove, hin, if_false, hclass, hnone, Option.isNone_none, if_true, refusal]
  · have hdefined : ¬ (s.classes[classIndex cls]).isNone = true := by
      rw [hclass]; simpa using hsome
    rw [ruleClassRemove, if_neg hin, if_neg hdefined, hindex]

end Sys2Proof.Machine

/-! PROOF. The workshop's commands on a bay: OPEN BAY, HOLD, UNHOLD, ASSIGN FEEDER, PIN; and on the defect store: ACKNOWLEDGE, DEFER, CLOSE
DEFECT, ENTER DEFECT. -/

namespace Sys2Proof.Machine

/-! ## OPEN BAY, HOLD, UNHOLD and ASSIGN FEEDER -/

theorem exec_openBay_of_ready {bay : Byte} {s : State} (hr : s.ready .workshop) (hb : s.fits bay) :
    exec (.openBay .workshop bay) s = .next (answer .workshop (ruleOpenBay (bayOf bay) s).2 (ruleOpenBay (bayOf bay) s).1) :=
  event_takeCommand_of_ready _ hr (by decide) (by simpa using hb)

theorem exec_hold_of_ready {bay : Byte} {s : State} (hr : s.ready .workshop) (hb : s.fits bay) :
    exec (.hold .workshop bay) s = .next (answer .workshop (ruleHold (bayOf bay) s).2 (ruleHold (bayOf bay) s).1) :=
  event_takeCommand_of_ready _ hr (by decide) (by simpa using hb)

theorem exec_unhold_of_ready {bay : Byte} {s : State} (hr : s.ready .workshop) (hb : s.fits bay) :
    exec (.unhold .workshop bay) s = .next (answer .workshop (ruleUnhold (bayOf bay) s).2 (ruleUnhold (bayOf bay) s).1) :=
  event_takeCommand_of_ready _ hr (by decide) (by simpa using hb)

theorem exec_assignFeeder_of_ready {bay feeder : Byte} {s : State} (hr : s.ready .workshop) (hb : s.fits bay) :
    exec (.assignFeeder .workshop bay feeder) s
      = .next (answer .workshop (ruleAssignFeeder (bayOf bay) feeder s).2 (ruleAssignFeeder (bayOf bay) feeder s).1) :=
  event_takeCommand_of_ready _ hr (by decide) (by simpa using hb)

/-- Settles O17: a CLOSED bay opens EMPTY, with its sense timer started. -/
theorem bayOpened : Obligations.BayOpened := by
  unfold Obligations.BayOpened
  intro bay s hr hb b
  rw [exec_openBay_of_ready hr hb]
  refine ⟨fun h => ?_, fun h => ?_⟩
  · have hne : ((s.updBay b fun r => { r with occupied := false, candidate := none, sense := some senseTime }).bay b).state ≠ .empty := by
      simp [h]
    rw [ruleOpenBay, if_pos h, openBay, setBayState_of_ne hne, updBay_updBay]
    rfl
  · rw [ruleOpenBay, if_neg h]
    rfl

theorem setHold_of_ne {b : BayNo} {on : Bool} {s : State} (h : (s.bay b).hold ≠ on) :
    setHold b on s = notifyBay .bay b (s.updBay b fun r => { r with hold := on }) := by
  rw [setHold, if_neg h]

theorem holdable_eq_false_iff (x : BayState) : x.holdable = false ↔ x ∈ [.closed, .empty] := by cases x <;> decide

theorem holdable_eq_true_iff (x : BayState) : x.holdable = true ↔ x ∈ [.arrived, .bound, .cleared, .leaving] := by
  cases x <;> decide

/-- R17, R22, R165: what a new hold brings, by the bay's state. -/
theorem placeHold_eq (b : BayNo) (s : State) (h : (s.bay b).state.holdable = true) : placeHold b s = arbitrate (
    if (s.bay b).state = .arrived then setHold b true s
    else if (s.bay b).state = .bound then leaveOnSet b (setHold b true s)
    else if (s.bay b).state = .cleared then reportToClearance b (leaveOnSet b (setHold b true s))
    else reportToClearance b (setHold b true s)) := by
  unfold placeHold
  cases hs : (s.bay b).state <;> simp_all [BayState.holdable]

/-- Settles O19: HOLD and UNHOLD by the bay's state and the hold that stands; ASSIGN FEEDER by the feeder's number. -/
theorem holdAndFeeder : Obligations.HoldAndFeeder := by
  unfold Obligations.HoldAndFeeder
  intro bay s hr hb b held
  simp only [exec_hold_of_ready hr hb, exec_unhold_of_ready hr hb, exec_assignFeeder_of_ready hr hb]
  have hset : ∀ on, (s.bay b).hold ≠ on → setHold b on s = held on := fun on h => setHold_of_ne h
  refine ⟨fun h => ?_, fun h => ⟨fun hon => ?_, fun hoff => ?_⟩, fun feeder h => ?_, fun feeder h => ⟨fun hf => ?_, fun hf => ?_⟩⟩
  · have hno := (holdable_eq_false_iff _).mpr h
    simp [ruleHold, ruleUnhold, b, hno, refusal]
  · have hyes := (holdable_eq_true_iff _).mpr h
    simp only [ruleHold, ruleUnhold, b, hyes, hon, Bool.not_true, Bool.false_eq_true, if_false, if_true, refusal, true_and]
    rw [hset false (by simp [hon])]
  · have hyes := (holdable_eq_true_iff _).mpr h
    simp only [ruleHold, ruleUnhold, b, hyes, hoff, Bool.not_true, Bool.false_eq_true, if_false, refusal, true_and]
    rw [placeHold_eq _ _ hyes, hset true (by simp [hoff])]
  · simp [ruleAssignFeeder, refusal, Nat.not_lt.mpr h]
  · simp [ruleAssignFeeder, setFeeder, b, h, hf]
  · simp only [ruleAssignFeeder, dif_pos h, setFeeder, b, hf, if_false]
    rfl

/-! ## PIN -/

theorem exec_pin_of_ready {bay : Byte} {s : State} (hr : s.ready .workshop) (hb : s.fits bay) :
    exec (.pin .workshop bay) s = .next (answer .workshop (rulePin (bayOf bay) s).2 (rulePin (bayOf bay) s).1) :=
  event_takeCommand_of_ready _ hr (by decide) (by simpa using hb)

/-- Settles O20: a CLOSED bay is refused before a full chain is looked at. -/
theorem pinWritten : Obligations.PinWritten := by
  unfold Obligations.PinWritten
  intro bay s hr hb b p full
  have hclosed : (s.bay b).state = .closed → rulePin b s = (s, ⟨.wrongState, .empty⟩) := fun h => by simp [rulePin, h, refusal]
  have hroom : pinRoom ≤ s.seq.pinned ∨ chainRoom ≤ s.seq.chain.length ↔ full := Iff.rfl
  rw [exec_pin_of_ready hr hb]
  refine ⟨fun h _ => ?_, fun h hfull => ?_, fun h _ => ⟨.wrongState, ?_, .inl rfl⟩, fun h hfull => ?_⟩
  · rw [hclosed h]
  · rw [rulePin, if_neg h, if_pos (hroom.mpr hfull)]; rfl
  · rw [hclosed h]
  · rw [rulePin, if_neg h, if_neg (hroom.not.mpr hfull)]; rfl

/-! ## ACKNOWLEDGE, DEFER and CLOSE DEFECT -/

theorem exec_acknowledge_of_ready {id : Half} {s : State} (hr : s.ready .workshop) :
    exec (.acknowledge .workshop id) s = .next (answer .workshop (ruleAcknowledge id s).2 (ruleAcknowledge id s).1) :=
  event_takeCommand_of_ready _ hr (by decide) (by simp)

theorem exec_defer_of_ready {id minutes : Half} {s : State} (hr : s.ready .workshop) :
    exec (.defer .workshop id minutes) s = .next (answer .workshop (ruleDefer id minutes s).2 (ruleDefer id minutes s).1) :=
  event_takeCommand_of_ready _ hr (by decide) (by simp)

theorem exec_closeDefect_of_ready {id : Half} {s : State} (hr : s.ready .workshop) :
    exec (.closeDefect .workshop id) s = .next (answer .workshop (ruleCloseDefect id s).2 (ruleCloseDefect id s).1) :=
  event_takeCommand_of_ready _ hr (by decide) (by simp)

theorem store_find_eq_none {st : Store} {id : Nat} (h : ∀ b : BayNo, ∀ d ∈ st.lists[b], d.id ≠ id) : st.find id = none := by
  simp only [Store.find, List.findSome?_eq_none_iff, Option.map_eq_none_iff, List.find?_eq_none, beq_iff_eq]
  exact fun b _ => h b

/-- R154: a change of the entry with an id where it stands. -/
theorem changeDefect_eq (b : BayNo) (id : Nat) (f : Defect → Defect) (s : State) : changeDefect b id f s =
    notifyBay .defect b { s with store := { s.store with
      lists := s.store.lists.set b (s.store.lists[b].map fun e => if e.id = id then f e else e) } } := by
  simp [changeDefect, State.updStore, Store.updateWhere, modifyAt]

/-- Settles O22: only an OPEN entry is acknowledged; no finding touches an entry's state. -/
theorem defectAcknowledged : Obligations.DefectAcknowledged := by
  unfold Obligations.DefectAcknowledged
  refine ⟨fun id s hr => ⟨fun h => ?_, fun b d hd => ⟨fun ho => ?_, fun hn => ?_⟩⟩, fun f d => by cases f <;> rfl⟩
  · rw [exec_acknowledge_of_ready hr]
    simp [ruleAcknowledge, store_find_eq_none h, refusal]
  · rw [exec_acknowledge_of_ready hr, ← changeDefect_eq]
    simp [ruleAcknowledge, hd, ho]
  · rw [exec_acknowledge_of_ready hr]
    cases hs : d.state <;> simp_all [ruleAcknowledge, refusal]

/-- Settles O23: an entry is closed when it is MANUAL or its finding is gone. -/
theorem defectClosed : Obligations.DefectClosed := by
  unfold Obligations.DefectClosed
  intro id s hr
  rw [exec_closeDefect_of_ready hr]
  refine ⟨fun h => ?_, fun b d hd => ⟨fun hgone => ?_, fun hsource hpresent => ?_⟩⟩
  · simp [ruleCloseDefect, store_find_eq_none h, refusal]
  · simp [ruleCloseDefect, hd, hgone, State.updStore, Store.removeWhere, modifyAt] <;> rfl
  · simp [ruleCloseDefect, hd, hsource, hpresent, refusal]

/-- Settles O24: an entry of any state is deferred, the minutes clamped to 1..1440. -/
theorem defectDeferred : Obligations.DefectDeferred := by
  unfold Obligations.DefectDeferred
  intro id minutes s hr m
  rw [exec_defer_of_ready hr]
  refine ⟨fun h => ?_, fun b d hd => ?_⟩
  · simp [ruleDefer, store_find_eq_none h, refusal]
  · rw [← changeDefect_eq b id.toNat (fun e => { e with state := .deferred (m * 60000) })]
    have hstatus : takenStatus (clampNat 1 1440 minutes.toNat != minutes.toNat) = if m = minutes.toNat then .ok else .okClamped := by
      by_cases h : m = minutes.toNat <;> simp_all [takenStatus, clampNat, m]
    simp only [ruleDefer, hd, hstatus]
    rfl

/-! ## Ids (R139) -/

/-- The id k places after i, in the cycle 1..65535. -/
def idAhead (i k : Nat) : Nat := (i - 1 + k) % 65535 + 1

theorem idAhead_zero {i : Nat} (h : 1 ≤ i) (h' : i ≤ 65535) : idAhead i 0 = i := by unfold idAhead; omega

theorem idAfter_idAhead (i k : Nat) : idAfter (idAhead i k) = idAhead i (k + 1) := by unfold idAfter idAhead; split_ifs <;> omega

theorem idAhead_injOn {i j k : Nat} (hj : j < 65535) (hk : k < 65535) (h : idAhead i j = idAhead i k) : j = k := by
  unfold idAhead at h; omega

/-- R139: the search ends at the first id ahead that is not in use, or after n of them. -/
theorem freshId_idAhead (used : List Nat) (i n k : Nat) : ∃ m ≤ n, freshId used n (idAhead i k) = idAhead i (k + m)
    ∧ (∀ j < m, idAhead i (k + j) ∈ used) ∧ (m < n → idAhead i (k + m) ∉ used) := by
  induction n generalizing k with
  | zero => exact ⟨0, le_rfl, rfl, by simp, by simp⟩
  | succ n ih =>
    by_cases hu : idAhead i k ∈ used
    · obtain ⟨m, hm, heq, hused, hfree⟩ := ih (k + 1)
      refine ⟨m + 1, by omega, ?_, fun j hj => ?_, fun h => ?_⟩
      · rw [freshId, if_pos (by simpa using hu), idAfter_idAhead, heq]; congr 1; omega
      · rcases j with _ | j
        · exact hu
        · rw [show k + (j + 1) = k + 1 + j by omega]; exact hused j (by omega)
      · rw [show k + (m + 1) = k + 1 + m by omega]; exact hfree (by omega)
    · exact ⟨0, by omega, by rw [freshId, if_neg (by simpa using hu)]; rfl, by simp, fun _ => hu⟩

/-- R139: with fewer than n ids in use, n tries find a free one. -/
theorem freshId_notMem {used : List Nat} {n i : Nat} (hn : used.length < n) (hmax : n ≤ 65535) (h : 1 ≤ i) (h' : i ≤ 65535) :
    freshId used n i ∉ used := by
  obtain ⟨m, hm, heq, hused, hfree⟩ := freshId_idAhead used i n 0
  rw [idAhead_zero h h'] at heq
  rw [heq]
  rcases Nat.lt_or_eq_of_le hm with hlt | rfl
  · exact hfree hlt
  · have hnodup : ((List.range m).map fun j => idAhead i (0 + j)).Nodup :=
      List.nodup_range.map_on fun j hj k hk => by
        simp only [List.mem_range] at hj hk
        simpa using idAhead_injOn (i := i) (by omega) (by omega)
    have hsub : ((List.range m).map fun j => idAhead i (0 + j)) ⊆ used := by
      intro x hx
      obtain ⟨j, hj, rfl⟩ := List.mem_map.mp hx
      exact hused j (List.mem_range.mp hj)
    have := (hnodup.subperm hsub).length_le
    simp at this
    omega

theorem freshId_bounds {used : List Nat} {n i : Nat} (h : 1 ≤ i) (h' : i ≤ 65535) :
    1 ≤ freshId used n i ∧ freshId used n i ≤ 65535 := by
  obtain ⟨m, -, heq, -, -⟩ := freshId_idAhead used i n 0
  rw [idAhead_zero h h'] at heq
  rw [heq]
  unfold idAhead
  omega

theorem freshId_of_notMem {used : List Nat} {n i : Nat} (h : i ∉ used) : freshId used n i = i := by
  cases n with
  | zero => rfl
  | succ n => rw [freshId, if_neg (by simpa using h)]

/-- R137: a store with a free slot holds fewer than 96 entries. -/
theorem entries_length_lt {st : Store} (hs : st.sound) (hf : st.free ≠ []) : st.entries.length < 96 := by
  have hlen := hs.1.length_eq
  have := List.length_pos_iff.mpr hf
  simp at hlen
  omega

/-! ## ENTER DEFECT -/

theorem exec_enterDefect_of_ready {bay : Byte} {code : Half} {action : Byte} {s : State} (hr : s.ready .workshop) (hb : s.fits bay) :
    exec (.enterDefect .workshop bay code action) s
      = .next (answer .workshop (ruleEnterDefect (bayOf bay) code action s).2 (ruleEnterDefect (bayOf bay) code action s).1) :=
  event_takeCommand_of_ready _ hr (by decide) (by simpa using hb)

theorem actionOf_isSome_of_le {b : Byte} (h : b.toNat ≤ 2) : ∃ x, actionOf b = some x := by
  have hb : b = 0#8 ∨ b = 1#8 ∨ b = 2#8 := by bv_omega
  rcases hb with rfl | rfl | rfl
  · exact ⟨.block, rfl⟩
  · exact ⟨.inhibit, rfl⟩
  · exact ⟨.note, rfl⟩

theorem isBound_eq_true_iff (x : BayState) : x.isBound = true ↔ x ∈ [.bound, .cleared, .leaving] := by cases x <;> decide

theorem isBound_eq_false_iff (x : BayState) : x.isBound = false ↔ x ∈ [.closed, .empty, .arrived] := by cases x <;> decide

theorem hasManual_iff (s : State) (b : BayNo) (code : Nat) :
    s.hasManual b code = true ↔ ∃ d ∈ s.store.lists[b], d.source = .manual ∧ d.code = code := by
  simp [State.hasManual]

theorem store_create_eq_none {st : Store} {b : BayNo} (n : NewDefect) (h : st.free = [] ∨ 16 ≤ st.lists[b].length) :
    st.create b n = none := by
  unfold Store.create
  rcases h with h | h
  · simp [h]
  · rw [if_neg (by omega)]

theorem store_create_of_room {st : Store} {b : BayNo} {slot : Fin 96} {free : List (Fin 96)} (n : NewDefect) (hf : st.free = slot :: free)
    (hl : st.lists[b].length < 16) :
    st.create b n = some { st with
      free := free
      lists := st.lists.set b (st.lists[b] ++ [⟨slot, freshId (st.entries.map (·.id)) 96 st.nextId, n.source, n.code, n.action, .opened,
        n.present, n.count, n.severity, n.detail, 0⟩])
      nextId := idAfter (freshId (st.entries.map (·.id)) 96 st.nextId) } := by
  unfold Store.create
  rw [if_pos hl, hf]
  rfl

/-- Settles O25: the checks of ENTER DEFECT in their order, then the entry created at the list's end; and the search for an id, by
counting. -/
theorem defectEntered : Obligations.DefectEntered := by
  unfold Obligations.DefectEntered
  refine ⟨fun bay code action s hr hb => ?_, fun st hs hf h h' => ?_⟩
  · intro b n answers
    have hanswers : ∀ r t, ruleEnterDefect b code action s = (t, r) → answers r t := fun r t h => by
      simp only [answers, exec_enterDefect_of_ready hr hb]
      rw [show ruleEnterDefect (bayOf bay) code action s = (t, r) from h]
    have hcode : codeTaken code = n := rfl
    refine ⟨fun h => hanswers _ _ ?_, fun ha hstate => hanswers _ _ ?_, fun hstate =>
      ⟨fun hm ha => hanswers _ _ ?_, fun hm => ⟨fun ha hfull => hanswers _ _ ?_, fun slot free x hfree hlen hx => ?_⟩⟩⟩
    · simp [ruleEnterDefect, actionOf_eq_none_of_gt h, refusal]
    · obtain ⟨x, hx⟩ := actionOf_isSome_of_le ha
      have hbound : s.boundAt b = false := (isBound_eq_false_iff _).mpr hstate
      simp [ruleEnterDefect, hx, hbound, refusal]
    · obtain ⟨x, hx⟩ := actionOf_isSome_of_le ha
      have hbound : s.boundAt b = true := (isBound_eq_true_iff _).mpr hstate
      simp [ruleEnterDefect, hx, hbound, hcode, (hasManual_iff s b n).mpr hm, refusal]
    · obtain ⟨x, hx⟩ := actionOf_isSome_of_le ha
      have hbound : s.boundAt b = true := (isBound_eq_true_iff _).mpr hstate
      have hmanual : s.hasManual b n = false := by
        rw [Bool.eq_false_iff, ne_eq, hasManual_iff]
        exact fun ⟨d, hd, h⟩ => hm d hd h
      simp [ruleEnterDefect, hx, hbound, hcode, hmanual, store_create_eq_none _ hfull, refusal]
    · intro id d t
      refine hanswers _ _ ?_
      have hbound : s.boundAt b = true := (isBound_eq_true_iff _).mpr hstate
      have hmanual : s.hasManual b n = false := by
        rw [Bool.eq_false_iff, ne_eq, hasManual_iff]
        exact fun ⟨d, hd, h⟩ => hm d hd h
      have hstatus : takenStatus (n != code.toNat) = if n = code.toNat then .ok else .okClamped := by
        by_cases h : n = code.toNat <;> simp [takenStatus, h]
      simp only [ruleEnterDefect, actionOf_eq_some_of_mem hx, hbound, hcode, hmanual, store_create_of_room _ hfree hlen, hstatus,
        Bool.not_true, Bool.false_eq_true, if_false]
      refine Prod.ext ?_ ?_
      · cases x <;> rfl
      · simp [Store.newest, manualDefect, d, id]
  · exact ⟨freshId_notMem (by simpa using entries_length_lt hs hf) (by norm_num) h h', (freshId_bounds h h').1, (freshId_bounds h h').2,
      freshId_of_notMem⟩

end Sys2Proof.Machine

/-! PROOF. The settings: SET WEATHER, SET LAMP FRESHNESS, SET CLEARANCE WINDOW and SET SCAN PERIOD; SET FEED LIMITS with the shedding it brings,
and the feed alarm line. -/

namespace Sys2Proof.Machine

/-! ## Settings of one value -/

theorem takenStatus_of_nat (m n : Nat) : takenStatus (m != n) = if m = n then .ok else .okClamped := by
  by_cases h : m = n <;> simp [takenStatus, h]

theorem takenStatus_of_int (m n : Int) : takenStatus (m != n) = if m = n then .ok else .okClamped := by
  by_cases h : m = n <;> simp [takenStatus, h]

theorem exec_setWeather_of_ready {temperature : Half} {s : State} (hr : s.ready .dispatch) :
    exec (.setWeather .dispatch temperature) s
      = .next (answer .dispatch (ruleSetWeather temperature s).2 (ruleSetWeather temperature s).1) :=
  event_takeCommand_of_ready _ hr (by decide) (by simp)

theorem exec_setLampFreshness_of_ready {minutes : Half} {s : State} (hr : s.ready .dispatch) :
    exec (.setLampFreshness .dispatch minutes) s
      = .next (answer .dispatch (ruleSetLampFreshness minutes s).2 (ruleSetLampFreshness minutes s).1) :=
  event_takeCommand_of_ready _ hr (by decide) (by simp)

theorem exec_setClearanceWindow_of_ready {minutes : Byte} {s : State} (hr : s.ready .dispatch) :
    exec (.setClearanceWindow .dispatch minutes) s
      = .next (answer .dispatch (ruleSetClearanceWindow minutes s).2 (ruleSetClearanceWindow minutes s).1) :=
  event_takeCommand_of_ready _ hr (by decide) (by simp)

theorem exec_setScanPeriod_of_ready {minutes : Byte} {s : State} (hr : s.ready .workshop) :
    exec (.setScanPeriod .workshop minutes) s
      = .next (answer .workshop (ruleSetScanPeriod minutes s).2 (ruleSetScanPeriod minutes s).1) :=
  event_takeCommand_of_ready _ hr (by decide) (by simp)

/-- R130: a countdown is cut to the new period. -/
theorem min_period_eq (p : Nat) : min p = fun ms => if p < ms then p else ms := by
  funext ms
  split_ifs <;> omega

/-- Settles O26: each setting is clamped, and the answer tells whether it was. -/
theorem settingsTaken : Obligations.SettingsTaken := by
  unfold Obligations.SettingsTaken
  refine ⟨fun temperature s hr => ?_, fun minutes s hr => ?_, fun minutes s hr => ?_, fun minutes s hr => ?_⟩
  · rw [exec_setWeather_of_ready hr, ruleSetWeather, takenStatus_of_int]
    rfl
  · rw [exec_setLampFreshness_of_ready hr, ruleSetLampFreshness, takenStatus_of_nat]
    rfl
  · rw [exec_setClearanceWindow_of_ready hr, ruleSetClearanceWindow, takenStatus_of_nat]
    rfl
  · intro m
    rw [exec_setScanPeriod_of_ready hr, ruleSetScanPeriod, takenStatus_of_nat, ← min_period_eq (m * 60000)]
    rfl

/-! ## What shedding changes (R93) -/

theorem shedSome_eq_foldl (n : Nat) (s : State) :
    ∃ ms : List Member, shedSome n s = ms.foldl (fun s m => leaveOnSet m.bay s) s := by
  induction n generalizing s with
  | zero => exact ⟨[], rfl⟩
  | succ n ih =>
    cases hm : s.seq.nextShed with
    | none => exact ⟨[], by simp [shedSome, hm]⟩
    | some m =>
      obtain ⟨ms, hms⟩ := ih (leaveOnSet m.bay s)
      exact ⟨m :: ms, by simp [shedSome, hm, hms]⟩

/-- R93: bays leave the on-set one after the other. -/
theorem shed_eq_foldl (s : State) : ∃ ms : List Member, shed s = ms.foldl (fun s m => leaveOnSet m.bay s) s := by
  unfold shed
  split_ifs
  · exact ⟨_, rfl⟩
  · exact shedSome_eq_foldl _ s

theorem shed_leaves (s : State) : s.leaves (shed s) fun b => !(shed s).seq.onSet.any (·.bay == b) := by
  obtain ⟨ms, hms⟩ := shed_eq_foldl s
  have hset := foldl_leaveOnSet_onSet ms s
  refine leaves_congr (fun m hm => ?_) (hms ▸ leaves_foldl ms s)
  rw [hms, hset, Bool.eq_iff_iff, Bool.not_eq_true', List.any_eq_false]
  constructor
  · intro hgone x hx
    rw [List.mem_filter, Bool.not_eq_true'] at hx
    intro hbay
    rw [beq_iff_eq] at hbay
    rw [hbay, hgone] at hx
    exact Bool.noConfusion hx.2
  · intro hnone
    by_contra hstays
    exact hnone m (List.mem_filter.mpr ⟨hm, by simpa using hstays⟩) (by simp)

theorem leaves_onSet {s t : State} {gone : BayNo → Bool} (h : s.leaves t gone) :
    t.seq.onSet = s.seq.onSet.filter fun m => !gone m.bay := ((leaves_iff _ _ _).mp h).1

/-- R91: a member gone is commanded OFF. -/
theorem leaves_commanded {s t : State} {gone : BayNo → Bool} (h : s.leaves t gone) {m : Member} (hm : m ∈ s.seq.onSet)
    (hgone : gone m.bay = true) : t.seq.commanded[m.bay].on = false := by
  obtain ⟨-, hcmd, -⟩ := (leaves_iff _ _ _).mp h
  have hstands : s.seq.onSet.any (·.bay == m.bay) = true := List.any_eq_true.mpr ⟨m, hm, by simp⟩
  have hbay : t.seq.commanded[m.bay] = if s.switchedOff gone m.bay then ⟨false, s.now⟩ else s.seq.commanded[m.bay] := by
    rw [hcmd]; simp
  rw [hbay, State.switchedOff, hstands, hgone]
  cases hon : s.seq.commanded[m.bay].on with
  | true => simp
  | false => simpa using hon

/-- R90, R91: the entry of a member gone is MISSED. -/
theorem leaves_chain {s t : State} {gone : BayNo → Bool} (h : s.leaves t gone) (hn : (s.seq.onSet.map (·.bay)).Nodup) {m : Member}
    (hm : m ∈ s.seq.onSet) (hgone : gone m.bay = true) {i : Nat} {e : Entry} (hi : m.entry = some i) (he : t.seq.chain[i]? = some e) :
    e.status = .missed := by
  obtain ⟨-, -, hchain, -⟩ := (leaves_iff _ _ _).mp h
  have hmissed : s.missedAt gone i = true := List.any_eq_true.mpr ⟨m, hm, by simp [hgone, hi]⟩
  rw [hchain hn, List.getElem?_mapIdx, Option.map_eq_some_iff] at he
  obtain ⟨x, -, rfl⟩ := he
  simp [hmissed]

theorem leaves_frame {s t : State} {gone : BayNo → Bool} (h : s.leaves t gone) : t.withHeatingOf s = s := by
  obtain ⟨-, -, -, -, -, hframe⟩ := (leaves_iff _ _ _).mp h
  exact hframe

theorem leaves_total {s t : State} {gone : BayNo → Bool} (h : s.leaves t gone) : t.seq.total = s.seq.total :=
  congrArg (fun u : State => u.seq.total) (a₁ := t.withHeatingOf s) (leaves_frame h)

theorem leaves_feeders {s t : State} {gone : BayNo → Bool} (h : s.leaves t gone) : t.seq.feeders = s.seq.feeders :=
  congrArg (fun u : State => u.seq.feeders) (a₁ := t.withHeatingOf s) (leaves_frame h)

theorem leaves_held {s t : State} {gone : BayNo → Bool} (h : s.leaves t gone) : t.seq.held = s.seq.held :=
  congrArg (fun u : State => u.seq.held) (a₁ := t.withHeatingOf s) (leaves_frame h)

theorem leaves_stuck {s t : State} {gone : BayNo → Bool} (h : s.leaves t gone) : t.seq.stuck = s.seq.stuck :=
  congrArg (fun u : State => u.seq.stuck) (a₁ := t.withHeatingOf s) (leaves_frame h)

theorem leaves_feedAlarm {s t : State} {gone : BayNo → Bool} (h : s.leaves t gone) : t.seq.feedAlarm = s.seq.feedAlarm :=
  congrArg (fun u : State => u.seq.feedAlarm) (a₁ := t.withHeatingOf s) (leaves_frame h)

/-! ## Who is shed (R93) -/

theorem fixedExceed_eq_true_iff (q : Sequencer) : q.fixedExceed = true ↔
    q.total < fixedUnits q.held + fixedUnits q.stuck
      ∨ ∃ f : Fin 4, q.feeders[f] < fixedUnitsOn f q.held + fixedUnitsOn f q.stuck := by
  simp [Sequencer.fixedExceed, allFeeders]

/-- R93: a member whose removal lowers a load that is over its limit. -/
def Sequencer.bears (q : Sequencer) (m : Member) : Prop := q.total < q.load ∨ q.feeders[m.feeder] < q.loadOn m.feeder

theorem nextShed_eq_none {q : Sequencer} (h : ∀ m ∈ q.onSet, ¬ q.bears m) : q.nextShed = none := by
  simp only [Sequencer.nextShed, List.find?_eq_none, List.mem_reverse, Bool.or_eq_true, decide_eq_true_eq]
  exact h

theorem nextShed_eq_some {q : Sequencer} {before after : List Member} {m : Member} (hq : q.onSet = before ++ m :: after)
    (hm : q.bears m) (hafter : ∀ x ∈ after, ¬ q.bears x) : q.nextShed = some m := by
  rw [Sequencer.nextShed, List.find?_eq_some_iff_append]
  refine ⟨by simpa [Sequencer.bears] using hm, after.reverse, before.reverse, by simp [hq], fun x hx => ?_⟩
  simpa [Sequencer.bears] using hafter x (List.mem_reverse.mp hx)

theorem shedSome_of_none {s : State} (h : s.seq.nextShed = none) (n : Nat) : shedSome n s = s := by
  cases n with
  | zero => rfl
  | succ n => simp [shedSome, h]

theorem shedSome_of_some {s : State} {m : Member} (h : s.seq.nextShed = some m) (n : Nat) :
    shedSome (n + 1) s = shedSome n (leaveOnSet m.bay s) := by
  simp [shedSome, h]

/-- R93, step 2: with the on-set's length or more to go, only the on-set counts. -/
theorem shedSome_enough {n k : Nat} {s : State} (hn : s.seq.onSet.length ≤ n) (hk : s.seq.onSet.length ≤ k) :
    shedSome n s = shedSome k s := by
  induction n generalizing k s with
  | zero =>
    have hempty : s.seq.onSet = [] := List.length_eq_zero_iff.mp (Nat.le_zero.mp hn)
    have hnone : s.seq.nextShed = none := nextShed_eq_none (by simp [hempty])
    rw [shedSome_of_none hnone, shedSome_of_none hnone]
  | succ n ih =>
    cases hm : s.seq.nextShed with
    | none => rw [shedSome_of_none hm, shedSome_of_none hm]
    | some m =>
      have hlen := leaveOnSet_shorter (List.mem_reverse.mp (List.mem_of_find?_eq_some hm))
      cases k with
      | zero => omega
      | succ k =>
        rw [shedSome_of_some hm, shedSome_of_some hm]
        exact ih (by omega) (by omega)

theorem shed_of_within {s : State} (hfixed : s.seq.fixedExceed = false) (h : ∀ m ∈ s.seq.onSet, ¬ s.seq.bears m) : shed s = s := by
  rw [shed, hfixed, if_neg (by simp), shedSome_of_none (nextShed_eq_none h)]

/-- R93, step 2: the member that goes first. -/
theorem shed_of_bears {s : State} (hfixed : s.seq.fixedExceed = false) {before after : List Member} {m : Member}
    (hq : s.seq.onSet = before ++ m :: after) (hm : s.seq.bears m) (hafter : ∀ x ∈ after, ¬ s.seq.bears x) :
    shed s = shed (leaveOnSet m.bay s) := by
  have hmem : m ∈ s.seq.onSet := by simp [hq]
  have hlen := leaveOnSet_shorter hmem
  have hfixed' : (leaveOnSet m.bay s).seq.fixedExceed = false := by simpa using hfixed
  obtain ⟨n, hn⟩ : ∃ n, s.seq.onSet.length = n + 1 := ⟨s.seq.onSet.length - 1, by omega⟩
  rw [shed, hfixed, if_neg (by simp), shed, hfixed', if_neg (by simp), hn, shedSome_of_some (nextShed_eq_some hq hm hafter)]
  exact shedSome_enough (by omega) le_rfl

theorem load_of_onSet {q : Sequencer} : q.load = memberUnits q.onSet + (fixedUnits q.held + fixedUnits q.stuck) := by
  rw [Sequencer.load, Nat.add_assoc]

theorem loadOn_leaveOnSet_le (b : BayNo) (s : State) (f : Fin 4) : (leaveOnSet b s).seq.loadOn f ≤ s.seq.loadOn f := by
  have hset := leaves_onSet (leaveOnSet_leaves b s)
  have hheld := leaves_held (leaveOnSet_leaves b s)
  have hstuck := leaves_stuck (leaveOnSet_leaves b s)
  rw [Sequencer.loadOn, Sequencer.loadOn, hheld, hstuck, hset]
  refine Nat.add_le_add_right (Nat.add_le_add_right ?_ _) _
  exact (((List.filter_sublist).filter _).map _).sum_le_sum fun _ _ => Nat.zero_le _

/-- R93: in a list of distinct bays the one that stands last leaves the ones before it. -/
theorem filter_ne_last {before : List Member} {m : Member} (hn : ((before ++ [m]).map (·.bay)).Nodup) :
    (before ++ [m]).filter (fun x => !(x.bay == m.bay)) = before := by
  rw [List.map_append, List.nodup_append] at hn
  obtain ⟨-, -, hne⟩ := hn
  rw [List.filter_append, List.filter_eq_self.mpr fun x hx => ?_]
  · simp
  · simpa using hne x.bay (List.mem_map_of_mem hx) m.bay (by simp)

/-- R93: with distinct members and no feeder over its limit the last members go, and no more than it takes. -/
theorem shedSome_take (k : Nat) (s : State) (hn : (s.seq.onSet.map (·.bay)).Nodup) (hf : ∀ f : Fin 4, s.seq.loadOn f ≤ s.seq.feeders[f]) :
    ∃ n, (shedSome k s).seq.onSet = s.seq.onSet.take n
      ∧ (n < s.seq.onSet.length →
          s.seq.total < memberUnits (s.seq.onSet.take (n + 1)) + (fixedUnits s.seq.held + fixedUnits s.seq.stuck)) := by
  have hstop : ∃ n, s.seq.onSet = s.seq.onSet.take n ∧ (n < s.seq.onSet.length →
      s.seq.total < memberUnits (s.seq.onSet.take (n + 1)) + (fixedUnits s.seq.held + fixedUnits s.seq.stuck)) :=
    ⟨_, List.take_length.symm, fun h => absurd h (lt_irrefl _)⟩
  induction k generalizing s with
  | zero => exact hstop
  | succ k ih =>
    cases hm : s.seq.nextShed with
    | none => rwa [shedSome_of_none hm]
    | some m =>
      have hover : s.seq.total < s.seq.load := by
        have := List.find?_some hm
        simp only [Bool.or_eq_true, decide_eq_true_eq] at this
        exact this.resolve_right (not_lt.mpr (hf _))
      rcases List.eq_nil_or_concat s.seq.onSet with hnil | ⟨before, last, hlast⟩
      · simp [Sequencer.nextShed, hnil] at hm
      obtain rfl : last = m := by
        have := nextShed_eq_some (hlast.trans List.concat_eq_append) (.inl hover) (by simp)
        rw [hm] at this
        exact (Option.some.inj this).symm
      rw [List.concat_eq_append] at hlast
      have hrest : (leaveOnSet last.bay s).seq.onSet = before := by
        rw [leaves_onSet (leaveOnSet_leaves last.bay s), hlast]
        exact filter_ne_last (hlast ▸ hn)
      have hleaves := leaveOnSet_leaves last.bay s
      have hn' : ((leaveOnSet last.bay s).seq.onSet.map (·.bay)).Nodup := by
        rw [hrest]
        rw [hlast, List.map_append] at hn
        exact hn.sublist (List.sublist_append_left ..)
      have hf' : ∀ f : Fin 4, (leaveOnSet last.bay s).seq.loadOn f ≤ (leaveOnSet last.bay s).seq.feeders[f] := fun f => by
        rw [leaves_feeders hleaves]
        exact (loadOn_leaveOnSet_le _ _ f).trans (hf f)
      obtain ⟨n, htake, hmore⟩ := ih (leaveOnSet last.bay s) hn' hf'
        ⟨_, List.take_length.symm, fun h => absurd h (lt_irrefl _)⟩
      rw [leaves_total hleaves, leaves_held hleaves, leaves_stuck hleaves, hrest] at hmore
      refine ⟨min n before.length, ?_, fun hlt => ?_⟩
      · rw [shedSome_of_some hm, htake, hrest, hlast]
        rw [List.take_append_of_le_length (Nat.min_le_right ..), List.take_eq_take_iff]
        omega
      · rcases Nat.lt_or_ge n before.length with h | h
        · rw [Nat.min_eq_left h.le, hlast, List.take_append_of_le_length h]
          exact hmore h
        · rw [Nat.min_eq_right h, List.take_of_length_le (by simp [hlast]), ← load_of_onSet]
          exact hover

/-! ## The limits (R92) -/

theorem exec_setFeedLimits_of_ready {a : FeedLimitArgs} {s : State} (hr : s.ready .dispatch) :
    exec (.setFeedLimits .dispatch a) s = .next (answer .dispatch (ruleSetFeedLimits a s).2 (ruleSetFeedLimits a s).1) :=
  event_takeCommand_of_ready _ hr (by decide) (by simp)

theorem limitTaken_eq_elim (most old : Nat) (v : Option Byte) : limitTaken most old v = v.elim old fun b => min most b.toNat := by
  cases v <;> rfl

theorem limitClamped_iff (most : Nat) (v : Option Byte) : limitClamped most v = true ↔ ∃ b, v = some b ∧ most < b.toNat := by
  cases v <;> simp [limitClamped]

/-- R92: the limits after the command, feeder by feeder. -/
theorem setLimits_eq (a : FeedLimitArgs) (s : State) :
    setLimits a s = { s with seq := { s.seq with
      total := a.total.elim s.seq.total fun b => min 96 b.toNat
      feeders := Vector.ofFn fun f => (#v[a.feeder0, a.feeder1, a.feeder2, a.feeder3])[f].elim s.seq.feeders[f] fun b => min 48 b.toNat } } := by
  simp only [setLimits, State.updSeq, limitTaken_eq_elim]
  rfl

/-- Settles O28: the command sheds after the limits are written; shedding is bays leaving one after the other, and the feed alarm sheds all. -/
theorem feedLimitsSet : Obligations.FeedLimitsSet := by
  unfold Obligations.FeedLimitsSet
  refine ⟨?limits, ?shedding, ?alarm, fun s => rfl⟩
  case limits =>
    intro a s hr given total feeders q fixed t
    have hset : setLimits a s = { s with seq := q } := setLimits_eq a s
    have hleaves := shed_leaves { s with seq := q }
    refine ⟨takenStatus (limitClamped 96 a.total || limitClamped 48 a.feeder0 || limitClamped 48 a.feeder1 || limitClamped 48 a.feeder2
      || limitClamped 48 a.feeder3), ?_, takenStatus_eq_ok_or_okClamped _, ?_, leaves_total hleaves, leaves_feeders hleaves, loadSound_shed _, ?_,
      fun m hm hgone => leaves_commanded hleaves hm ?_, fun hwithin => ?_, fun hn hfixed hf => ?_, ?_⟩
    · rw [exec_setFeedLimits_of_ready hr, ruleSetFeedLimits, hset]
    · rw [takenStatus_eq_okClamped_iff]
      simp only [Bool.or_eq_true, limitClamped_iff, or_assoc]
      refine or_congr_right ?_
      simp [Fin.exists_fin_succ, given]
    · rw [leaves_onSet hleaves]
      exact List.filter_sublist
    · by_contra hstays
      refine hgone ?_
      rw [leaves_onSet hleaves]
      exact List.mem_filter.mpr ⟨hm, by simpa using hstays⟩
    · obtain ⟨htotal, hfeeders⟩ := hwithin
      have hfixed : q.fixedExceed = false := by
        rw [Bool.eq_false_iff, ne_eq, fixedExceed_eq_true_iff, not_or, not_exists]
        refine ⟨not_lt.mpr ?_, fun f => not_lt.mpr ?_⟩
        · rw [load_of_onSet] at htotal
          exact (Nat.le_add_left ..).trans htotal
        · refine le_trans ?_ (hfeeders f)
          rw [Sequencer.loadOn, Nat.add_assoc]
          exact Nat.le_add_left ..
      exact shed_of_within hfixed fun m _ hbears => hbears.elim (not_lt.mpr htotal) (not_lt.mpr (hfeeders _))
    · have ht : t = shedSome q.onSet.length { s with seq := q } := by
        simp only [t, shed, hfixed, Bool.false_eq_true, if_false]
      rw [ht]
      exact shedSome_take _ _ hn hf
    · exact congrArg (fun u : State => { u with seq := s.seq, bus := s.bus }) (shed_frame { s with seq := q })
  case shedding =>
    intro s t q bears fixedOver
    have hfixed : ¬ fixedOver → s.seq.fixedExceed = false := fun h => by
      rwa [Bool.eq_false_iff, ne_eq, fixedExceed_eq_true_iff]
    refine ⟨shed_leaves s, fun h => ?_, fun h hnone => shed_of_within (hfixed h) hnone,
      fun h before after m hq hm hafter => shed_of_bears (hfixed h) hq hm hafter⟩
    have hexceed : s.seq.fixedExceed = true := (fixedExceed_eq_true_iff _).mpr h
    simp only [t, shed, hexceed, if_true, shedAll_onSet]
  case alarm =>
    intro s hheld
    refine ⟨assertAlarm s, by simp [exec, execFeedAlarmAsserted, hheld], ?_⟩
    have hleaves : State.leaves { s with seq := { s.seq with feedAlarm := true } } (assertAlarm s) fun _ => true := by
      refine leaves_congr (fun m hm => ?_) (leaves_foldl s.seq.onSet.reverse { s with seq := { s.seq with feedAlarm := true } })
      exact List.any_eq_true.mpr ⟨m, List.mem_reverse.mpr hm, by simp⟩
    refine ⟨hleaves, leaves_feedAlarm hleaves, shedAll_onSet _, fun m hm => leaves_commanded hleaves hm rfl,
      fun hn m hm i e hi he => leaves_chain hleaves hn hm rfl hi he, (leaves_held hleaves :), (leaves_stuck hleaves :), ?_⟩
    exact congrArg (fun u : State => { u with seq := s.seq, bus := s.bus }) (shedAll_frame _)

end Sys2Proof.Machine

/-! PROOF. The book of departures: its order (R40), its records by ref (R38), the binding of R44, and the commands BOOK, AMEND, ASSIGN COACH and
CANCEL. -/

namespace Sys2Proof.Machine

/-! ## Book order (R40) -/

theorem before_asymm {t : Nat} {a b : Departure} (h : a.before t b = true) : b.before t a = false := by
  unfold Departure.before at *
  cases ha : a.overdue <;> cases hb : b.overdue <;> simp_all <;> omega

theorem before_trans {t : Nat} {a b c : Departure} (hba : b.before t a = false) (hcb : c.before t b = false) : c.before t a = false := by
  unfold Departure.before at *
  cases ha : a.overdue <;> cases hb : b.overdue <;> cases hc : c.overdue <;> simp_all <;> omega

/-- R40: the keys of the order. -/
theorem before_congr {t : Nat} {a a' b b' : Departure} (ha : a.overdue = a'.overdue) (hma : a.minute = a'.minute)
    (hka : a.booking = a'.booking) (hb : b.overdue = b'.overdue) (hmb : b.minute = b'.minute) (hkb : b.booking = b'.booking) :
    a.before t b = a'.before t b' := by
  unfold Departure.before Departure.ahead
  rw [ha, hma, hka, hb, hmb, hkb]

section Sorting

variable {α : Type} {before : α → α → Bool} (hasymm : ∀ a b, before a b = true → before b a = false)
  (htrans : ∀ a b c, before b a = false → before c b = false → before c a = false)
include hasymm htrans

theorem insertSorted_pairwise (x : α) {xs : List α} (h : xs.Pairwise fun x y => before y x = false) :
    (insertSorted (fun a b => !before b a) x xs).Pairwise fun x y => before y x = false := by
  induction xs with
  | nil => simp [insertSorted]
  | cons y ys ih =>
    obtain ⟨hy, hys⟩ := List.pairwise_cons.mp h
    unfold insertSorted
    split
    · next hxy =>
      have hxy : before y x = false := by simpa using hxy
      refine List.pairwise_cons.mpr ⟨fun z hz => ?_, h⟩
      rcases List.mem_cons.mp hz with rfl | hz
      · exact hxy
      · exact htrans _ _ _ hxy (hy z hz)
    · next hyx =>
      have hyx : before y x = true := by simpa using hyx
      refine List.pairwise_cons.mpr ⟨fun z hz => ?_, ih hys⟩
      rcases List.mem_cons.mp ((insertSorted_perm _ x ys).subset hz) with rfl | hz
      · exact hasymm _ _ hyx
      · exact hy z hz

theorem sortBy_pairwise (xs : List α) : (sortBy before xs).Pairwise fun x y => before y x = false := by
  induction xs with
  | nil => exact List.Pairwise.nil
  | cons x xs ih => exact insertSorted_pairwise hasymm htrans x ih

end Sorting

theorem reorder_pairwise (s : State) :
    (reorder s).book.records.Pairwise fun x y => y.before s.clock.minute x = false :=
  sortBy_pairwise (before := Departure.before s.clock.minute) (fun _ _ => before_asymm) (fun _ _ _ => before_trans) _

theorem reorder_perm (s : State) : (reorder s).book.records.Perm s.book.records := sortBy_perm ..

/-! ## Records by ref (R38) -/

theorem Book.find_eq_none_iff (k : Book) (ref : Nat) : k.find ref = none ↔ ∀ d ∈ k.records, d.ref ≠ ref := by
  simp [Book.find]

/-- A record that alone carries its ref is the one found. -/
theorem Book.find_eq_some_of_unique {k : Book} {d : Departure} (hd : d ∈ k.records) (hn : ∀ e ∈ k.records, e.ref = d.ref → e = d) :
    k.find d.ref = some d := by
  obtain ⟨e, he⟩ : ∃ e, k.find d.ref = some e := Option.isSome_iff_exists.mp (List.find?_isSome.mpr ⟨d, hd, beq_self_eq_true _⟩)
  have href : e.ref = d.ref := by simpa using List.find?_some he
  rw [he, hn e (List.mem_of_find?_eq_some he) href]

theorem Book.find_eq_some {k : Book} {d : Departure} (hd : d ∈ k.records) (hn : (k.records.map (·.ref)).Nodup) : k.find d.ref = some d :=
  Book.find_eq_some_of_unique hd fun _ he href => List.inj_on_of_nodup_map hn he hd href

theorem Book.mem_of_find {k : Book} {ref : Nat} {d : Departure} (h : k.find ref = some d) : d ∈ k.records ∧ d.ref = ref :=
  ⟨List.mem_of_find?_eq_some h, by simpa using List.find?_some h⟩

/-- R52: the position of the record found. -/
theorem Book.getElem?_position {k : Book} {ref : Nat} {d : Departure} (h : k.find ref = some d) : k.records[k.position ref]? = some d := by
  rw [Book.find, List.find?_eq_some_iff_getElem] at h
  obtain ⟨hp, i, hi, rfl, hbefore⟩ := h
  have hidx : k.records.findIdx (·.ref == ref) = i := by
    rw [List.findIdx_eq hi]
    exact ⟨hp, fun j hj => by simpa using hbefore j hj⟩
  rw [Book.position, hidx, List.getElem?_eq_getElem hi]

theorem boundTo_eq_none_iff (k : Book) (b : BayNo) : k.boundTo b = none ↔ ∀ d ∈ k.records, d.bay ≠ some b := by
  simp [Book.boundTo]

/-- The state with the records changed that carry a ref. -/
theorem updRecord_eq (ref : Nat) (f : Departure → Departure) (s : State) : updRecord ref f s =
    { s with book := { s.book with records := s.book.records.map fun x => if x.ref = ref then f x else x } } := rfl

/-! ## Binding (R44) -/

/-- R44: the record d as it binds at bay b. -/
def Departure.boundAt (b : BayNo) (d : Departure) : Departure := { d with state := .bound, bay := some b }

theorem bindWhere_of_found {p : Departure → Bool} {b : BayNo} {s : State} {c : Nat} {d : Departure} (hbay : (s.bay b).state = .bound)
    (hfree : s.book.boundTo b = none) (hc : (s.bay b).coach = some c)
    (hd : (s.book.records.find? fun d => p d && d.state == .booked && d.coach == some c) = some d) :
    bindWhere p b s = notifyBay .departure b (updRecord d.ref (Departure.boundAt b) s) := by
  rw [bindWhere, if_pos ⟨hbay, hfree⟩]
  simp only [hc, hd]
  rfl

theorem bindWhere_of_taken {p : Departure → Bool} {b : BayNo} {s : State} (h : (s.bay b).state ≠ .bound ∨ s.book.boundTo b ≠ none) :
    bindWhere p b s = s := by
  rw [bindWhere, if_neg (by tauto)]

theorem bindWhere_of_not_found {p : Departure → Bool} {b : BayNo} {s : State}
    (h : ∀ c, (s.bay b).coach = some c → (s.book.records.find? fun d => p d && d.state == .booked && d.coach == some c) = none) :
    bindWhere p b s = s := by
  unfold bindWhere
  split
  · split
    · rfl
    · next c hc => simp [h c hc]
  · rfl

/-- R44: either nothing binds, or a BOOKED record of the bay's coach does, at a BOUND bay without a departure. -/
theorem bindWhere_cases (p : Departure → Bool) (b : BayNo) (s : State) : bindWhere p b s = s
    ∨ ∃ d ∈ s.book.records, p d = true ∧ d.state = .booked ∧ d.coach ≠ none ∧ (s.bay b).coach = d.coach ∧ (s.bay b).state = .bound
      ∧ bindWhere p b s = notifyBay .departure b (updRecord d.ref (Departure.boundAt b) s) := by
  unfold bindWhere
  split
  · next h =>
    obtain ⟨hbay, hfree⟩ := h
    split
    · exact .inl rfl
    · next c hc =>
      split
      · exact .inl rfl
      · next d hd =>
        have hp := List.find?_some hd
        simp only [Bool.and_eq_true, beq_iff_eq] at hp
        obtain ⟨⟨hp, hbooked⟩, hcoach⟩ := hp
        exact .inr ⟨d, List.mem_of_find?_eq_some hd, hp, hbooked, by simp [hcoach], by rw [hc, hcoach], hbay, rfl⟩
  · exact .inl rfl

theorem bayOfCoach_eq_some {s : State} {c : Nat} {b : BayNo} (h : s.bayOfCoach c = some b) : (s.bay b).coach = some c := by
  have := List.find?_some h
  simp only [Bool.and_eq_true, beq_iff_eq] at this
  exact this.2

/-- R44: the record booked or assigned binds where its coach is bound, at a bay without a departure. -/
theorem bindRecord_of_binds {ref c : Nat} {b : BayNo} {d : Departure} {s : State} (hd : s.book.find ref = some d)
    (hbooked : d.state = .booked) (hc : d.coach = some c) (hb : s.bayOfCoach c = some b) (hbay : (s.bay b).state = .bound)
    (hfree : s.book.boundTo b = none) :
    bindRecord ref s = notifyBay .departure b (updRecord ref (Departure.boundAt b) s) := by
  have href : d.ref = ref := (Book.mem_of_find hd).2
  have hfound : (s.book.records.find? fun d => d.ref == ref && d.state == .booked && d.coach == some c) = some d := by
    rw [Book.find, List.find?_eq_some_iff_append] at hd
    obtain ⟨hp, as, bs, hrecords, hbefore⟩ := hd
    rw [List.find?_eq_some_iff_append]
    refine ⟨by simp [hp, hbooked, hc], as, bs, hrecords, fun x hx => ?_⟩
    have := hbefore x hx
    simp_all
  simp only [bindRecord, hd, Option.bind_some, hc, hb]
  rw [bindWhere_of_found hbay hfree (bayOfCoach_eq_some hb) hfound, href]

theorem bindRecord_of_not {ref : Nat} {s : State} (h : ∀ d c b, s.book.find ref = some d → d.coach = some c → s.bayOfCoach c = some b →
    (s.bay b).state ≠ .bound ∨ s.book.boundTo b ≠ none) : bindRecord ref s = s := by
  unfold bindRecord
  split
  · rfl
  · next c hc =>
    split
    · rfl
    · next b hb =>
      obtain ⟨d, hd, hdc⟩ := Option.bind_eq_some_iff.mp hc
      exact bindWhere_of_taken (h d c b hd hdc hb)

/-- R44: binding touches no key of the order, and no other record. -/
theorem bindRecord_book (ref : Nat) (s : State) : ∃ f : Departure → Departure,
    (∀ x, (f x).ref = x.ref ∧ (f x).overdue = x.overdue ∧ (f x).minute = x.minute ∧ (f x).booking = x.booking)
    ∧ (∀ x, x.ref ≠ ref → f x = x) ∧ (bindRecord ref s).book = { s.book with records := s.book.records.map f } := by
  have hid : ∃ f : Departure → Departure,
      (∀ x, (f x).ref = x.ref ∧ (f x).overdue = x.overdue ∧ (f x).minute = x.minute ∧ (f x).booking = x.booking)
      ∧ (∀ x, x.ref ≠ ref → f x = x) ∧ s.book = { s.book with records := s.book.records.map f } :=
    ⟨id, fun x => ⟨rfl, rfl, rfl, rfl⟩, fun x _ => rfl, by simp⟩
  unfold bindRecord
  split
  · exact hid
  · split
    · exact hid
    · next b _ =>
      rcases bindWhere_cases (·.ref == ref) b s with h | ⟨d, -, hd, -, -, -, -, h⟩
      · rw [h]; exact hid
      · rw [h, eq_of_beq hd]
        refine ⟨fun x => if x.ref = ref then x.boundAt b else x, fun x => ?_, fun x hx => if_neg hx, rfl⟩
        dsimp only
        split_ifs <;> exact ⟨rfl, rfl, rfl, rfl⟩

/-! ## BOOK -/

theorem exec_book_of_ready {a : BookArgs} {s : State} (hr : s.ready .dispatch) :
    exec (.book .dispatch a) s = .next (answer .dispatch (ruleBook a s).2 (ruleBook a s).1) :=
  event_takeCommand_of_ready _ hr (by decide) (by simp)

theorem exec_book_of_refusal {a : BookArgs} {s : State} {st : Status} (hr : s.ready .dispatch) (h : s.bookRefusal a = some st) :
    exec (.book .dispatch a) s = .next (answer .dispatch ⟨st, .empty⟩ s) := by
  simp [exec_book_of_ready hr, ruleBook, h, refusal]

theorem carriedAnd_iff {α : Type} (f : α → Bool) (v : Option α) : carriedAnd f v = true ↔ ∃ x, v = some x ∧ f x = true := by
  cases v <;> simp [carriedAnd]

theorem targetClamped_iff (h : Half) : targetClamped h = true ↔ max 160 (min 384 h.toInt) ≠ h.toInt := bne_iff_ne

theorem leadClamped_iff (b : Byte) : leadClamped b = true ↔ max 10 (min 240 b.toNat) ≠ b.toNat := bne_iff_ne

theorem minuteClamped_iff (h : Half) : minuteClamped h = true ↔ min 1439 h.toNat ≠ h.toNat := bne_iff_ne

/-- A change of records that keeps the refs keeps who is not of a ref. -/
theorem filter_ref_map {f : Departure → Departure} {ref : Nat} (hf : ∀ x, (f x).ref = x.ref) (hsame : ∀ x, x.ref ≠ ref → f x = x)
    (rs : List Departure) : (rs.map f).filter (·.ref != ref) = rs.filter (·.ref != ref) := by
  induction rs with
  | nil => rfl
  | cons x rs ih =>
    by_cases hx : x.ref = ref
    · simp [hf, hx, ih]
    · simp [hx, ih, hsame x hx]

theorem exists_ref_of_mem_readyNumber {k : Book} {e : Departure} (he : e ∈ k.readyNumber.records) : ∃ d ∈ k.records, d.ref = e.ref := by
  have hmem : e.ref ∈ k.records.map (·.ref) := readyNumber_refs k ▸ List.mem_map_of_mem (f := Departure.ref) he
  exact List.mem_map.mp hmem

theorem addRecord_records_perm (a : BookArgs) (s : State) :
    (addRecord a s).book.records.Perm (s.book.readyNumber.records ++ [newRecord a s.book.readyNumber.nextBooking]) := sortBy_perm ..

/-- R38: the record added stands in the book beside the others, renumbered or not, of which none has its ref. -/
theorem addRecord_others (a : BookArgs) (s : State) (hnew : ∀ d ∈ s.book.records, d.ref ≠ a.ref.toNat) :
    ((addRecord a s).book.records.filter (·.ref != a.ref.toNat)).Perm s.book.readyNumber.records := by
  have hkept : s.book.readyNumber.records.filter (·.ref != a.ref.toNat) = s.book.readyNumber.records := by
    refine List.filter_eq_self.mpr fun d hd => ?_
    obtain ⟨e, he, href⟩ := exists_ref_of_mem_readyNumber hd
    simpa [← href] using hnew e he
  have hperm := (addRecord_records_perm a s).filter (·.ref != a.ref.toNat)
  rwa [List.filter_append, hkept, List.filter_cons_of_neg (by simp [newRecord]), List.filter_nil, List.append_nil] at hperm

theorem mem_addRecord (a : BookArgs) (s : State) : newRecord a s.book.readyNumber.nextBooking ∈ (addRecord a s).book.records :=
  (addRecord_records_perm a s).mem_iff.mpr (by simp)

theorem find_addRecord (a : BookArgs) (s : State) (hnew : ∀ d ∈ s.book.records, d.ref ≠ a.ref.toNat) :
    (addRecord a s).book.find a.ref.toNat = some (newRecord a s.book.readyNumber.nextBooking) := by
  refine Book.find_eq_some_of_unique (mem_addRecord a s) fun e he href => ?_
  rcases List.mem_append.mp ((addRecord_records_perm a s).mem_iff.mp he) with he | he
  · obtain ⟨d, hd, hdref⟩ := exists_ref_of_mem_readyNumber he
    exact absurd (hdref.trans href) (hnew d hd)
  · simpa using he

theorem readyNumber_of_le {k : Book} (h : k.nextBooking ≤ 65535) : k.readyNumber = k := if_pos h

/-- R38: renumbering changes the numbers alone. -/
theorem readyNumber_of_gt {k : Book} (h : 65535 < k.nextBooking) :
    k.readyNumber.nextBooking = k.records.length + 1
      ∧ k.readyNumber.records.map (fun d => { d with booking := 0 }) = k.records.map fun d => { d with booking := 0 } := by
  rw [Book.readyNumber, if_neg (by omega)]
  exact ⟨rfl, by simp [renumber, Function.comp_def]⟩

theorem readyNumber_length (k : Book) : k.readyNumber.records.length = k.records.length := by
  simpa using congrArg List.length (readyNumber_refs k)

theorem readyNumber_boundTo {k : Book} {b : BayNo} (h : k.boundTo b = none) : k.readyNumber.boundTo b = none := by
  rw [boundTo_eq_none_iff] at h ⊢
  unfold Book.readyNumber
  split
  · exact h
  · intro d hd
    obtain ⟨e, he, rfl⟩ := List.mem_map.mp hd
    exact h e he

/-- R44, R41: the record booked is bound to no bay, so that a bay is without a departure as before. -/
theorem boundTo_addRecord {a : BookArgs} {s : State} {b : BayNo} (h : s.book.boundTo b = none) :
    (addRecord a s).book.boundTo b = none := by
  have hready := readyNumber_boundTo h
  rw [boundTo_eq_none_iff] at hready ⊢
  intro d hd
  rcases List.mem_append.mp ((addRecord_records_perm a s).mem_iff.mp hd) with hd | hd
  · exact hready d hd
  · obtain rfl := List.mem_singleton.mp hd
    simp [newRecord]

theorem boundTo_of_addRecord {a : BookArgs} {s : State} {b : BayNo} (h : (addRecord a s).book.boundTo b = none) :
    s.book.boundTo b = none := by
  rw [boundTo_eq_none_iff] at h ⊢
  intro d hd hbay
  obtain ⟨e, he, hebay⟩ : ∃ e ∈ s.book.readyNumber.records, e.bay = some b := by
    unfold Book.readyNumber
    split
    · exact ⟨d, hd, hbay⟩
    · exact ⟨_, List.mem_map_of_mem hd, hbay⟩
  exact h e ((addRecord_records_perm a s).mem_iff.mpr (List.mem_append_left _ he)) hebay

/-- Settles O30: the refusals in their order; then the record stands at its place in book order and is shown, and binding it touches no key of
that order. -/
theorem bookTaken : Obligations.BookTaken := by
  unfold Obligations.BookTaken
  intro a s hr m ahead no held room
  have hfind : (s.book.find a.ref.toNat).isSome = true ↔ held := by
    rw [Option.isSome_iff_ne_none, ne_eq, Book.find_eq_none_iff]
    simp [held]
  have hno : ∀ st, s.bookRefusal a = some st → no st := fun st h => exec_book_of_refusal hr h
  have hahead : minutesAheadOf (minuteTaken a.minute) s.clock.minute = ahead := rfl
  refine ⟨fun h => hno _ (by simp [State.bookRefusal, h]), fun h h₁ => hno _ (by simp [State.bookRefusal, h, h₁]),
    fun h h₁ h₂ => hno _ ?_, fun h h₁ h₂ h₃ => hno _ ?_, fun h h₁ h₂ h₃ h₄ => hno _ ?_, fun h h₁ h₂ h₃ h₄ => ?_⟩
  · simp [State.bookRefusal, h, h₁, hfind.mpr h₂]
  · simp [State.bookRefusal, h, h₁, hfind, h₂, bookRoom, not_lt.mp h₃]
  · simp [State.bookRefusal, h, h₁, hfind, h₂, bookRoom, show ¬ 48 ≤ s.book.records.length from not_le.mpr h₃, hahead, h₄]
  · have htaken : s.bookRefusal a = none := by
      simp [State.bookRefusal, h, h₁, hfind, h₂, bookRoom, show ¬ 48 ≤ s.book.records.length from not_le.mpr h₃, hahead, h₄]
    have hnew : ∀ d ∈ s.book.records, d.ref ≠ a.ref.toNat := fun d hd href => h₂ ⟨d, hd, href⟩
    have hfound := find_addRecord a s hnew
    obtain ⟨f, hkeys, hsame, hbook⟩ := bindRecord_book a.ref.toNat (addRecord a s)
    have hrecords : (bindRecord a.ref.toNat (addRecord a s)).book.records = (addRecord a s).book.records.map f := by rw [hbook]
    have hothers : ((bindRecord a.ref.toNat (addRecord a s)).book.records.filter (·.ref != a.ref.toNat)).Perm s.book.readyNumber.records := by
      rw [hrecords, filter_ref_map (fun x => (hkeys x).1) hsame]
      exact addRecord_others a s hnew
    refine ⟨newRecord a s.book.readyNumber.nextBooking, (addRecord a s).departureView (newRecord a s.book.readyNumber.nextBooking),
      takenStatus (bookClamped a), bindRecord a.ref.toNat (addRecord a s), ?exec, ?fields, departureView_shows _ _, rfl, ?position,
      takenStatus_eq_ok_or_okClamped _, ?status, ?length, ?sorted, ?numbered, ?renumbered, ?log, ?sequence, ?binds, ?stays⟩
    case exec =>
      rw [exec_book_of_ready hr]
      simp only [ruleBook, htaken, State.departureReply, hfound]
    case fields =>
      rw [newRecord]
      cases a.lead <;> rfl
    case position =>
      rw [hrecords, List.getElem?_map, Option.map_map]
      have hplace : (addRecord a s).book.records[(addRecord a s).book.position a.ref.toNat]?
        = some (newRecord a s.book.readyNumber.nextBooking) := Book.getElem?_position hfound
      exact (congrArg (Option.map _) hplace).trans (congrArg some (hkeys _).1)
    case status =>
      rw [takenStatus_eq_okClamped_iff]
      simp only [bookClamped, Bool.or_eq_true, carriedAnd_iff, targetClamped_iff, leadClamped_iff, minuteClamped_iff, or_assoc]
      exact Iff.rfl
    case length =>
      rw [hrecords, List.length_map, (addRecord_records_perm a s).length_eq, List.length_append, readyNumber_length]
      rfl
    case sorted =>
      rw [hrecords, List.pairwise_map]
      refine (reorder_pairwise _).imp fun {x y} hxy => ?_
      rw [before_congr (hkeys y).2.1 (hkeys y).2.2.1 (hkeys y).2.2.2 (hkeys x).2.1 (hkeys x).2.2.1 (hkeys x).2.2.2]
      exact hxy
    case numbered =>
      intro hnext
      have hready := readyNumber_of_le hnext
      refine ⟨by rw [hready]; rfl, ?_, by rw [hready] at hothers; exact hothers⟩
      rw [hbook]
      show s.book.readyNumber.nextBooking + 1 = _
      rw [hready]
    case renumbered =>
      intro hnext
      obtain ⟨hnumber, hzero⟩ := readyNumber_of_gt hnext
      refine ⟨hnumber, ?_, hzero ▸ hothers.map _⟩
      rw [hbook]
      show s.book.readyNumber.nextBooking + 1 = _
      rw [hnumber]
    case log =>
      rw [hbook]
      show s.book.readyNumber.log = _
      unfold Book.readyNumber
      split <;> rfl
    case sequence =>
      rw [hbook]
      show s.book.readyNumber.nextSequence = _
      unfold Book.readyNumber
      split <;> rfl
    case binds =>
      intro c b hc hb hbay hfree
      rw [bindRecord_of_binds (s := addRecord a s) hfound rfl hc hb hbay (boundTo_addRecord hfree)]
      exact ⟨List.mem_map.mpr ⟨_, mem_addRecord a s, if_pos rfl⟩, rfl⟩
    case stays =>
      intro hno
      rw [bindRecord_of_not fun d c b hd hc hb => ?_]
      · exact ⟨mem_addRecord a s, rfl⟩
      · rw [hfound] at hd
        obtain rfl := Option.some.inj hd
        exact (hno c b hc hb).imp_right fun hbound hnone => hbound (boundTo_of_addRecord hnone)

/-! ## AMEND and ASSIGN COACH -/

theorem exec_amend_of_ready {a : AmendArgs} {s : State} (hr : s.ready .dispatch) :
    exec (.amend .dispatch a) s = .next (answer .dispatch (ruleAmend a s).2 (ruleAmend a s).1) :=
  event_takeCommand_of_ready _ hr (by decide) (by simp)

theorem exec_assignCoach_of_ready {ref coach : Half} {s : State} (hr : s.ready .dispatch) :
    exec (.assignCoach .dispatch ref coach) s
      = .next (answer .dispatch (ruleAssignCoach ref coach s).2 (ruleAssignCoach ref coach s).1) :=
  event_takeCommand_of_ready _ hr (by decide) (by simp)

theorem exec_cancel_of_ready {ref : Half} {s : State} (hr : s.ready .dispatch) :
    exec (.cancel .dispatch ref) s = .next (answer .dispatch (ruleCancel ref s).2 (ruleCancel ref s).1) :=
  event_takeCommand_of_ready _ hr (by decide) (by simp)

theorem exec_amend_of_refusal {a : AmendArgs} {s : State} {st : Status} (hr : s.ready .dispatch) (h : s.amendRefusal a = some st) :
    exec (.amend .dispatch a) s = .next (answer .dispatch ⟨st, .empty⟩ s) := by
  simp [exec_amend_of_ready hr, ruleAmend, h, refusal]

theorem updRecord_refs {ref : Nat} {f : Departure → Departure} (hf : ∀ x, (f x).ref = x.ref) (s : State) :
    (updRecord ref f s).book.records.map (·.ref) = s.book.records.map (·.ref) := by
  rw [updRecord_eq, List.map_map]
  refine List.map_congr_left fun x _ => ?_
  dsimp only [Function.comp_apply]
  split_ifs <;> simp [hf]

/-- R38: a change of the records with a ref is a change of the one that has it. -/
theorem updRecord_records {s : State} {d : Departure} (hd : d ∈ s.book.records) (hn : (s.book.records.map (·.ref)).Nodup)
    (f : Departure → Departure) :
    (updRecord d.ref f s).book.records = s.book.records.map fun x => if x.ref = d.ref then f d else x := by
  rw [updRecord_eq]
  refine List.map_congr_left fun x hx => ?_
  split_ifs with href
  · rw [List.inj_on_of_nodup_map hn hx hd href]
  · rfl

theorem find_updRecord {s : State} {d : Departure} (hd : d ∈ s.book.records) (hn : (s.book.records.map (·.ref)).Nodup)
    {f : Departure → Departure} (hf : ∀ x, (f x).ref = x.ref) : (updRecord d.ref f s).book.find d.ref = some (f d) := by
  have hmem : f d ∈ (updRecord d.ref f s).book.records := by
    rw [updRecord_records hd hn]
    exact List.mem_map.mpr ⟨d, hd, if_pos rfl⟩
  have hfound := Book.find_eq_some hmem (by rwa [updRecord_refs hf])
  rwa [hf d] at hfound

theorem find_reorder {s : State} {d : Departure} (hd : s.book.find d.ref = some d) (hn : (s.book.records.map (·.ref)).Nodup) :
    (reorder s).book.find d.ref = some d :=
  Book.find_eq_some ((reorder_perm s).mem_iff.mpr (Book.mem_of_find hd).1) (((reorder_perm s).map _).nodup_iff.mpr hn)

/-- R42: the record amended, field by field. -/
theorem amended_eq (a : AmendArgs) (d : Departure) : amended a d = { d with
    minute := a.minute.elim d.minute fun h => min 1439 h.toNat
    overdue := if a.minute.isSome then none else d.overdue
    target := match a.target with
      | .keep => d.target
      | .set h => some (max 160 (min 384 h.toInt))
      | .remove => none
    lead := a.lead.elim d.lead fun b => max 10 (min 240 b.toNat) } := by
  unfold amended targetAfter
  cases a.minute <;> cases a.lead <;> rfl

theorem amendClamped_iff (a : AmendArgs) : amendClamped a = true ↔ (∃ h, a.minute = some h ∧ 1439 < h.toNat)
    ∨ (∃ h, a.target = .set h ∧ max 160 (min 384 h.toInt) ≠ h.toInt)
    ∨ ∃ b, a.lead = some b ∧ max 10 (min 240 b.toNat) ≠ b.toNat := by
  have hminute : ∀ h : Half, min 1439 h.toNat ≠ h.toNat ↔ 1439 < h.toNat := fun h => by omega
  simp only [amendClamped, Bool.or_eq_true, carriedAnd_iff, leadClamped_iff, minuteClamped_iff, hminute, or_assoc]
  cases a.target <;> simp [targetClamped_iff]

/-- Settles O31: AMEND changes the one record with the ref and puts the book back into its order; ASSIGN COACH writes the coach and then tries
the record at the bay where that coach is bound. -/
theorem amendAssign : Obligations.AmendAssign := by
  unfold Obligations.AmendAssign
  refine ⟨fun a s hr hk => ?amend, fun ref coach s hr hk => ?assign⟩
  case amend =>
    intro no late
    obtain ⟨-, hn, -⟩ := hk
    have hno : ∀ st, s.amendRefusal a = some st → no st := fun st h => exec_amend_of_refusal hr h
    refine ⟨fun h => hno _ (by simp [State.amendRefusal, (Book.find_eq_none_iff _ _).mpr h]), fun d hd href => ?_⟩
    have hfind : s.book.find a.ref.toNat = some d := href ▸ Book.find_eq_some hd hn
    have hlate : carriedAnd (fun m => decide (720 < minutesAheadOf (minuteTaken m) s.clock.minute)) a.minute = true ↔ late := by
      rw [carriedAnd_iff]
      simp only [decide_eq_true_eq]
      exact Iff.rfl
    refine ⟨fun hstate _ => hno _ ?_, fun hstate h => hno _ ?_, fun hstate _ => .inl (hno _ ?_), fun hstate h => ?_⟩
    · simp_all [State.amendRefusal]
    · rcases List.mem_pair.mp hstate with hs | hs <;> simp [State.amendRefusal, hfind, hs, hlate.mpr h]
    · simp_all [State.amendRefusal]
    · have htaken : s.amendRefusal a = none := by
        rcases List.mem_pair.mp hstate with hs | hs <;> simp [State.amendRefusal, hfind, hs, hlate, h]
      have hn' : ((updRecord a.ref.toNat (amended a) s).book.records.map (·.ref)).Nodup := by
        rwa [updRecord_refs (f := amended a) fun x => rfl]
      have hfound : (reorder (updRecord a.ref.toNat (amended a) s)).book.find a.ref.toNat = some (amended a d) := by
        rw [← href]
        exact find_reorder (d := amended a d) (find_updRecord hd hn fun x => rfl) (href ▸ hn')
      refine ⟨amended a d, (reorder (updRecord a.ref.toNat (amended a) s)).departureView (amended a d), takenStatus (amendClamped a),
        (reorder (updRecord a.ref.toNat (amended a) s)).book.records, ?_, amended_eq a d, ?_,
        reorder_pairwise (updRecord a.ref.toNat (amended a) s),
        departureView_shows _ _, ?_, takenStatus_eq_ok_or_okClamped _, ?_⟩
      · rw [exec_amend_of_ready hr]
        simp only [ruleAmend, htaken, State.departureReply, hfound]
        rfl
      · rw [← updRecord_records hd hn, href]
        exact reorder_perm _
      · have hposition := Book.getElem?_position hfound
        rw [← href] at hposition ⊢
        exact hposition
      · rw [takenStatus_eq_okClamped_iff, amendClamped_iff]
  case assign =>
    intro c taken answers
    obtain ⟨-, hn, -⟩ := hk
    have hanswers : ∀ st t, ruleAssignCoach ref coach s = (t, ⟨st, .empty⟩) → answers st t := fun st t h => by
      simp only [answers, exec_assignCoach_of_ready hr, h]
    refine ⟨fun h => hanswers _ _ (by simp [ruleAssignCoach, (Book.find_eq_none_iff _ _).mpr h, refusal]), fun d hd href => ?_⟩
    have hfind : s.book.find ref.toNat = some d := href ▸ Book.find_eq_some hd hn
    refine ⟨fun hstate => hanswers _ _ (by simp [ruleAssignCoach, hfind, hstate, refusal]), fun hstate => ?_⟩
    have hrule : ruleAssignCoach ref coach s = (bindRecord ref.toNat (updRecord ref.toNat (fun d => { d with coach := c }) s), ⟨.ok, .empty⟩) := by
      simp only [ruleAssignCoach, hfind, hstate, if_true]
      rfl
    have hfound : (updRecord ref.toNat (fun d => { d with coach := c }) s).book.find ref.toNat = some { d with coach := c } := by
      rw [← href]
      exact find_updRecord hd hn fun x => rfl
    have hfree : ∀ b, (updRecord ref.toNat (fun d => { d with coach := c }) s).book.boundTo b = none ↔ s.book.boundTo b = none := fun b => by
      rw [boundTo_eq_none_iff, boundTo_eq_none_iff, updRecord_eq]
      simp only [List.forall_mem_map]
      refine forall₂_congr fun x _ => ?_
      split_ifs <;> rfl
    refine ⟨fun x b hc hb hbay hnone => hanswers _ _ ?_, fun hno => hanswers _ _ ?_⟩
    · rw [hrule, bindRecord_of_binds (d := { d with coach := c }) hfound hstate hc hb hbay ((hfree b).mpr hnone)]
      refine congrArg (·, _) (congrArg (notifyBay .departure b) ?_)
      simp only [updRecord_eq, taken, List.map_map]
      congr 3
      funext x
      dsimp only [Function.comp_apply]
      split_ifs <;> rfl
    · rw [hrule, bindRecord_of_not fun e x b he hx hb => ?_]
      · rfl
      · rw [hfound] at he
        obtain rfl := Option.some.inj he
        exact (hno x b hx hb).imp_right fun hbound hnone => hbound ((hfree b).mp hnone)

/-! ## CANCEL -/

theorem deferredCount_eq (ds : List Defect) : deferredCount ds = ds.countP fun x => x.state != .opened && x.state != .acknowledged := by
  refine List.countP_congr fun d _ => ?_
  cases d.state <;> simp

/-- R50, R53: a record leaves the book without an anomaly. -/
theorem removeAndNotify_eq_loggedOut (d : Departure) (o : LogOutcome) (s : State) : removeAndNotify d o false s = s.loggedOut d o := by
  unfold removeAndNotify removeRecord State.updBook Book.addLog logEntryOf State.loggedOut
  simp only [deferredCount_eq]
  cases d.bay <;> rfl

/-- R14: the bay of a departure cleared no more, whose signal was GREEN. -/
theorem returnBay_of_green {b : BayNo} {s : State} (hbay : (s.bay b).state ∈ [.cleared, .leaving]) (hsignal : s.clearance.signals[b] = .green) :
    returnBay b s = notifyBay .bay b { s with
      bays := s.bays.set b { s.bay b with state := .bound }
      clearance := { s.clearance with
        signals := s.clearance.signals.set b (if (s.bay b).state = .leaving then .alert else .red)
        alerts := s.clearance.alerts.set b (if (s.bay b).state = .leaving then some 300000 else none) }
      bus := if s.bus.posts[b].silent then s.bus else s.signalled b (if (s.bay b).state = .leaving then .alert else .red) } := by
  have hne : (s.bay b).state ≠ .bound := by
    rcases List.mem_pair.mp hbay with h | h <;> simp [h]
  unfold returnBay
  rw [setBayState_of_ne hne]
  by_cases hleaving : (s.bay b).state = .leaving
  · simp only [hleaving, if_true]
    rw [setSignal_of_ne]
    · rfl
    · show s.clearance.signals[b] ≠ .alert
      rw [hsignal]
      decide
  · simp only [hleaving, if_false]
    rw [setSignal_of_ne]
    · rfl
    · show s.clearance.signals[b] ≠ .red
      rw [hsignal]
      decide

/-- The state with what a cancelled departure and its bay change put back from another: the bays, the book, the bus, the signals and the
notices. -/
def State.withReturnOf (t s : State) : State :=
  { t with
    bays := s.bays
    book := s.book
    bus := s.bus
    clearance := { t.clearance with signals := s.clearance.signals, alerts := s.clearance.alerts }
    dispatch := { t.dispatch with notices := s.dispatch.notices }
    workshop := { t.workshop with notices := s.workshop.notices } }

theorem withReturnOf_trans {u t s : State} (h : u.withReturnOf t = t) (h' : t.withReturnOf s = s) : u.withReturnOf s = s :=
  calc u.withReturnOf s = (u.withReturnOf t).withReturnOf s := rfl
    _ = s := by rw [h, h']

theorem loggedOut_withReturnOf (d : Departure) (o : LogOutcome) (s : State) : (s.loggedOut d o).withReturnOf s = s := rfl

theorem returnBay_withReturnOf {b : BayNo} {s : State} (hbay : (s.bay b).state ∈ [.cleared, .leaving])
    (hsignal : s.clearance.signals[b] = .green) : (returnBay b s).withReturnOf s = s := by
  rw [returnBay_of_green hbay hsignal]
  rfl

/-- R44: a binding changes one record's state and bay. -/
theorem bindFirst_keeps (b : BayNo) (s : State) : (bindFirst b s).withReturnOf s = s
    ∧ (bindFirst b s).book.log = s.book.log
    ∧ (bindFirst b s).book.records.map (·.ref) = s.book.records.map (·.ref) := by
  rcases bindWhere_cases (fun _ => true) b s with h | ⟨x, -, -, -, -, -, -, h⟩
  · rw [bindFirst, h]
    exact ⟨rfl, rfl, rfl⟩
  · rw [bindFirst, h]
    exact ⟨rfl, rfl, updRecord_refs (f := Departure.boundAt b) (fun _ => rfl) s⟩

/-- R44: in a book of distinct refs, what the binding of one record makes of the list. -/
theorem updRecord_at {before after : List Departure} {d : Departure} (hn : ((before ++ d :: after).map (·.ref)).Nodup)
    (f : Departure → Departure) :
    ((before ++ d :: after).map fun x => if x.ref = d.ref then f x else x) = before ++ f d :: after := by
  simp only [List.map_append, List.map_cons, List.nodup_append, List.nodup_cons, List.mem_map, List.mem_cons] at hn
  obtain ⟨-, ⟨hafter, -⟩, hbefore⟩ := hn
  rw [List.map_append, List.map_cons, if_pos rfl, List.map_congr_left (g := id), List.map_congr_left (l := after) (g := id),
    List.map_id, List.map_id]
  · exact fun x hx => if_neg fun href => hafter ⟨x, hx, href⟩
  · exact fun x hx => if_neg fun href => hbefore x.ref ⟨x, hx, rfl⟩ d.ref (.inl rfl) href

/-- Settles O32: the record leaves the book and is logged, its bay is returned by what it was cleared to, and the coach's next record binds. -/
theorem cancelTaken : Obligations.CancelTaken := by
  unfold Obligations.CancelTaken
  refine ⟨fun ref s hr hk => ?cancel, fun b s hk => ?binds⟩
  case cancel =>
    intro answers
    obtain ⟨-, hn, -⟩ := hk
    have hanswers : ∀ st t, ruleCancel ref s = (t, ⟨st, .empty⟩) → answers st t := fun st t h => by
      simp only [answers, exec_cancel_of_ready hr, h]
    refine ⟨fun h => hanswers _ _ (by simp [ruleCancel, (Book.find_eq_none_iff _ _).mpr h, refusal]), fun d hd href => ?_⟩
    intro gone
    have hfind : s.book.find ref.toNat = some d := href ▸ Book.find_eq_some hd hn
    have hrule : ruleCancel ref s = (arbitrate (cancelRecord d .cancelled s), ⟨.ok, .empty⟩) := by
      simp only [ruleCancel, hfind]
    have hgone : removeAndNotify d .cancelled false s = gone := removeAndNotify_eq_loggedOut d .cancelled s
    refine ⟨fun hstate => hanswers _ _ ?_, fun b hb => ⟨fun hstate => hanswers _ _ ?_, fun hstate => hanswers _ _ ?_,
      fun hstate hbay hsignal => ⟨bindFirst b (returnBay b gone), hanswers _ _ ?_, ?_⟩⟩⟩
    · rw [hrule, cancelRecord, hgone, hstate]
    · rw [hrule, cancelRecord, hgone, hstate, hb]
    · rw [hrule, cancelRecord, hgone, hstate, hb]
      rfl
    · rw [hrule, cancelRecord, hgone, hstate, hb]
    · have hreturn := returnBay_of_green (s := gone) (b := b) hbay hsignal
      obtain ⟨hback, hlog, hrefs⟩ := bindFirst_keeps b (returnBay b gone)
      refine ⟨congrArg (bindFirst b) hreturn, ?_, ?_, ?_, ?_, ?_, ?_, ?_⟩
      · rw [bindFirst, bindWhere_frame, hreturn]; rfl
      · rw [bindFirst, bindWhere_frame, hreturn]; exact Vector.getElem_set_self b.isLt
      · rw [bindFirst, bindWhere_frame, hreturn]; exact Vector.getElem_set_self b.isLt
      · rw [bindFirst, bindWhere_frame, hreturn]; exact Vector.getElem_set_self b.isLt
      · rw [hlog, hreturn]; rfl
      · rw [hrefs, hreturn]; rfl
      · exact withReturnOf_trans hback (withReturnOf_trans (returnBay_withReturnOf hbay hsignal) (loggedOut_withReturnOf d .cancelled s))
  case binds =>
    obtain ⟨-, hn, -⟩ := hk
    refine ⟨fun c before after d hbay hfree hc hrecords hbooked hcoach hbefore => ?_, fun h => ?_⟩
    · have hfound : (s.book.records.find? fun d => true && d.state == .booked && d.coach == some c) = some d := by
        rw [List.find?_eq_some_iff_append]
        refine ⟨by simp [hbooked, hcoach], before, after, hrecords, fun x hx => ?_⟩
        simpa [-not_and, not_and_or] using hbefore x hx
      rw [bindFirst, bindWhere_of_found hbay hfree hc hfound, updRecord_eq, hrecords, updRecord_at (hrecords ▸ hn)]
      rfl
    · rw [bindFirst]
      rcases h with h | h | h | h
      · exact bindWhere_of_taken (.inl h)
      · exact bindWhere_of_taken (.inr h)
      · exact bindWhere_of_not_found fun c hc => by simp [h] at hc
      · refine bindWhere_of_not_found fun c hc => ?_
        rw [hc] at h
        simpa using h

end Sys2Proof.Machine

/-! PROOF. The clock: SET CLOCK with what becomes of each record, CLOCK_SECOND and OVERDUE_RISE; the cancelling of records long overdue (R47). -/

namespace Sys2Proof.Machine

/-! ## Lists compared place by place -/

section Places

variable {α β γ : Type}

theorem forall₂_trans {R : α → β → Prop} {S : β → γ → Prop} {T : α → γ → Prop} (h : ∀ a b c, R a b → S b c → T a c) {xs : List α}
    {ys : List β} {zs : List γ} (hxy : List.Forall₂ R xs ys) (hyz : List.Forall₂ S ys zs) : List.Forall₂ T xs zs := by
  induction hxy generalizing zs with
  | nil => cases hyz; exact .nil
  | cons hab _ ih =>
    cases hyz with
    | cons hbc hyz => exact .cons (h _ _ _ hab hbc) (ih hyz)

theorem forall₂_exists_right {R : α → β → Prop} {xs : List α} {ys : List β} (h : List.Forall₂ R xs ys) {x : α} (hx : x ∈ xs) :
    ∃ y ∈ ys, R x y := by
  induction h with
  | nil => simp at hx
  | cons hab _ ih =>
    rcases List.mem_cons.mp hx with rfl | hx
    · exact ⟨_, by simp, hab⟩
    · obtain ⟨y, hy, hR⟩ := ih hx
      exact ⟨y, by simp [hy], hR⟩

theorem forall₂_exists_left {R : α → β → Prop} {xs : List α} {ys : List β} (h : List.Forall₂ R xs ys) {y : β} (hy : y ∈ ys) :
    ∃ x ∈ xs, R x y :=
  forall₂_exists_right (R := flip R) h.flip hy

theorem forall₂_pairwise {R : α → β → Prop} {S : α → α → Prop} {T : β → β → Prop} (hRT : ∀ a b c d, R a b → R c d → S a c → T b d)
    {xs : List α} {ys : List β} (h : List.Forall₂ R xs ys) (hp : xs.Pairwise S) : ys.Pairwise T := by
  induction h with
  | nil => exact .nil
  | cons hab hrest ih =>
    obtain ⟨hfirst, hp⟩ := List.pairwise_cons.mp hp
    refine List.pairwise_cons.mpr ⟨fun d hd => ?_, ih hp⟩
    obtain ⟨c, hc, hcd⟩ := forall₂_exists_left hrest hd
    exact hRT _ _ _ _ hab hcd (hfirst c hc)

end Places

/-! ## What a binding leaves of a record -/

/-- R44: the record as it stood, or bound where its coach is. -/
def Departure.reboundIn (bays : Vector Bay 24) (d e : Departure) : Prop :=
  e = d ∨ d.state = .booked ∧ d.coach ≠ none ∧ ∃ b : BayNo, bays[b].state = .bound ∧ bays[b].coach = d.coach ∧ e = d.boundAt b

theorem reboundIn_refl (bays : Vector Bay 24) (d : Departure) : d.reboundIn bays d := .inl rfl

theorem reboundIn_trans {bays : Vector Bay 24} {d e f : Departure} (hde : d.reboundIn bays e) (hef : e.reboundIn bays f) :
    d.reboundIn bays f := by
  rcases hef with rfl | hef
  · exact hde
  · rcases hde with rfl | ⟨-, -, b, -, -, rfl⟩
    · exact .inr hef
    · exact absurd hef.1 (by simp [Departure.boundAt])

theorem reboundIn_keys {bays : Vector Bay 24} {d e : Departure} (h : d.reboundIn bays e) :
    e.ref = d.ref ∧ e.overdue = d.overdue ∧ e.minute = d.minute ∧ e.booking = d.booking := by
  rcases h with rfl | ⟨-, -, b, -, -, rfl⟩ <;> exact ⟨rfl, rfl, rfl, rfl⟩

theorem reboundIn_restore {bays : Vector Bay 24} {d e : Departure} (h : d.reboundIn bays e) (o : Option Overdue) :
    { e with state := d.state, bay := d.bay, overdue := o } = { d with overdue := o } := by
  rcases h with rfl | ⟨-, -, b, -, -, rfl⟩ <;> rfl

theorem bindFirst_rebound {b : BayNo} {s : State} (hn : (s.book.records.map (·.ref)).Nodup) :
    List.Forall₂ (Departure.reboundIn s.bays) s.book.records (bindFirst b s).book.records := by
  rcases bindWhere_cases (fun _ => true) b s with h | ⟨d, hd, -, hbooked, hcoach, hbay, hbound, h⟩
  · rw [bindFirst, h]
    exact List.forall₂_same.mpr fun d _ => reboundIn_refl _ d
  · have hrecords : (bindFirst b s).book.records = s.book.records.map fun x => if x.ref = d.ref then d.boundAt b else x := by
      rw [bindFirst, h]
      exact updRecord_records hd hn _
    rw [hrecords, List.forall₂_map_right_iff]
    refine List.forall₂_same.mpr fun x hx => ?_
    split_ifs with href
    · rw [List.inj_on_of_nodup_map hn hx hd href]
      exact .inr ⟨hbooked, hcoach, b, hbound, hbay, rfl⟩
    · exact reboundIn_refl _ x

/-! ## Records long overdue (R47) -/

/-- R47: a record that is removed when its overdue minutes are looked at. -/
def Departure.goes (d : Departure) : Bool := d.state != .cleared && d.overdue.any fun o => 240 ≤ o.minutes

theorem reboundIn_goes {bays : Vector Bay 24} {d e : Departure} (h : d.reboundIn bays e) : e.goes = d.goes := by
  rcases h with rfl | ⟨hbooked, -, b, -, -, rfl⟩
  · rfl
  · unfold Departure.goes
    rw [hbooked]
    rfl

theorem goes_eq_false_of {d : Departure} (h : d.state = .cleared ∨ ∀ o, d.overdue = some o → o.minutes < 240) : d.goes = false := by
  rcases h with h | h
  · simp [Departure.goes, h]
  · cases ho : d.overdue with
    | none => simp [Departure.goes, ho]
    | some o => simp [Departure.goes, ho, h o ho]

theorem autoCancel_of_not_goes {ref : Nat} {s : State} (h : ∀ d, s.book.find ref = some d → d.goes = false) : autoCancel ref s = s := by
  unfold autoCancel
  cases hd : s.book.find ref with
  | none => rfl
  | some d =>
    cases ho : d.overdue with
    | none => simp only [ho]
    | some o =>
      have hstays := h d hd
      simp only [Departure.goes, ho, Option.any_some] at hstays
      simp only [ho]
      refine if_neg fun ⟨hc, hm⟩ => ?_
      have hlong : 240 ≤ o.minutes := hm
      simp [hc, hlong] at hstays

theorem autoCancel_of_goes {ref : Nat} {s : State} {d : Departure} (hd : s.book.find ref = some d) (h : d.goes = true) :
    autoCancel ref s = cancelRecord d .autoCancelled s := by
  unfold Departure.goes at h
  cases ho : d.overdue with
  | none => simp [ho] at h
  | some o =>
    simp only [ho, Option.any_some, Bool.and_eq_true, bne_iff_ne, ne_eq, decide_eq_true_eq] at h
    simp only [autoCancel, hd, ho]
    exact if_pos h

/-- The state with what a cancelled record that is not CLEARED changes put back from another: the book, the pending clearances, the notices. -/
def State.withCancelOf (t s : State) : State :=
  { t with
    book := s.book
    clearance := { t.clearance with pending := s.clearance.pending }
    dispatch := { t.dispatch with notices := s.dispatch.notices }
    workshop := { t.workshop with notices := s.workshop.notices } }

theorem withCancelOf_trans {u t s : State} (h : u.withCancelOf t = t) (h' : t.withCancelOf s = s) : u.withCancelOf s = s :=
  calc u.withCancelOf s = (u.withCancelOf t).withCancelOf s := rfl
    _ = s := by rw [h, h']

theorem withCancelOf_bays {t s : State} (h : t.withCancelOf s = s) : t.bays = s.bays :=
  congrArg State.bays (a₁ := t.withCancelOf s) h

/-- R187: a DEPARTURE notice is pending at a link. -/
def State.tellsDeparture (s : State) (l : Link) : Prop := (s.port l).notices.kinds &&& NoticeKind.departure.bit ≠ 0#8

theorem tellsDeparture_iff (s : State) (l : Link) : s.tellsDeparture l ↔ (s.port l).notices.kinds.getLsbD 2 = true := by
  have hbit : ∀ k : BitVec 8, k &&& 0x04#8 ≠ 0#8 ↔ k.getLsbD 2 = true := by decide
  exact hbit (s.port l).notices.kinds

theorem port_notify_notices (k : NoticeKind) (bs : BaySet) (s : State) (l : Link) :
    ((notify k bs s).port l).notices = (s.port l).notices.add k bs := by
  cases l <;> rfl

theorem tellsDeparture_notify (bs : BaySet) (s : State) (l : Link) : (notify .departure bs s).tellsDeparture l := by
  rw [tellsDeparture_iff, port_notify_notices, kinds_add]
  simp [NoticeKind.bit]

/-- A pending notice stays pending through another. -/
theorem tellsDeparture_notify_of {s : State} {l : Link} (k : NoticeKind) (bs : BaySet) (h : s.tellsDeparture l) :
    (notify k bs s).tellsDeparture l := by
  rw [tellsDeparture_iff] at h ⊢
  rw [port_notify_notices, kinds_add]
  simp [h]

theorem tellsDeparture_endPending {ref : Nat} {s : State} {l : Link} (h : s.tellsDeparture l) : (endPending ref s).tellsDeparture l := by
  cases l <;> exact h

theorem loggedOut_withCancelOf (d : Departure) (o : LogOutcome) (s : State) : (s.loggedOut d o).withCancelOf s = s := rfl

theorem dropPending_withCancelOf (ref : Nat) (b : BayNo) (s : State) : (dropPending ref b s).withCancelOf s = s := rfl

/-- R46, R47: a record that is not CLEARED leaves the book; at its bay the coach's next record is tried. -/
theorem cancelRecord_of_not_cleared {d : Departure} {o : LogOutcome} {s : State} (h : d.state ≠ .cleared) : ∃ w : State,
    (cancelRecord d o s = w ∨ ∃ b, cancelRecord d o s = bindFirst b w)
      ∧ w.book = (s.loggedOut d o).book ∧ w.withCancelOf s = s ∧ ∀ l, w.tellsDeparture l := by
  have hgone : ∀ l, (s.loggedOut d o).tellsDeparture l := tellsDeparture_notify _ _
  unfold cancelRecord
  rw [removeAndNotify_eq_loggedOut]
  cases hs : d.state with
  | booked => exact ⟨s.loggedOut d o, .inl rfl, rfl, loggedOut_withCancelOf d o s, hgone⟩
  | cleared => exact absurd hs h
  | bound =>
    cases d.bay with
    | none => exact ⟨s.loggedOut d o, .inl rfl, rfl, loggedOut_withCancelOf d o s, hgone⟩
    | some b => exact ⟨s.loggedOut d o, .inr ⟨b, rfl⟩, rfl, loggedOut_withCancelOf d o s, hgone⟩
  | clearing =>
    cases d.bay with
    | none => exact ⟨s.loggedOut d o, .inl rfl, rfl, loggedOut_withCancelOf d o s, hgone⟩
    | some b =>
      exact ⟨dropPending d.ref b (s.loggedOut d o), .inr ⟨b, rfl⟩, rfl,
        withCancelOf_trans (dropPending_withCancelOf ..) (loggedOut_withCancelOf ..),
        fun l => tellsDeparture_notify_of .clearance _ (tellsDeparture_endPending (hgone l))⟩

theorem bindFirst_withCancelOf (b : BayNo) (s : State) : (bindFirst b s).withCancelOf s = s := by
  rcases bindWhere_cases (fun _ => true) b s with h | ⟨x, -, -, -, -, -, -, h⟩ <;> rw [bindFirst, h] <;> rfl

theorem tellsDeparture_bindFirst {b : BayNo} {s : State} {l : Link} (h : s.tellsDeparture l) : (bindFirst b s).tellsDeparture l := by
  rcases bindWhere_cases (fun _ => true) b s with h' | ⟨x, -, -, -, -, -, -, h'⟩ <;> rw [bindFirst, h']
  · exact h
  · exact tellsDeparture_notify_of _ _ h

/-- R47: what the cancelling of a record leaves: the others, bound or not, the log with its entry, a notice, and the frame. -/
theorem cancelRecord_leaves {d : Departure} {o : LogOutcome} {s : State} (h : d.state ≠ .cleared) (hn : (s.book.records.map (·.ref)).Nodup) :
    List.Forall₂ (Departure.reboundIn s.bays) (s.book.records.filter (·.ref != d.ref)) (cancelRecord d o s).book.records
      ∧ (cancelRecord d o s).book.log = (s.loggedOut d o).book.log
      ∧ (cancelRecord d o s).withCancelOf s = s ∧ ∀ l, (cancelRecord d o s).tellsDeparture l := by
  obtain ⟨w, hw, hbook, hframe, htells⟩ := cancelRecord_of_not_cleared (o := o) (s := s) h
  have hrecords : w.book.records = s.book.records.filter (·.ref != d.ref) := by rw [hbook]; rfl
  rcases hw with hw | ⟨b, hw⟩ <;> rw [hw]
  · exact ⟨hrecords ▸ List.forall₂_same.mpr fun x _ => reboundIn_refl _ x, by rw [hbook], hframe, htells⟩
  · have hn' : (w.book.records.map (·.ref)).Nodup := hrecords ▸ hn.sublist (List.filter_sublist.map _)
    obtain ⟨-, hlog, -⟩ := bindFirst_keeps b w
    refine ⟨?_, by rw [hlog, hbook], withCancelOf_trans (bindFirst_withCancelOf b w) hframe, fun l => tellsDeparture_bindFirst (htells l)⟩
    have hrebound := bindFirst_rebound (b := b) hn'
    rwa [hrecords, withCancelOf_bays hframe] at hrebound

/-- R50: the log's last entry is the record's. -/
theorem loggedOut_log_getLast? (d : Departure) (o : LogOutcome) (s : State) :
    (s.loggedOut d o).book.log.getLast?.map (fun e => (e.ref, e.outcome, e.bay, e.minute)) = some (d.ref, o, d.bay, s.clock.minute) := by
  show ((_ ++ [_]).getLast?).map _ = _
  rw [List.getLast?_append_of_ne_nil _ (by simp)]
  rfl

/-- An AUTO_CANCELLED entry stands in the log. -/
def Book.tellsCancel (k : Book) : Prop := ∃ x ∈ k.log, x.outcome = .autoCancelled

theorem tellsCancel_loggedOut (d : Departure) (s : State) : (s.loggedOut d .autoCancelled).book.tellsCancel :=
  ⟨_, List.mem_append_right _ (List.mem_singleton.mpr rfl), rfl⟩

/-- R47: what one record looked at leaves. -/
theorem autoCancel_leaves {ref : Nat} {s : State} (hn : (s.book.records.map (·.ref)).Nodup) :
    List.Forall₂ (Departure.reboundIn s.bays) (s.book.records.filter fun d => !(d.ref == ref && d.goes)) (autoCancel ref s).book.records
      ∧ ((s.book.tellsCancel ∨ ∃ d ∈ s.book.records, d.ref = ref ∧ d.goes = true) → (autoCancel ref s).book.tellsCancel)
      ∧ (autoCancel ref s).withCancelOf s = s ∧ ∀ l, s.tellsDeparture l → (autoCancel ref s).tellsDeparture l := by
  by_cases hgoes : ∃ d ∈ s.book.records, d.ref = ref ∧ d.goes = true
  · obtain ⟨d, hd, rfl, hdgoes⟩ := hgoes
    have hfind := Book.find_eq_some hd hn
    have hstate : d.state ≠ .cleared := by
      intro h
      simp [Departure.goes, h] at hdgoes
    obtain ⟨hrecords, hlog, hframe, htells⟩ := cancelRecord_leaves (o := .autoCancelled) hstate hn
    rw [autoCancel_of_goes hfind hdgoes]
    refine ⟨?_, fun _ => ?_, hframe, fun l _ => htells l⟩
    · have hsame : s.book.records.filter (fun x => !(x.ref == d.ref && x.goes)) = s.book.records.filter (·.ref != d.ref) := by
        refine List.filter_congr fun x hx => ?_
        by_cases href : x.ref = d.ref
        · rw [List.inj_on_of_nodup_map hn hx hd href]
          simp [hdgoes]
        · simp [bne, beq_false_of_ne href]
      rw [hsame]
      exact hrecords
    · unfold Book.tellsCancel
      rw [hlog]
      exact tellsCancel_loggedOut d s
  · have hstays : ∀ d ∈ s.book.records, d.ref = ref → d.goes = false := fun d hd href => by
      by_contra h
      exact hgoes ⟨d, hd, href, by simpa using h⟩
    rw [autoCancel_of_not_goes fun d hd => hstays d (Book.mem_of_find hd).1 (Book.mem_of_find hd).2]
    refine ⟨?_, fun h => h.resolve_right hgoes, rfl, fun _ h => h⟩
    rw [List.filter_eq_self.mpr fun d hd => ?_]
    · exact List.forall₂_same.mpr fun x _ => reboundIn_refl _ x
    · by_cases href : d.ref = ref
      · simp [hstays d hd href]
      · simp [href]

/-- The records that are looked at, one after the other. -/
def autoCancelAll (refs : List Nat) (s : State) : State := refs.foldl (fun s r => autoCancel r s) s

theorem nodup_refs_of_rebound {bays : Vector Bay 24} {xs ys : List Departure} (h : List.Forall₂ (Departure.reboundIn bays) xs ys)
    (hn : (xs.map (·.ref)).Nodup) : (ys.map (·.ref)).Nodup := by
  rw [List.Nodup, List.pairwise_map] at hn ⊢
  exact forall₂_pairwise (fun a b c d hab hcd hac => by rwa [(reboundIn_keys hab).1, (reboundIn_keys hcd).1]) h hn

theorem autoCancelAll_leaves {refs : List Nat} {s : State} (hn : (s.book.records.map (·.ref)).Nodup) :
    List.Forall₂ (Departure.reboundIn s.bays) (s.book.records.filter fun d => !(refs.contains d.ref && d.goes))
        (autoCancelAll refs s).book.records
      ∧ ((s.book.tellsCancel ∨ ∃ d ∈ s.book.records, d.ref ∈ refs ∧ d.goes = true) → (autoCancelAll refs s).book.tellsCancel)
      ∧ (autoCancelAll refs s).withCancelOf s = s ∧ ∀ l, s.tellsDeparture l → (autoCancelAll refs s).tellsDeparture l := by
  induction refs generalizing s with
  | nil =>
    refine ⟨?_, by simp [autoCancelAll], rfl, fun _ h => h⟩
    rw [List.filter_eq_self.mpr fun d _ => by simp]
    exact List.forall₂_same.mpr fun x _ => reboundIn_refl _ x
  | cons ref refs ih =>
    obtain ⟨hrecords, hcancel, hframe, htells⟩ := autoCancel_leaves (ref := ref) hn
    have hn' := nodup_refs_of_rebound hrecords (hn.sublist (List.filter_sublist.map _))
    obtain ⟨hrecords', hcancel', hframe', htells'⟩ := ih hn'
    rw [withCancelOf_bays hframe] at hrecords'
    refine ⟨?_, fun h => hcancel' ?_, withCancelOf_trans hframe' hframe, fun l h => htells' l (htells l h)⟩
    · have hfirst : List.Forall₂ (Departure.reboundIn s.bays)
          ((s.book.records.filter fun d => !(d.ref == ref && d.goes)).filter fun d => !(refs.contains d.ref && d.goes))
          ((autoCancel ref s).book.records.filter fun d => !(refs.contains d.ref && d.goes)) :=
        List.rel_filter (fun d e h => by dsimp only; rw [(reboundIn_keys h).1, reboundIn_goes h]) hrecords
      have hboth : s.book.records.filter (fun d => !((ref :: refs).contains d.ref && d.goes))
          = (s.book.records.filter fun d => !(d.ref == ref && d.goes)).filter fun d => !(refs.contains d.ref && d.goes) := by
        rw [List.filter_filter]
        refine List.filter_congr fun d _ => ?_
        rw [List.contains_cons]
        cases d.ref == ref <;> cases refs.contains d.ref <;> cases d.goes <;> rfl
      rw [hboth]
      exact forall₂_trans (R := Departure.reboundIn s.bays) (S := Departure.reboundIn s.bays) (fun _ _ _ => reboundIn_trans) hfirst hrecords'
    · rcases h with h | ⟨d, hd, hin, hgoes⟩
      · exact .inl (hcancel (.inl h))
      · by_cases href : d.ref = ref
        · exact .inl (hcancel (.inr ⟨d, hd, href, hgoes⟩))
        · have hkept : d ∈ s.book.records.filter fun d => !(d.ref == ref && d.goes) := List.mem_filter.mpr ⟨hd, by simp [href]⟩
          obtain ⟨e, he, hde⟩ := forall₂_exists_right hrecords hkept
          exact .inr ⟨e, he, by rw [(reboundIn_keys hde).1]; exact (List.mem_cons.mp hin).resolve_left href, by rw [reboundIn_goes hde, hgoes]⟩

/-- Records looked at that do not go leave the state as it is. -/
theorem autoCancelAll_of_none {refs : List Nat} {s : State} (h : ∀ d ∈ s.book.records, d.ref ∈ refs → d.goes = false) :
    autoCancelAll refs s = s := by
  induction refs with
  | nil => rfl
  | cons ref refs ih =>
    have hfirst : autoCancel ref s = s := autoCancel_of_not_goes fun d hd => by
      obtain ⟨hmem, rfl⟩ := Book.mem_of_find hd
      exact h d hmem (by simp)
    rw [autoCancelAll, List.foldl_cons, hfirst]
    exact ih fun d hd hin => h d hd (by simp [hin])

/-! ## Records made overdue (R35, R36) -/

theorem ofList_cons (b : BayNo) (bs : List BayNo) : BaySet.ofList (b :: bs) = BaySet.single b ||| BaySet.ofList bs := by
  have hacc : ∀ (bs : List BayNo) (a : BaySet), bs.foldl (fun a b => a ||| BaySet.single b) a = a ||| BaySet.ofList bs := by
    intro bs
    induction bs with
    | nil => intro a; simp [BaySet.ofList]
    | cons c cs ih =>
      intro a
      have hrest : BaySet.ofList (c :: cs) = 0#24 ||| BaySet.single c ||| BaySet.ofList cs := ih _
      rw [List.foldl_cons, ih, hrest, BitVec.zero_or, BitVec.or_assoc]
  exact (hacc bs _).trans (congrArg (· ||| _) BitVec.zero_or)

theorem add_departure_add_departure (n : Notices) (a b : BaySet) : (n.add .departure a).add .departure b = n.add .departure (a ||| b) := by
  simp [Notices.add, BitVec.or_assoc]

/-- The notices after a DEPARTURE notice for each record. -/
def Notices.departures (n : Notices) (ds : List Departure) : Notices :=
  if ds = [] then n else n.add .departure (BaySet.ofList (ds.filterMap (·.bay)))

theorem departures_cons (n : Notices) (d : Departure) (ds : List Departure) :
    n.departures (d :: ds) = (n.add .departure (BaySet.ofOption d.bay)).departures ds := by
  have hset : BaySet.ofList ((d :: ds).filterMap (·.bay)) = BaySet.ofOption d.bay ||| BaySet.ofList (ds.filterMap (·.bay)) := by
    cases hb : d.bay with
    | none => simp [hb, BaySet.ofOption]
    | some b => simp [hb, BaySet.ofOption, ofList_cons]
  unfold Notices.departures
  rw [if_neg (by simp), hset]
  split_ifs with h
  · subst h; simp [BaySet.ofList]
  · rw [add_departure_add_departure]

/-- The records of the list become overdue, each with the minutes its minute of day gives. -/
def becomeOverdueAll (minutes : Nat → Nat) (ds : List Departure) (s : State) : State :=
  ds.foldl (fun s d => becomeOverdue d (minutes d.minute) s) s

/-- The record made overdue when it is one of those listed. -/
def Departure.overdueOf (minutes : Nat → Nat) (ds : List Departure) (x : Departure) : Departure :=
  if ds.any (·.ref == x.ref) then { x with overdue := some ⟨minutes x.minute, 60000⟩ } else x

theorem becomeOverdueAll_eq (minutes : Nat → Nat) (ds : List Departure) (s : State)
    (hds : ∀ d ∈ ds, ∀ x ∈ s.book.records, x.ref = d.ref → x.minute = d.minute) : becomeOverdueAll minutes ds s =
      { s with
        book := { s.book with records := s.book.records.map (Departure.overdueOf minutes ds) }
        dispatch := { s.dispatch with notices := s.dispatch.notices.departures ds }
        workshop := { s.workshop with notices := s.workshop.notices.departures ds } } := by
  induction ds generalizing s with
  | nil =>
    have hid : Departure.overdueOf minutes [] = id := rfl
    simp [becomeOverdueAll, Notices.departures, hid]
  | cons d ds ih =>
    rw [becomeOverdueAll, List.foldl_cons]
    refine (ih _ fun e he x hx href => ?_).trans ?_
    · obtain ⟨y, hy, rfl⟩ := List.mem_map.mp hx
      split_ifs at href ⊢ with hyd <;> exact hds e (by simp [he]) y hy href
    · have hrecords : (becomeOverdue d (minutes d.minute) s).book.records.map (Departure.overdueOf minutes ds)
          = s.book.records.map (Departure.overdueOf minutes (d :: ds)) := by
        show (s.book.records.map fun x => if x.ref = d.ref then { x with overdue := some ⟨minutes d.minute, 60000⟩ } else x).map _ = _
        rw [List.map_map]
        refine List.map_congr_left fun x hx => ?_
        by_cases href : x.ref = d.ref
        · have hminute := hds d (by simp) x hx href
          by_cases hlater : ds.any (·.ref == d.ref) = true <;> simp [Departure.overdueOf, href, hlater, hminute]
        · simp [Departure.overdueOf, href, Ne.symm href]
      rw [hrecords, departures_cons, departures_cons]
      rfl

/-! ## SET CLOCK (R35) -/

theorem exec_setClock_of_ready {minute : Half} {second : Byte} {s : State} (hr : s.ready .dispatch) :
    exec (.setClock .dispatch minute second) s
      = .next (answer .dispatch (ruleSetClock minute second s).2 (ruleSetClock minute second s).1) :=
  event_takeCommand_of_ready _ hr (by decide) (by simp)

theorem overdueOf_filter {minutes : Nat → Nat} {p : Departure → Bool} {rs : List Departure} (hn : (rs.map (·.ref)).Nodup) {x : Departure}
    (hx : x ∈ rs) :
    Departure.overdueOf minutes (rs.filter p) x = if p x then { x with overdue := some ⟨minutes x.minute, 60000⟩ } else x := by
  have hany : (rs.filter p).any (·.ref == x.ref) = p x := by
    rw [Bool.eq_iff_iff, List.any_eq_true]
    constructor
    · rintro ⟨y, hy, href⟩
      obtain ⟨hy, hpy⟩ := List.mem_filter.mp hy
      rwa [List.inj_on_of_nodup_map hn hy hx (eq_of_beq href)] at hpy
    · exact fun hp => ⟨x, List.mem_filter.mpr ⟨hx, hp⟩, by simp⟩
  rw [Departure.overdueOf, hany]

/-- R35, R36: those records of the book that p names become overdue. -/
theorem becomeOverdueAll_filter (minutes : Nat → Nat) (p : Departure → Bool) (s : State) (hn : (s.book.records.map (·.ref)).Nodup) :
    becomeOverdueAll minutes (s.book.records.filter p) s =
      { s with
        book := { s.book with
          records := s.book.records.map fun x => if p x then { x with overdue := some ⟨minutes x.minute, 60000⟩ } else x }
        dispatch := { s.dispatch with notices := s.dispatch.notices.departures (s.book.records.filter p) }
        workshop := { s.workshop with notices := s.workshop.notices.departures (s.book.records.filter p) } } := by
  rw [becomeOverdueAll_eq]
  · rw [List.map_congr_left fun x hx => overdueOf_filter hn hx]
  · intro d hd x hx href
    rw [List.inj_on_of_nodup_map hn hx (List.mem_filter.mp hd).1 href]

/-- R35: the clock stands still while the records behind it become overdue. -/
theorem foldl_becomeOverdue_behind (ds : List Departure) (s : State) :
    ds.foldl (fun s d => becomeOverdue d (1440 - minutesAheadOf d.minute s.clock.minute) s) s
      = becomeOverdueAll (fun minute => 1440 - minutesAheadOf minute s.clock.minute) ds s := by
  induction ds generalizing s with
  | nil => rfl
  | cons d ds ih => rw [List.foldl_cons, ih]; rfl

theorem departures_filter (p : Departure → Bool) (n : Notices) (rs : List Departure) : n.departures (rs.filter p)
    = if rs.any p then n.add .departure (BaySet.ofList ((rs.filter p).filterMap (·.bay))) else n := by
  unfold Notices.departures
  by_cases h : rs.any p = true
  · rw [if_pos h, if_neg]
    simpa using h
  · rw [if_neg h, if_pos]
    simpa using h

/-- R47: the record of a ref, when it goes, leaves the book; at its bay the pending clearance ends and the coach's next record is tried. -/
def State.cancelled (u : State) (ref : Nat) : State :=
  match u.book.find ref with
  | none => u
  | some d =>
    if d.state = .cleared ∨ d.overdue.all (·.minutes < 240) then u
    else
      let gone := u.loggedOut d .autoCancelled
      match d.state, d.bay with
      | .bound, some b => bindFirst b gone
      | .clearing, some b => bindFirst b (notifyBay .clearance b
          { gone with clearance := { u.clearance with pending := u.clearance.pending.filter (·.ref != ref) } })
      | _, _ => gone

theorem goes_eq_false_iff (d : Departure) : d.goes = false ↔ d.state = .cleared ∨ d.overdue.all (·.minutes < 240) = true := by
  unfold Departure.goes
  cases d.overdue with
  | none => simp
  | some o => simp [imp_iff_not_or]

theorem dropPending_eq (ref : Nat) (b : BayNo) (s : State) : dropPending ref b s = notifyBay .clearance b
    { s with clearance := { s.clearance with pending := s.clearance.pending.filter (·.ref != ref) } } := rfl

theorem loggedOut_clearance (d : Departure) (o : LogOutcome) (s : State) : (s.loggedOut d o).clearance = s.clearance := rfl

theorem autoCancel_eq_cancelled (u : State) (ref : Nat) : autoCancel ref u = u.cancelled ref := by
  unfold State.cancelled
  cases hd : u.book.find ref with
  | none => exact autoCancel_of_not_goes fun d h => by simp [hd] at h
  | some d =>
    obtain rfl : d.ref = ref := (Book.mem_of_find hd).2
    cases hgoes : d.goes with
    | false =>
      dsimp only
      rw [if_pos ((goes_eq_false_iff d).mp hgoes)]
      exact autoCancel_of_not_goes fun e he => by rwa [← Option.some.inj (hd.symm.trans he)]
    | true =>
      have hnot := (goes_eq_false_iff d).not.mp (by simp [hgoes])
      dsimp only
      rw [if_neg hnot, autoCancel_of_goes hd hgoes, cancelRecord, removeAndNotify_eq_loggedOut, ← loggedOut_clearance d .autoCancelled u]
      generalize u.loggedOut d .autoCancelled = gone
      cases hs : d.state with
      | cleared => exact absurd (.inl hs) hnot
      | booked => rfl
      | bound => cases d.bay <;> rfl
      | clearing => cases d.bay <;> rfl

/-- Settles O29: the records behind the clock become overdue, the book takes its order, and those with 240 minutes or more leave one after
another. -/
theorem clockSet : Obligations.ClockSet := by
  unfold Obligations.ClockSet
  intro removes minute second s hr hk m c ahead late posted stands
  obtain ⟨-, hn, -⟩ := hk
  have hremoves : removes = fun u ref => autoCancel ref u := by
    funext u ref
    exact (autoCancel_eq_cancelled u ref).symm
  let overdue : Departure → Departure := fun d => if late d then { d with overdue := some ⟨1440 - ahead d.minute, 60000⟩ } else d
  let rs := sortBy (Departure.before m) (s.book.records.map overdue)
  let judged : State := { s with
    clock := ⟨true, m, c, 1000⟩
    book := { s.book with records := rs }
    dispatch := { s.dispatch with notices := posted s.dispatch }
    workshop := { s.workshop with notices := posted s.workshop } }
  let refs := (rs.map (·.ref)).filter fun r => s.book.records.any fun d => late d && d.ref == r
  have hjudge : judgeBook (setTime m c s) = autoCancelAll refs judged := by
    have hlate : (setTime m c s).behindClock = s.book.records.filter late := rfl
    have hbehind := becomeOverdueAll_filter (fun minute => 1440 - minutesAheadOf minute m) late (setTime m c s) hn
    have hreordered : reorder (becomeOverdueAll (fun minute => 1440 - minutesAheadOf minute m) (s.book.records.filter late) (setTime m c s))
        = judged := by
      rw [show s.book.records = (setTime m c s).book.records from rfl, hbehind]
      simp only [departures_filter]
      rfl
    have hrefs : (judged.book.records.map (·.ref)).filter (fun r => (s.book.records.filter late).any (·.ref == r)) = refs := by
      simp only [List.any_filter]
      rfl
    unfold judgeBook
    simp only [hlate, foldl_becomeOverdue_behind]
    exact (congrArg (fun u => ((u.book.records.map (·.ref)).filter fun r => (s.book.records.filter late).any (·.ref == r)).foldl
      (fun s r => autoCancel r s) u) hreordered).trans (congrArg (fun l => l.foldl (fun s r => autoCancel r s) judged) hrefs)
  have hperm : rs.Perm (s.book.records.map overdue) := sortBy_perm ..
  have href : ∀ d, (overdue d).ref = d.ref := fun d => by dsimp only [overdue]; split_ifs <;> rfl
  have hn' : (judged.book.records.map (·.ref)).Nodup := by
    have hmap : (s.book.records.map overdue).map (·.ref) = s.book.records.map (·.ref) := by
      rw [List.map_map]
      exact List.map_congr_left fun d _ => href d
    refine (hperm.map (·.ref)).nodup_iff.mpr ?_
    rwa [hmap]
  have hmem : ∀ d ∈ s.book.records, overdue d ∈ judged.book.records := fun d hd => hperm.mem_iff.mpr (List.mem_map_of_mem hd)
  have hsorted : rs.Pairwise fun x y => y.before m x = false :=
    sortBy_pairwise (before := Departure.before m) (fun _ _ => before_asymm) (fun _ _ _ => before_trans) _
  obtain ⟨hrecords, hcancel, hframe, htells⟩ := autoCancelAll_leaves (refs := refs) hn'
  have hlateRef : ∀ d ∈ s.book.records, d.ref ∈ refs → late d = true := fun d hd hin => by
    obtain ⟨-, hany⟩ := List.mem_filter.mp hin
    obtain ⟨x, hx, hand⟩ := List.any_eq_true.mp hany
    rw [Bool.and_eq_true] at hand
    rw [← List.inj_on_of_nodup_map hn hx hd (eq_of_beq hand.2)]
    exact hand.1
  have hinRefs : ∀ d ∈ s.book.records, late d = true → d.ref ∈ refs := fun d hd hl =>
    List.mem_filter.mpr ⟨List.mem_map.mpr ⟨_, hmem d hd, href d⟩, List.any_eq_true.mpr ⟨d, hd, by simp [hl]⟩⟩
  have hstands : ∀ d e : Departure, d.reboundIn s.bays e → stands d e := by
    rintro d e (rfl | ⟨hbooked, hcoach, b, hbound, hbay, rfl⟩)
    · exact ⟨rfl, rfl, fun _ => ⟨rfl, rfl⟩, fun h => .inl ⟨h, rfl⟩⟩
    · exact ⟨rfl, rfl, fun h => absurd hbooked h, fun _ => .inr ⟨rfl, b, rfl, hbound, hcoach, hbay⟩⟩
  have hstandsOverdue : ∀ d e : Departure, (overdue d).reboundIn s.bays e → stands d e := fun d e h => by
    have hd : stands (overdue d) e := hstands _ _ h
    dsimp only [overdue] at hd
    split_ifs at hd <;> exact hd
  have hkept : ∀ d ∈ s.book.records, (late d = true → (overdue d).goes = false) →
      ∃ e ∈ (autoCancelAll refs judged).book.records, stands d e ∧ e.overdue = (overdue d).overdue := fun d hd hstays => by
    have hin : overdue d ∈ judged.book.records.filter fun d => !(refs.contains d.ref && d.goes) := by
      refine List.mem_filter.mpr ⟨hmem d hd, ?_⟩
      by_cases hl : late d = true
      · simp [hstays hl]
      · have hout : d.ref ∉ refs := fun hin => hl (hlateRef d hd hin)
        simp [href, hout]
    obtain ⟨e, he, hde⟩ := forall₂_exists_right hrecords hin
    exact ⟨e, he, hstandsOverdue d e hde, (reboundIn_keys hde).2.1⟩
  have hstays : ∀ d, late d = true → d.state = .cleared ∨ 1440 - ahead d.minute < 240 → (overdue d).goes = false := fun d hl h => by
    have hover : overdue d = { d with overdue := some ⟨1440 - ahead d.minute, 60000⟩ } := if_pos hl
    rw [hover]
    exact goes_eq_false_of (h.imp_right fun hm o ho => by rw [← Option.some.inj ho]; exact hm)
  refine ⟨rs, autoCancelAll refs judged, ?exec, hperm, hsorted, ⟨?steps, ?still⟩, ?clock, ?others, ?made, ?removed, ?from_, ?order, ?nolate,
    ?frame⟩
  case exec =>
    rw [exec_setClock_of_ready hr, ruleSetClock]
    have hstatus : takenStatus (m != minute.toNat || c != second.toNat) = if m = minute.toNat ∧ c = second.toNat then .ok else .okClamped := by
      by_cases h₁ : m = minute.toNat <;> by_cases h₂ : c = second.toNat <;> simp [takenStatus, h₁, h₂]
    simp only [hstatus, hjudge, m, c]
  case steps =>
    rw [hremoves]
    rfl
  case still =>
    intro h
    refine autoCancelAll_of_none fun x hx hin => ?_
    obtain ⟨d, hd, rfl⟩ := List.mem_map.mp (hperm.mem_iff.mp hx)
    have hl := hlateRef d hd (href d ▸ hin)
    exact hstays d hl (h d hd hl)
  case clock => exact congrArg State.clock (a₁ := (autoCancelAll refs judged).withCancelOf judged) hframe
  case others =>
    intro d hd h
    have hl : ¬ late d = true := by
      dsimp only [late]
      rcases h with h | h
      · simp [Option.isSome_iff_ne_none.mp h]
      · simp; omega
    obtain ⟨e, he, hde, hover⟩ := hkept d hd fun h => absurd h hl
    exact ⟨e, he, hde, by rw [hover, show overdue d = d from if_neg hl]⟩
  case made =>
    intro d hd hl h
    refine ⟨?_, fun l => htells l ?_⟩
    · obtain ⟨e, he, hde, hover⟩ := hkept d hd fun _ => hstays d hl h
      exact ⟨e, he, hde, by rw [hover, show overdue d = { d with overdue := some ⟨1440 - ahead d.minute, 60000⟩ } from if_pos hl]⟩
    · have hany : s.book.records.any late = true := List.any_eq_true.mpr ⟨d, hd, hl⟩
      have hnotices : (judged.port l).notices
          = (s.port l).notices.add .departure (BaySet.ofList ((s.book.records.filter late).filterMap (·.bay))) := by
        cases l <;> exact if_pos hany
      rw [tellsDeparture_iff, hnotices, kinds_add]
      simp [NoticeKind.bit]
  case removed =>
    intro d hd hl hstate hlong
    have hover : overdue d = { d with overdue := some ⟨1440 - ahead d.minute, 60000⟩ } := if_pos hl
    have hgoes : (overdue d).goes = true := by
      rw [hover]
      simp only [Departure.goes, Option.any_some, Bool.and_eq_true, bne_iff_ne, ne_eq, decide_eq_true_eq]
      exact ⟨hstate, hlong⟩
    refine ⟨fun e he heq => ?_, hcancel (.inr ⟨overdue d, hmem d hd, (href d).symm ▸ hinRefs d hd hl, hgoes⟩)⟩
    obtain ⟨x, hx, hxe⟩ := forall₂_exists_left hrecords he
    obtain ⟨hx, hout⟩ := List.mem_filter.mp hx
    have hxd : x = overdue d := List.inj_on_of_nodup_map hn' hx (hmem d hd) (by rw [← (reboundIn_keys hxe).1, heq, href])
    rw [hxd, hgoes, href] at hout
    simp [hinRefs d hd hl] at hout
  case from_ =>
    intro e he
    obtain ⟨x, hx, hxe⟩ := forall₂_exists_left hrecords he
    obtain ⟨d, hd, rfl⟩ := List.mem_map.mp (hperm.mem_iff.mp (List.mem_filter.mp hx).1)
    refine ⟨d, hd, by rw [(reboundIn_keys hxe).1, href], ?_⟩
    have hback := reboundIn_restore hxe d.overdue
    dsimp only [overdue] at hback
    split_ifs at hback <;> exact hback
  case order =>
    refine forall₂_pairwise (fun a b c d hab hcd hac => ?_) hrecords (hsorted.sublist List.filter_sublist)
    obtain ⟨-, ho, hm, hb⟩ := reboundIn_keys hab
    obtain ⟨-, ho', hm', hb'⟩ := reboundIn_keys hcd
    rwa [before_congr ho' hm' hb' ho hm hb]
  case nolate =>
    intro h
    have hnone : ∀ d ∈ s.book.records, ¬ late d = true := fun d hd hl => by
      simp only [late, Bool.and_eq_true, Option.isNone_iff_eq_none, decide_eq_true_eq] at hl
      have := h d hd hl.1
      omega
    have hany : ¬ s.book.records.any late = true := fun hany => by
      obtain ⟨d, hd, hl⟩ := List.any_eq_true.mp hany
      exact hnone d hd hl
    have hstill : autoCancelAll refs judged = judged := autoCancelAll_of_none fun x hx hin => by
      obtain ⟨d, hd, rfl⟩ := List.mem_map.mp (hperm.mem_iff.mp hx)
      exact absurd (hlateRef d hd (href d ▸ hin)) (hnone d hd)
    rw [hstill]
    have hposted : ∀ p, posted p = p.notices := fun p => if_neg hany
    simp only [judged, hposted]
  case frame =>
    exact congrArg (fun u : State => { u with
      clock := s.clock
      book := s.book
      dispatch := { u.dispatch with notices := s.dispatch.notices }
      workshop := { u.workshop with notices := s.workshop.notices } }) hframe

/-! ## CLOCK_SECOND and OVERDUE_RISE (R34, R36, R37) -/

theorem exec_clockSecond (s : State) (h : s.resetHeld = false) : exec .clockSecond s = .next (clockTick s) := event_of_not_held h

theorem exec_overdueRise (ref : Half) (s : State) (h : s.resetHeld = false) :
    exec (.overdueRise ref) s = .next (riseOverdue ref.toNat s) := event_of_not_held h

/-- R36: a record whose minute passes with the clock's. -/
def State.passes (s : State) (d : Departure) : Bool := d.overdue.isNone && minutesAheadOf d.minute s.clock.minute == 0

/-- The minute after this one. -/
def minuteAfter (m : Nat) : Nat := if 1439 ≤ m then 0 else m + 1

/-- R36: a minute change. -/
theorem minuteChange_eq (s : State) (hn : (s.book.records.map (·.ref)).Nodup) : minuteChange s = reorder { s with
    clock := { s.clock with second := 0, minute := minuteAfter s.clock.minute }
    book := { s.book with
      records := s.book.records.map fun x => if s.passes x then { x with overdue := some ⟨1, 60000⟩ } else x }
    dispatch := { s.dispatch with notices := s.dispatch.notices.departures (s.book.records.filter s.passes) }
    workshop := { s.workshop with notices := s.workshop.notices.departures (s.book.records.filter s.passes) } } := by
  have hall := becomeOverdueAll_filter (fun _ => 1) s.passes
    { s with clock := { s.clock with second := 0, minute := minuteAfter s.clock.minute } } hn
  exact congrArg reorder hall

theorem departures_departure (n : Notices) (ds : List Departure) :
    (n.departures ds).departure = n.departure ||| BaySet.ofList (ds.filterMap (·.bay)) := by
  unfold Notices.departures
  split_ifs with h
  · subst h; simp [BaySet.ofList]
  · rfl

/-- R37: the record's overdue minutes, one more and at most 1440. -/
theorem riseOverdue_of_overdue {s : State} {d : Departure} {o : Overdue} (hd : s.book.find d.ref = some d) (ho : d.overdue = some o) :
    riseOverdue d.ref s
      = autoCancel d.ref (reorder (updRecord d.ref (fun x => { x with overdue := some ⟨min 1440 (o.minutes + 1), 60000⟩ }) s)) := by
  simp only [riseOverdue, hd, Option.bind_some, ho]
  rfl

theorem filter_ref_length {rs : List Departure} {d : Departure} (hn : (rs.map (·.ref)).Nodup) (hd : d ∈ rs) :
    (rs.filter (·.ref != d.ref)).length + 1 = rs.length := by
  have hone : rs.countP (·.ref == d.ref) = 1 := by
    rw [show rs.countP (·.ref == d.ref) = (rs.map (·.ref)).count d.ref by rw [List.count, List.countP_map]; rfl]
    exact List.count_eq_one_of_mem hn (List.mem_map_of_mem hd)
  have hsum := List.length_eq_countP_add_countP (fun x : Departure => x.ref == d.ref) (l := rs)
  rw [hone, List.countP_eq_length_filter] at hsum
  simp only [Bool.not_eq_true, beq_eq_false_iff_ne, ne_eq] at hsum ⊢
  have hsame : rs.filter (·.ref != d.ref) = rs.filter fun x => decide (¬ x.ref = d.ref) :=
    List.filter_congr fun x _ => by by_cases h : x.ref = d.ref <;> simp [h]
  rw [hsame]
  omega

/-- Settles O49: the clock's second and minute, with the records whose minute passes; and the rise of a record, which may bring it to its
removal. -/
theorem clockAndOverdue : Obligations.ClockAndOverdue := by
  unfold Obligations.ClockAndOverdue
  refine ⟨fun s hheld hk => ?second, fun ref s hheld hk => ?rise⟩
  case second =>
    intro goes
    obtain ⟨-, hn, -⟩ := hk
    have hgoes : ∀ t, clockTick s = t → goes t := fun t h => by simp only [goes, exec_clockSecond s hheld, h]
    refine ⟨fun h => hgoes _ (by simp [clockTick, h]), fun h hs => hgoes _ ?_, fun h hs => ?_⟩
    · simp [clockTick, h, hs, secondMs]
    · intro m passes passed
      have htick : clockTick s = minuteChange { s with clock := { s.clock with phase := 1000 } } := by
        simp [clockTick, h, secondMs, not_lt.mpr hs]
      let u : State := { s with
        clock := ⟨s.clock.isSet, m, 0, 1000⟩
        book := { s.book with records := s.book.records.map fun d => if passes d then { d with overdue := some ⟨1, 60000⟩ } else d }
        dispatch := { s.dispatch with notices := s.dispatch.notices.departures passed }
        workshop := { s.workshop with notices := s.workshop.notices.departures passed } }
      have heq : clockTick s = reorder u := htick.trans (minuteChange_eq { s with clock := { s.clock with phase := 1000 } } hn)
      refine ⟨reorder u, hgoes _ heq, ?_, reorder_perm u, reorder_pairwise u, rfl, fun l => ?_, rfl⟩
      · show (⟨s.clock.isSet, m, 0, 1000⟩ : Clock) = _
        rw [h]
      · cases l <;> exact ⟨departures_departure _ _, rfl⟩
  case rise =>
    intro goes
    obtain ⟨-, hn, -⟩ := hk
    have hgoes : ∀ t, riseOverdue ref.toNat s = t → goes t := fun t h => by simp only [goes, exec_overdueRise ref s hheld, h]
    refine ⟨fun h => hgoes _ ?_, fun d hd href o ho => ?_⟩
    · have hnone : (s.book.find ref.toNat).bind (·.overdue) = none := by
        rw [Option.bind_eq_none_iff]
        exact fun d hd => h d (Book.mem_of_find hd).1 (Book.mem_of_find hd).2
      simp [riseOverdue, hnone]
    · intro n
      let f : Departure → Departure := fun x => { x with overdue := some ⟨n, 60000⟩ }
      have hrise : riseOverdue ref.toNat s = autoCancel d.ref (reorder (updRecord d.ref f s)) :=
        href ▸ riseOverdue_of_overdue (Book.find_eq_some hd hn) ho
      have hn₁ : ((updRecord d.ref f s).book.records.map (·.ref)).Nodup := by rwa [updRecord_refs (f := f) fun _ => rfl]
      have hfound : (reorder (updRecord d.ref f s)).book.find d.ref = some (f d) :=
        find_reorder (d := f d) (find_updRecord hd hn fun _ => rfl) hn₁
      have hn₂ : ((reorder (updRecord d.ref f s)).book.records.map (·.ref)).Nodup := ((reorder_perm _).map _).nodup_iff.mpr hn₁
      refine ⟨fun hstays => ⟨(reorder (updRecord d.ref f s)).book.records, hgoes _ ?_, reorder_perm _, reorder_pairwise (updRecord d.ref f s)⟩,
        fun hstate hlong => ⟨_, hgoes _ rfl, ?_⟩⟩
      · have hnot : (f d).goes = false := goes_eq_false_of (hstays.imp_right fun h x hx => by
          rw [← Option.some.inj hx]; exact h)
        rw [hrise, autoCancel_of_not_goes fun e he => by rwa [← Option.some.inj (hfound.symm.trans he)]]
        rfl
      · have hyes : (f d).goes = true := by
          simp only [Departure.goes, Bool.and_eq_true, bne_iff_ne, ne_eq]
          exact ⟨hstate, by simpa [f] using hlong⟩
        obtain ⟨hrecords, hlog, hframe, htells⟩ := cancelRecord_leaves (d := f d) (o := .autoCancelled) hstate hn₂
        rw [hrise, autoCancel_of_goes hfound hyes]
        refine ⟨fun x hx => ?_, ?_, ?_, htells, ?_⟩
        · obtain ⟨y, hy, hyx⟩ := forall₂_exists_left hrecords hx
          rw [(reboundIn_keys hyx).1]
          simpa using (List.mem_filter.mp hy).2
        · rw [← hrecords.length_eq, filter_ref_length hn₂ (Book.mem_of_find hfound).1, (reorder_perm _).length_eq]
          simp [updRecord_eq]
        · rw [hlog]
          exact loggedOut_log_getLast? (f d) .autoCancelled (reorder (updRecord d.ref f s))
        · exact congrArg (fun u : State => { u with
            book := s.book
            dispatch := { u.dispatch with notices := s.dispatch.notices }
            workshop := { u.workshop with notices := s.workshop.notices } }) hframe

end Sys2Proof.Machine

/-! PROOF. The clearance unit: REQUEST CLEARANCE and its decisions, a pending completion, the conditions of an evaluation, a revocation and
WITHDRAW CLEARANCE. -/

namespace Sys2Proof.Machine

/-! ## REQUEST CLEARANCE -/

/-- R184: a frame that passes its checks does its rule and is answered. -/
theorem takeFrameWith_of_taken {refused : Status → Response} {l : Link} {code : Byte} {bay : Option Byte}
    {rule : State → State × Response} {s : State} (hfree : (s.port l).responder = .free) (hp : permitted l code = true)
    (hb : ∀ b ∈ bay, s.fits b) : takeFrameWith refused l code bay rule s = answer l (rule s).2 (rule s).1 := by
  have hfits : (bay.map fun b => decide (s.bayCount ≤ b.toNat)).getD false = false := by
    cases bay with
    | none => rfl
    | some b => simpa [State.fits] using hb b rfl
  simp [takeFrameWith, (sending_eq_false_iff _).mpr hfree, hp, hfits]

/-- R158: the rule's answer, with the free reasons of this command (log 16). -/
theorem exec_requestClearance_of_ready {ref : Half} {cold : Bool} {s : State} (hr : s.ready .dispatch) :
    ∃ free, exec (.requestClearance .dispatch ref cold) s
      = .next (answer .dispatch
          ⟨(ruleRequestClearance ref.toNat cold free { s with choices := s.choices + 1 }).2.1,
            .clearance ref.toNat (ruleRequestClearance ref.toNat cold free { s with choices := s.choices + 1 }).2.2⟩
          (ruleRequestClearance ref.toNat cold free { s with choices := s.choices + 1 }).1) := by
  obtain ⟨hheld, hfree⟩ := hr
  refine ⟨Config.openReasons s.choices, ?_⟩
  show event (takeRequestClearance .dispatch ref cold) s = _
  rw [event_of_not_held hheld, takeRequestClearance, withFreeReasons]
  rw [takeFrameWith_of_taken (l := .dispatch) (s := { s with choices := s.choices + 1 }) hfree (by decide) (by simp)]
  rfl

/-- Settles O33: the rule by the record's state. -/
theorem clearanceRequested : Obligations.ClearanceRequested := by
  unfold Obligations.ClearanceRequested
  intro ref cold s hr hk u answers
  obtain ⟨-, hn, -⟩ := hk
  obtain ⟨free, hexec⟩ := exec_requestClearance_of_ready (ref := ref) (cold := cold) hr
  have hanswers : ∀ st rs t, ruleRequestClearance ref.toNat cold free u = (t, (st, rs)) → answers st rs t := fun st rs t h => by
    simp only [answers, hexec]
    rw [show ruleRequestClearance ref.toNat cold free { s with choices := s.choices + 1 } = (t, (st, rs)) from h]
  refine ⟨fun h => ⟨free, hanswers _ _ _ ?_⟩, fun d hd href => ?_⟩
  · have hnone : u.book.find ref.toNat = none := (Book.find_eq_none_iff _ _).mpr h
    simp [ruleRequestClearance, hnone]
  · have hfind : u.book.find ref.toNat = some d := href ▸ Book.find_eq_some hd hn
    refine ⟨fun hstate => hanswers _ _ _ ?_, fun hstate => ⟨free, hanswers _ _ _ ?_⟩, fun hstate => ⟨free, hanswers _ _ _ ?_⟩⟩
    · simp only [ruleRequestClearance, hfind, hstate]
      rfl
    · simp only [ruleRequestClearance, hfind, hstate, href]
      rfl
    · simp only [ruleRequestClearance, hfind, hstate]

/-! ## The conditions (R157) -/

theorem getLsbD_reasonIf (c : Bool) (x : ReasonSet) (i : Nat) : (reasonIf c x).getLsbD i = (c && x.getLsbD i) := by
  cases c <;> simp [reasonIf]

theorem evaluate_of_not_bound {s : State} {d : Departure} (cold : Bool)
    (h : (d.state ≠ .bound ∧ d.state ≠ .clearing) ∨ ∀ b, d.bay = some b → (s.bay b).state ≠ .bound) : s.evaluate d cold = 0x001#12 := by
  unfold State.evaluate
  cases hb : d.bay with
  | none => rfl
  | some b =>
    dsimp only
    rw [if_neg]
    · rfl
    · rintro ⟨hstate, hbay⟩
      rcases h with ⟨h₁, h₂⟩ | h
      · exact hstate.elim h₁ h₂
      · exact h b hb hbay

theorem evaluate_of_bound {s : State} {d : Departure} {b : BayNo} (cold : Bool) (hb : d.bay = some b)
    (hstate : d.state = .bound ∨ d.state = .clearing) (hbay : (s.bay b).state = .bound) : s.evaluate d cold = s.judge d b cold := by
  simp only [State.evaluate, hb]
  rw [if_pos ⟨hstate, hbay⟩]

/-- The bits of an evaluation, each with its condition. -/
theorem judge_getLsbD (s : State) (d : Departure) (b : BayNo) (cold : Bool) (i : Nat) : (s.judge d b cold).getLsbD i =
    ((s.bay b).hold && reasonHold.getLsbD i || s.silent b && reasonPostSilent.getLsbD i
      || s.hasBlock b && reasonBlockingDefect.getLsbD i || s.store.marks[b].any && reasonOverflow.getLsbD i
      || !s.lampMet b && reasonLamp.getLsbD i || !s.reader.readSince[b] && reasonFaultRead.getLsbD i
      || !cold && s.coldCabin d b && reasonCold.getLsbD i || !cold && s.staleSense b && reasonStaleSense.getLsbD i
      || decide (s.clearance.window < d.ahead s.clock.minute) && reasonEarly.getLsbD i) := by
  simp only [State.judge, BitVec.getLsbD_or, getLsbD_reasonIf]

theorem lampMet_iff (s : State) (b : BayNo) : s.lampMet b = true ↔
    ∃ r, s.lamp.results[b] = some r ∧ r.outcome ∈ [.passed, .passedWithNotes, .failed] ∧ r.age / 60000 ≤ s.lamp.freshness := by
  unfold State.lampMet
  cases s.lamp.results[b] with
  | none => simp
  | some r =>
    have hcomplete : r.outcome.isComplete = true ↔ r.outcome ∈ [.passed, .passedWithNotes, .failed] := by
      cases r.outcome <;> simp [LampOutcome.isComplete]
    simp only [Bool.and_eq_true, hcomplete, Option.some.injEq, exists_eq_left']
    exact and_congr_right fun _ => decide_eq_true_iff

theorem coldCabin_iff (s : State) (d : Departure) (b : BayNo) : s.coldCabin d b = true ↔
    ∃ c, (s.bay b).cabin = some c ∧ c.temperature < d.target.getD s.planner.defaultTarget - s.planner.tolerance := by
  unfold State.coldCabin State.targetOf
  cases (s.bay b).cabin <;> simp

theorem staleSense_iff (s : State) (b : BayNo) : s.staleSense b = true ↔ ∀ c, (s.bay b).cabin = some c → 30 < c.age / 1000 := by
  unfold State.staleSense
  cases (s.bay b).cabin with
  | none => simp
  | some c =>
    simp only [Option.some.injEq, forall_eq']
    exact decide_eq_true_iff

theorem hasBlock_iff (s : State) (b : BayNo) : s.hasBlock b = true ↔
    ∃ e ∈ s.store.lists[b], e.action = .block ∧ (e.state = .opened ∨ e.state = .acknowledged) := by
  have hstanding : ∀ x : DefectState, x.standing = true ↔ x = .opened ∨ x = .acknowledged := fun x => by
    cases x <;> simp [DefectState.standing]
  simp [State.hasBlock, hstanding]

theorem ahead_eq (t : Nat) (d : Departure) : d.ahead t = if d.overdue.isSome then 0 else (d.minute + 1440 - t) % 1440 := by
  cases h : d.overdue <;> simp [Departure.ahead, minutesAheadOf, h]

/-- Settles O35: the reasons are the bits of judge. -/
theorem conditions : Obligations.Conditions := by
  unfold Obligations.Conditions
  intro s d cold
  refine ⟨evaluate_of_not_bound cold, fun b hb hstate hbay => ?_⟩
  intro rs target
  have hrs : rs = s.judge d b cold := evaluate_of_bound cold hb (List.mem_pair.mp hstate) hbay
  have hbit := judge_getLsbD s d b cold
  rw [← hrs] at hbit
  simp only [hbit, reasonHold, reasonPostSilent, reasonBlockingDefect, reasonOverflow, reasonLamp, reasonFaultRead, reasonCold,
    reasonStaleSense, reasonEarly]
  refine ⟨by simp, by simp, by simp [State.silent], ?_, ?_, ?_, by simp, ?_, ?_, ?_, by simp, by simp⟩
  · simpa using hasBlock_iff s b
  · simp [Marks.any, or_assoc]
  · rw [← lampMet_iff]
    simp
  · rw [← coldCabin_iff]
    simp
  · rw [← staleSense_iff]
    simp
  · rw [← ahead_eq]
    simp

/-! ## Grants and refusals (R13, R48, R160) -/

/-- R166, R167: the recorded signal and its ALERT timer, and the request when the record changes and the post answers. -/
theorem setSignal_eq (b : BayNo) (a : Aspect) (s : State) : setSignal b a s = { s with
    clearance := { s.clearance with
      signals := s.clearance.signals.set b a
      alerts := if s.clearance.signals[b] = a then s.clearance.alerts
        else s.clearance.alerts.set b (if a = .alert then some 300000 else none) }
    bus := if s.clearance.signals[b] = a ∨ s.bus.posts[b].silent = true then s.bus else s.signalled b a } := by
  by_cases h : s.clearance.signals[b] = a
  · have hsame : s.clearance.signals.set b a = s.clearance.signals := by
      rw [← h]
      exact Vector.set_getElem_self b.isLt
    rw [setSignal, if_pos h, hsame]
    simp only [h, true_or, if_true]
  · rw [setSignal_of_ne h]
    simp only [h, false_or, if_false]

/-- R160: the state a grant makes, at a bay that is BOUND. -/
theorem grant_eq {ref : Nat} {b : BayNo} {s : State} (hbay : (s.bay b).state = .bound) : grant ref b s =
    notifyBay .clearance b (notifyBay .bay b { s with
      book := { s.book with
        records := s.book.records.map fun x => if x.ref = ref then { x with state := .cleared, reasons := none } else x }
      bays := s.bays.set b { s.bay b with state := if (s.bay b).plug then .cleared else .leaving }
      clearance := { s.clearance with
        pending := s.clearance.pending.filter (·.ref != ref)
        signals := s.clearance.signals.set b .green
        alerts := if s.clearance.signals[b] = .green then s.clearance.alerts else s.clearance.alerts.set b none }
      bus := if s.clearance.signals[b] = .green ∨ s.bus.posts[b].silent = true then s.withdrawn (Job.isIdentFor b)
        else ({ s with bus := s.withdrawn (Job.isIdentFor b) } : State).signalled b .green }) := by
  have hwithdrawn : withdrawIdent b (updRecord ref (fun d => { d with state := .cleared, reasons := none }) s) = { s with
      book := { s.book with
        records := s.book.records.map fun x => if x.ref = ref then { x with state := .cleared, reasons := none } else x }
      bus := s.withdrawn (Job.isIdentFor b) } := withdraw_withdrawn _ _
  unfold grant
  dsimp only
  rw [hwithdrawn]
  rw [setBayState_of_ne]
  · rw [setSignal_eq]
    rfl
  · show (s.bay b).state ≠ if (s.bay b).plug then .cleared else .leaving
    rw [hbay]
    split_ifs <;> decide

/-- R166: the SIGNAL request stands among those that wait. -/
theorem waits_signalled (s : State) (b : BayNo) (a : Aspect) :
    (s.signalled b a).waiting.any (fun r => r.job == .signal b a) = true := by
  unfold State.signalled State.asked
  dsimp only
  split_ifs with h
  · obtain ⟨r, hr, hp⟩ := List.any_eq_true.mp h
    exact List.any_eq_true.mpr ⟨_, List.mem_map_of_mem hr, by simp [hp]⟩
  · simp

/-- R179: after the withdrawal no such request waits or counts as in flight. -/
theorem outstanding_withdrawn (s : State) (p : Job → Bool) : ({ s with bus := s.withdrawn p } : State).outstanding p = false := by
  have hwaits : ({ s with bus := s.withdrawn p } : State).waits p = false := by
    simp [State.waits, State.withdrawn]
  have hflies : ({ s with bus := s.withdrawn p } : State).flies p = false := by
    unfold State.flies State.withdrawn
    cases s.bus.wire with
    | free => rfl
    | quiet => rfl
    | busy x => cases hp : p x.job <;> simp [hp]
  rw [State.outstanding, hwaits, hflies]
  rfl

/-- A SIGNAL request is no ident request. -/
theorem outstanding_signalled {s : State} {b : BayNo} {a : Aspect} (h : s.outstanding (Job.isIdentFor b) = false) :
    ({ s with bus := s.signalled b a } : State).outstanding (Job.isIdentFor b) = false := by
  have hkind : ∀ j : Job, j.isSignalFor b = true → j.isIdentFor b = false := fun j hj => by
    cases j <;> first | rfl | simp [Job.isSignalFor] at hj
  rw [State.outstanding, Bool.or_eq_false_iff] at h ⊢
  obtain ⟨hwaits, hflies⟩ := h
  refine ⟨?_, hflies⟩
  simp only [State.waits, List.any_eq_false] at hwaits ⊢
  intro r hr
  unfold State.signalled State.asked at hr
  dsimp only at hr
  split_ifs at hr
  · obtain ⟨q, hq, rfl⟩ := List.mem_map.mp hr
    split_ifs with hsignal
    · simp [Job.isIdentFor]
    · exact hwaits q hq
  · rcases List.mem_append.mp hr with hr | hr
    · exact hwaits r hr
    · obtain rfl := List.mem_singleton.mp hr
      simp [Job.isIdentFor]

/-- R48: the state a refusal makes. -/
theorem refuse_eq (ref : Nat) (b : BayNo) (rs : ReasonSet) (s : State) : refuse ref b rs s = notifyBay .clearance b { s with
    book := { s.book with
      records := s.book.records.map fun x => if x.ref = ref then { x with state := .bound, reasons := some rs } else x }
    clearance := { s.clearance with pending := s.clearance.pending.filter (·.ref != ref) } } := rfl

/-- R157: an evaluation without NOT_BOUND is judge's, at a BOUND bay. -/
theorem bay_bound_of_evaluate {s : State} {d : Departure} {b : BayNo} {cold : Bool} (hb : d.bay = some b)
    (h : s.evaluate d cold ≠ 0x001#12) : (s.bay b).state = .bound ∧ s.evaluate d cold = s.judge d b cold := by
  by_cases hbound : (d.state = .bound ∨ d.state = .clearing) ∧ (s.bay b).state = .bound
  · exact ⟨hbound.2, evaluate_of_bound cold hb hbound.1 hbound.2⟩
  · refine absurd (evaluate_of_not_bound cold ?_) h
    by_cases hstate : d.state = .bound ∨ d.state = .clearing
    · exact .inr fun c hc => by
        obtain rfl := Option.some.inj (hb.symm.trans hc)
        exact fun hbay => hbound ⟨hstate, hbay⟩
    · exact .inl (not_or.mp hstate)

theorem remediable_iff (rs : ReasonSet) : rs.remediable = true ↔ rs &&& ~~~0x060#12 = 0#12 := by
  simp only [ReasonSet.remediable, beq_iff_eq]
  exact Iff.rfl

theorem ne_notBound_of_remediable {rs : ReasonSet} (h : rs &&& ~~~0x060#12 = 0#12) : rs ≠ 0x001#12 := by
  rintro rfl
  exact absurd h (by decide)

theorem holds_iff (r x : ReasonSet) : r.holds x = true ↔ r &&& x ≠ 0#12 := by simp [ReasonSet.holds]

/-! ## What the decisions leave of a CLEARED record's reasons -/

/-- R160: a CLEARED record with this ref carries no reasons. -/
def Book.clearedBare (k : Book) (ref : Nat) : Prop := ∀ x ∈ k.records, x.ref = ref → x.state = .cleared → x.reasons = none

theorem notifyBay_book (k : NoticeKind) (b : BayNo) (s : State) : (notifyBay k b s).book = s.book := rfl

theorem setSignal_book (b : BayNo) (a : Aspect) (s : State) : (setSignal b a s).book = s.book := by rw [setSignal_frame]

theorem withdraw_book (p : Job → Bool) (s : State) : (withdraw p s).book = s.book := by rw [withdraw_frame]

theorem endPending_book (ref : Nat) (s : State) : (endPending ref s).book = s.book := rfl

theorem returnBay_book (b : BayNo) (s : State) : (returnBay b s).book = s.book := by
  rw [returnBay, setSignal_book, setBayState_book]

theorem grant_book (r : Nat) (b : BayNo) (s : State) :
    (grant r b s).book = (updRecord r (fun d => { d with state := .cleared, reasons := none }) s).book := by
  unfold grant withdrawIdent
  dsimp only
  rw [notifyBay_book, setSignal_book, endPending_book, setBayState_book, withdraw_book]

theorem startRelease_book (e : EngineNo) (b : BayNo) (s : State) : (startRelease e b s).book = s.book := by
  unfold startRelease
  split <;> rfl

theorem revoke_eq (ref : Nat) (b : BayNo) (s : State) :
    revoke ref b s = autoCancel ref (notifyBay .clearance b (returnBay b (updRecord ref (fun d => { d with state := .bound }) s))) := rfl

section ClearedBare

variable {ref : Nat} {s : State} (h : s.book.clearedBare ref)
include h

theorem clearedBare_updRecord {f : Departure → Departure} (r : Nat) (hf : ∀ x, (f x).state = .cleared → (f x).reasons = none) :
    (updRecord r f s).book.clearedBare ref := by
  intro x hx href hstate
  obtain ⟨y, hy, rfl⟩ := List.mem_map.mp hx
  split_ifs at * with hy'
  · exact hf y hstate
  · exact h y hy href hstate

theorem clearedBare_bindWhere (p : Departure → Bool) (b : BayNo) : (bindWhere p b s).book.clearedBare ref := by
  rcases bindWhere_cases p b s with h' | ⟨d, -, -, -, -, -, -, h'⟩ <;> rw [h']
  · exact h
  · rw [notifyBay_book]
    exact clearedBare_updRecord h (f := Departure.boundAt b) d.ref fun x hx => by simp [Departure.boundAt] at hx

theorem clearedBare_loggedOut (d : Departure) (o : LogOutcome) : (s.loggedOut d o).book.clearedBare ref :=
  fun x hx => h x (List.mem_filter.mp hx).1

theorem clearedBare_cancelRecord (d : Departure) (o : LogOutcome) : (cancelRecord d o s).book.clearedBare ref := by
  have hgone := clearedBare_loggedOut h d o
  unfold cancelRecord
  rw [removeAndNotify_eq_loggedOut]
  generalize s.loggedOut d o = gone at hgone
  cases d.state <;> cases d.bay <;> dsimp only
  case booked.none | booked.some | bound.none | clearing.none | cleared.none => exact hgone
  case bound.some => exact clearedBare_bindWhere hgone _ _
  case clearing.some => exact clearedBare_bindWhere (s := dropPending d.ref _ gone) hgone _ _
  case cleared.some => exact clearedBare_bindWhere (by rwa [returnBay_book]) _ _

theorem clearedBare_autoCancel (r : Nat) : (autoCancel r s).book.clearedBare ref := by
  cases hd : s.book.find r with
  | none => rwa [autoCancel_of_not_goes fun d hd' => by simp [hd] at hd']
  | some d =>
    cases hgoes : d.goes with
    | false => rwa [autoCancel_of_not_goes fun e he => by rwa [← Option.some.inj (hd.symm.trans he)]]
    | true =>
      rw [autoCancel_of_goes hd hgoes]
      exact clearedBare_cancelRecord h d _

theorem clearedBare_revoke (r : Nat) (b : BayNo) : (revoke r b s).book.clearedBare ref := by
  have hbound := clearedBare_updRecord h (f := fun d => { d with state := .bound }) r fun x hx => by simp at hx
  rw [revoke_eq]
  refine clearedBare_autoCancel ?_ _
  rwa [notifyBay_book, returnBay_book]

theorem clearedBare_reportToClearance (b : BayNo) : (reportToClearance b s).book.clearedBare ref := by
  unfold reportToClearance
  split
  · exact h
  · split
    · exact clearedBare_revoke h _ _
    · exact h

theorem clearedBare_pendingCompletion (b : BayNo) : (pendingCompletion b s).book.clearedBare ref := by
  unfold pendingCompletion
  split
  · exact h
  · next d _ =>
    split
    · exact h
    · split
      · exact h
      · dsimp only
        split
        · rw [grant_book]
          exact clearedBare_updRecord h d.ref fun _ _ => rfl
        · split
          · exact h
          · rw [refuse, notifyBay_book, endPending_book]
            exact clearedBare_updRecord h d.ref fun x hx => by simp at hx

theorem clearedBare_reportWrite (b : BayNo) (e : Effect) (notable : Bool) : (reportWrite b e notable s).book.clearedBare ref := by
  have hnoted : (if notable = true then notifyBay .defect b s else s).book.clearedBare ref := by split <;> exact h
  unfold reportWrite
  generalize (if notable = true then notifyBay .defect b s else s) = v at hnoted
  have hleft : (if e.inhibits = true then leaveOnSet b v else v).book.clearedBare ref := by
    split
    · rwa [leaveOnSet_book]
    · exact hnoted
  dsimp only
  generalize (if e.inhibits = true then leaveOnSet b v else v) = w at hleft
  split
  · exact clearedBare_reportToClearance hleft b
  · exact hleft

theorem clearedBare_mergeInto (b : BayNo) (m : Store → Store × Effect) : (mergeInto b m s).book.clearedBare ref := by
  unfold mergeInto
  split
  · exact clearedBare_reportWrite (s := { s with store := (m s.store).1 }) h b _ _
  · exact h

theorem clearedBare_endTest (b : BayNo) : (endTest b s).book.clearedBare ref :=
  clearedBare_pendingCompletion (s := notifyBay .lamp b s) h b

theorem clearedBare_abortTest (e : EngineNo) (reason : LampReason) : (abortTest e reason s).book.clearedBare ref := by
  unfold abortTest
  split
  · exact h
  · exact h
  · next t _ =>
    have hstopped : (writeResult t.bay (.incomplete reason) (some t.results) (setEngine e (.releasing t.bay) (stopSteps e s))).book.clearedBare
        ref := by
      show (stopSteps e s).book.clearedBare ref
      rwa [stopSteps, withdraw_book]
    dsimp only
    generalize writeResult t.bay (.incomplete reason) (some t.results) (setEngine e (.releasing t.bay) (stopSteps e s)) = u at hstopped
    have hended := clearedBare_endTest (clearedBare_mergeInto hstopped t.bay fun st => st.mergePartial t.bay t.results) t.bay
    split
    · exact hended
    · rwa [startRelease_book]

theorem clearedBare_startTest (e : EngineNo) (b : BayNo) (c : ClassRecord) : (startTest e b c s).book.clearedBare ref := by
  unfold startTest
  split
  · exact h
  · next first _ =>
    have hleft : (leaveOnSet b (setEngine e (.running ⟨b, c.lamps, c.settle, first, freshResults c.lamps, none⟩) s)).book.clearedBare ref := by
      rw [leaveOnSet_book]
      exact h
    dsimp only
    generalize leaveOnSet b (setEngine e (.running ⟨b, c.lamps, c.settle, first, freshResults c.lamps, none⟩) s) = u at hleft
    unfold requestStep
    split
    · exact clearedBare_abortTest hleft _ _
    · exact hleft

theorem clearedBare_takeTest (e : EngineNo) (b : BayNo) : (takeTest e b s).book.clearedBare ref := by
  unfold takeTest
  split
  · exact clearedBare_endTest (s := writeResult b _ none s) h b
  · split
    · exact h
    · exact clearedBare_startTest h e b _

omit h in
theorem clearedBare_takeTests (n : Nat) (h : s.book.clearedBare ref) : (takeTests n s).book.clearedBare ref := by
  induction n generalizing s with
  | zero => exact h
  | succ n ih =>
    unfold takeTests
    split
    · exact ih (clearedBare_takeTest (s := s.updLamp _) h _ _)
    · exact h

theorem clearedBare_requestTest (b : BayNo) (lv : Level) : (requestTest b lv s).1.book.clearedBare ref := by
  unfold requestTest
  split
  · exact h
  · split
    · split <;> exact h
    · split
      · exact h
      · exact clearedBare_takeTests (s := s.updLamp _) _ h

theorem clearedBare_endRead (b : BayNo) (r : Reading) (o : ReadOutcome) : (endRead b r o s).book.clearedBare ref := by
  have hmerged : (if o.merges = true then mergeInto b (fun st => st.mergeFaults b (decide (o = .complete))
      (r.gathered.map fun g => (g, s.reader.actionOf g))) s else s).book.clearedBare ref := by
    split
    · exact clearedBare_mergeInto h b _
    · exact h
  unfold endRead
  dsimp only
  generalize (if o.merges = true then mergeInto b (fun st => st.mergeFaults b (decide (o = .complete))
      (r.gathered.map fun g => (g, s.reader.actionOf g))) s else s) = u at hmerged
  refine clearedBare_pendingCompletion ?_ b
  split <;> exact hmerged

theorem clearedBare_failRead (b : BayNo) (reason : ReadReason) : (failRead b reason s).book.clearedBare ref := by
  unfold failRead
  split
  · exact h
  · exact clearedBare_endRead (by rwa [withdraw_book]) b _ _

theorem clearedBare_requestFaultReading (b : BayNo) : (requestFaultReading b s).1.book.clearedBare ref := by
  unfold requestFaultReading
  split
  · exact h
  · split
    · exact h
    · show (startRead b s).book.clearedBare ref
      unfold startRead
      split
      · exact clearedBare_endRead h b _ _
      · unfold requestPage
        split
        · exact clearedBare_failRead (s := setReading b _ s) h b _
        · exact h

end ClearedBare

/-! ## A request for a BOUND record (R158 to R160) -/

theorem evaluate_silent {s : State} {d : Departure} {b : BayNo} {cold : Bool} (hb : d.bay = some b)
    (h : s.evaluate d cold &&& ~~~0x060#12 = 0#12) : s.silent b = false := by
  obtain ⟨-, hjudge⟩ := bay_bound_of_evaluate hb (ne_notBound_of_remediable h)
  have hbit : (s.evaluate d cold).getLsbD 2 = false := by
    have := congrArg (BitVec.getLsbD · 2) h
    simpa using this
  rw [hjudge, judge_getLsbD] at hbit
  simp only [Bool.or_eq_false_iff] at hbit
  have hsilent : (s.silent b && reasonPostSilent.getLsbD 2) = false := by tauto
  simpa [reasonPostSilent] using hsilent

theorem notifyBay_notifyBay_clearance (b : BayNo) (s : State) : notifyBay .clearance b (notifyBay .clearance b s) = notifyBay .clearance b s := by
  have hport : ∀ p : Port, (p.notices.add .clearance (BaySet.single b)).add .clearance (BaySet.single b)
      = p.notices.add .clearance (BaySet.single b) := fun p => by
    simp [Notices.add, BitVec.or_assoc]
  show ({ s with
    dispatch := { s.dispatch with notices := (s.dispatch.notices.add .clearance _).add .clearance _ }
    workshop := { s.workshop with notices := (s.workshop.notices.add .clearance _).add .clearance _ } } : State) = _
  rw [hport, hport]
  rfl

/-- R13, R48, R160: t is s with the record d cleared at bay b. -/
def State.grantedFor (s t : State) (d : Departure) (b : BayNo) : Prop :=
  t.book = { s.book with
      records := s.book.records.map fun x => if x.ref = d.ref then { x with state := .cleared, reasons := none } else x }
    ∧ t.bays = s.bays.set b { s.bay b with state := if (s.bay b).plug then .cleared else .leaving }
    ∧ t.clearance.pending = s.clearance.pending.filter (·.ref != d.ref) ∧ t.clearance.signals = s.clearance.signals.set b .green
    ∧ t.clearance.alerts = (if s.clearance.signals[b] = .green then s.clearance.alerts else s.clearance.alerts.set b none)
    ∧ (s.clearance.signals[b] ≠ .green → s.bus.posts[b].silent = false → t.waits (· == .signal b .green) = true)
    ∧ t.clearance.window = s.clearance.window
    ∧ t.outstanding (Job.isIdentFor b) = false
    ∧ (let rest : State := { s with bus := s.withdrawn (Job.isIdentFor b) }
      t.bus = if s.clearance.signals[b] = .green ∨ s.bus.posts[b].silent = true then rest.bus else rest.signalled b .green)
    ∧ (∀ l, (t.port l).notices = ((s.port l).notices.add .bay (BaySet.single b)).add .clearance (BaySet.single b))
    ∧ { t with
        book := s.book
        bays := s.bays
        bus := s.bus
        clearance := s.clearance
        dispatch := { t.dispatch with notices := s.dispatch.notices }
        workshop := { t.workshop with notices := s.workshop.notices } } = s

theorem outstanding_of_bus {s t : State} (h : t.bus = s.bus) (p : Job → Bool) : t.outstanding p = s.outstanding p := by
  unfold State.outstanding State.waits State.flies
  rw [h]

theorem grant_grantedFor {d : Departure} {b : BayNo} {s : State} (hbay : (s.bay b).state = .bound) : s.grantedFor (grant d.ref b s) d b := by
  rw [grant_eq hbay]
  have hnone := outstanding_withdrawn s (Job.isIdentFor b)
  refine ⟨rfl, rfl, rfl, rfl, rfl, fun hred hsilent => ?_, rfl, ?_, rfl, fun l => by cases l <;> rfl, rfl⟩
  · show ((if s.clearance.signals[b] = .green ∨ s.bus.posts[b].silent = true then s.withdrawn (Job.isIdentFor b)
      else ({ s with bus := s.withdrawn (Job.isIdentFor b) } : State).signalled b .green).waiting.any _) = true
    rw [if_neg (not_or.mpr ⟨hred, Bool.eq_false_iff.mp hsilent⟩)]
    exact waits_signalled _ b .green
  · by_cases hquiet : s.clearance.signals[b] = .green ∨ s.bus.posts[b].silent = true
    · rw [outstanding_of_bus (s := { s with bus := s.withdrawn (Job.isIdentFor b) }) (if_pos hquiet)]
      exact hnone
    · rw [outstanding_of_bus (s := { s with bus := ({ s with bus := s.withdrawn (Job.isIdentFor b) } : State).signalled b .green })
        (if_neg hquiet)]
      exact outstanding_signalled hnone

/-! ## A request for a BOUND record, by its reasons -/

theorem decideRequest_of_none {ref : Nat} {b : BayNo} {cold : Bool} {free : ReasonSet} {s : State} :
    decideRequest ref b cold 0#12 free s = (arbitrate (grant ref b s), (.ok, 0#12)) := if_pos rfl

theorem decideRequest_of_unremediable {ref : Nat} {b : BayNo} {cold : Bool} {rs free : ReasonSet} {s : State}
    (h : rs &&& ~~~0x060#12 ≠ 0#12) : decideRequest ref b cold rs free s = (refuse ref b rs s, (.ok, rs)) := by
  have hne : rs ≠ 0#12 := by rintro rfl; exact h (by decide)
  have hrem : rs.remediable = false := by rwa [Bool.eq_false_iff, ne_eq, remediable_iff]
  simp [decideRequest, hne, hrem]

theorem decideRequest_of_remediable {ref : Nat} {b : BayNo} {cold : Bool} {rs free : ReasonSet} {s : State} (hne : rs ≠ 0#12)
    (h : rs &&& ~~~0x060#12 = 0#12) : decideRequest ref b cold rs free s =
      (arbitrate (askRead ref b rs (askTest ref b rs (createPending ref b cold s))),
        (askRead ref b rs (askTest ref b rs (createPending ref b cold s))).clearanceOutcome ref free) := by
  have hrem : rs.remediable = true := (remediable_iff rs).mpr h
  simp only [decideRequest, hne, hrem, Bool.not_true, Bool.false_eq_true, if_false]
  rfl

theorem clearanceOutcome_of_find {s : State} {ref : Nat} {free : ReasonSet} {x : Departure} (hx : s.book.find ref = some x) :
    s.clearanceOutcome ref free = if x.state = .clearing then (.pending, free)
      else (.ok, if x.state = .cleared then 0#12 else x.reasons.getD 0#12) := by
  simp only [State.clearanceOutcome, hx]
  cases hs : x.state <;> simp

theorem clearanceOutcome_of_none {s : State} {ref : Nat} {free : ReasonSet} (h : s.book.find ref = none) :
    s.clearanceOutcome ref free = (.ok, 0#12) := by
  simp only [State.clearanceOutcome, h]

theorem isClearing_iff (s : State) (ref : Nat) : s.isClearing ref = true ↔ ∃ x, s.book.find ref = some x ∧ x.state = .clearing := by
  unfold State.isClearing
  cases s.book.find ref <;> simp

theorem askRead_of_read {ref : Nat} {b : BayNo} {rs : ReasonSet} {s : State} (hread : rs &&& 0x040#12 ≠ 0#12)
    (h : ∃ x, s.book.find ref = some x ∧ x.state = .clearing) : askRead ref b rs s = (requestFaultReading b s).1 := by
  have hholds : rs.holds reasonFaultRead = true := (holds_iff _ _).mpr hread
  simp [askRead, hholds, (isClearing_iff s ref).mpr h]

theorem askRead_of_not {ref : Nat} {b : BayNo} {rs : ReasonSet} {s : State}
    (h : ¬ rs &&& 0x040#12 ≠ 0#12 ∨ ¬ ∃ x, s.book.find ref = some x ∧ x.state = .clearing) : askRead ref b rs s = s := by
  have hholds : rs.holds reasonFaultRead = true ↔ rs &&& 0x040#12 ≠ 0#12 := holds_iff _ _
  rw [askRead, if_neg]
  rw [Bool.and_eq_true, isClearing_iff, hholds]
  exact not_and_or.mpr h

theorem askTest_of_not_lamp {ref : Nat} {b : BayNo} {rs : ReasonSet} {s : State} (h : ¬ rs &&& 0x020#12 ≠ 0#12) : askTest ref b rs s = s := by
  have hholds : rs.holds reasonLamp = true ↔ rs &&& 0x020#12 ≠ 0#12 := holds_iff _ _
  rw [askTest, if_neg (by rwa [hholds])]

theorem askTest_of_lamp {ref : Nat} {b : BayNo} {rs : ReasonSet} {s : State} (h : rs &&& 0x020#12 ≠ 0#12) : askTest ref b rs s =
    if (requestTest b .urgent s).2 = .queueFull then refuse ref b rs (requestTest b .urgent s).1 else (requestTest b .urgent s).1 := by
  have hholds : rs.holds reasonLamp = true := (holds_iff _ _).mpr h
  rw [askTest, if_pos hholds]

/-- R104: a request meets a full queue only when no test is queued or running for the bay. -/
theorem requestTest_of_full {b : BayNo} {lv : Level} {s : State} (hbound : s.boundAt b = true) (htest : s.testActive b = false)
    (hfull : 8 ≤ s.lamp.queue.length) : requestTest b lv s = (s, .queueFull) := by
  simp [requestTest, hbound, htest, queueRoom, hfull]

theorem requestTest_ne_full {b : BayNo} {lv : Level} {s : State} (h : s.testActive b = true ∨ s.lamp.queue.length < 8) :
    (requestTest b lv s).2 ≠ .queueFull := by
  unfold requestTest
  split
  · simp
  · split
    · split <;> simp
    · next htest =>
      rw [if_neg (show ¬ queueRoom ≤ s.lamp.queue.length from not_le.mpr (h.resolve_left htest))]
      simp

theorem boundAt_of_bound {s : State} {b : BayNo} (h : (s.bay b).state = .bound) : s.boundAt b = true := by
  simp [State.boundAt, h, BayState.isBound]

/-- R159, step 1: the record stands CLEARING. -/
theorem find_createPending {d : Departure} {b : BayNo} {cold : Bool} {s : State} (hd : d ∈ s.book.records)
    (hn : (s.book.records.map (·.ref)).Nodup) :
    (createPending d.ref b cold s).book.find d.ref = some { d with state := .clearing } :=
  find_updRecord (f := fun x => { x with state := .clearing }) hd hn fun _ => rfl

/-- R159, step 2: a full queue takes the pending clearance back. -/
theorem refuse_createPending (ref : Nat) (b : BayNo) (cold : Bool) (rs : ReasonSet) (s : State) :
    refuse ref b rs (createPending ref b cold s) = refuse ref b rs s := by
  have hbook : (updRecord ref (fun x => { x with state := .bound, reasons := some rs }) (updRecord ref (fun x => { x with state := .clearing }) s)).book
      = (updRecord ref (fun x => { x with state := .bound, reasons := some rs }) s).book := by
    simp only [updRecord_eq, List.map_map]
    congr 1
    refine List.map_congr_left fun x _ => ?_
    dsimp only [Function.comp_apply]
    split_ifs <;> rfl
  have hpending : (s.clearance.pending ++ [(⟨ref, b, cold, pendingTime⟩ : PendingClearance)]).filter (·.ref != ref)
      = s.clearance.pending.filter (·.ref != ref) := by
    simp
  calc refuse ref b rs (createPending ref b cold s)
      = notifyBay .clearance b (notifyBay .clearance b { s with
          book := (updRecord ref (fun x => { x with state := .bound, reasons := some rs })
            (updRecord ref (fun x => { x with state := .clearing }) s)).book
          clearance := { s.clearance with
            pending := (s.clearance.pending ++ [(⟨ref, b, cold, pendingTime⟩ : PendingClearance)]).filter (·.ref != ref) } }) := rfl
    _ = _ := by
      rw [notifyBay_notifyBay_clearance, hbook, hpending]
      rfl

theorem find_refuse {d : Departure} {b : BayNo} {rs : ReasonSet} {s : State} (hd : d ∈ s.book.records)
    (hn : (s.book.records.map (·.ref)).Nodup) :
    (refuse d.ref b rs s).book.find d.ref = some { d with state := .bound, reasons := some rs } :=
  find_updRecord (f := fun x => { x with state := .bound, reasons := some rs }) hd hn fun _ => rfl

/-- R124: a read that starts at once. -/
theorem requestFaultReading_of_starts {b : BayNo} {s : State} (hbound : s.boundAt b = true) (hread : s.reader.reading[b] = none)
    (hplug : (s.bay b).plug = true) (hsilent : s.silent b = false) : (requestFaultReading b s).1 = { s with
      reader := { s.reader with reading := s.reader.reading.set b (some ⟨0, none, 0, [], 0⟩) }
      bus := { s.bus with waiting := s.bus.waiting ++ [⟨.faultPage b 0, s.bus.event⟩] } } := by
  have hidle : s.isReading b = false := by rw [State.isReading, hread]; rfl
  have hreadable : s.unreadable b = none := by simp [State.unreadable, hplug, hsilent]
  have hpost : (setReading b (some Reading.start) s).silent b = false := hsilent
  simp only [requestFaultReading, hbound, hidle, startRead, hreadable, requestPage, hpost, Bool.not_true, Bool.false_eq_true, if_false]
  rfl

/-- R159: a request made pending, whatever its test and read bring: the answer is the outcome that stands. -/
theorem clearanceOutcome_cases {ref : Nat} {free : ReasonSet} {t : State} (hbare : t.book.clearedBare ref) :
    ((t.clearanceOutcome ref free).1 = .pending ∨ (t.clearanceOutcome ref free).1 = .ok)
      ∧ ((t.clearanceOutcome ref free).1 = .pending ↔ ∃ x, t.book.find ref = some x ∧ x.state = .clearing)
      ∧ ∀ x, (t.clearanceOutcome ref free).1 = .ok → t.book.find ref = some x → (t.clearanceOutcome ref free).2 = x.reasons.getD 0#12 := by
  cases hx : t.book.find ref with
  | none => rw [clearanceOutcome_of_none hx]; simp
  | some x =>
    rw [clearanceOutcome_of_find hx]
    by_cases hclearing : x.state = .clearing
    · simp [hclearing]
    · simp only [hclearing, if_false]
      refine ⟨by simp, by simp [hclearing], ?_⟩
      rintro y - hy
      obtain rfl := Option.some.inj hy
      obtain ⟨hmem, href⟩ := Book.mem_of_find hx
      split_ifs with hcleared
      · rw [hbare x hmem href hcleared]
        rfl
      · rfl

/-- R161: every failing reason has the half that remedies it still running. -/
theorem halvesRunning_iff {s : State} {b : BayNo} {rs : ReasonSet} (h : rs &&& ~~~0x060#12 = 0#12) : s.halvesRunning b rs = true ↔
    (rs &&& 0x020#12 ≠ 0#12 → s.testActive b = true) ∧ (rs &&& 0x040#12 ≠ 0#12 → s.reader.reading[b] ≠ none) := by
  have hlamp : rs.holds reasonLamp = true ↔ rs &&& 0x020#12 ≠ 0#12 := holds_iff _ _
  have hread : rs.holds reasonFaultRead = true ↔ rs &&& 0x040#12 ≠ 0#12 := holds_iff _ _
  have hreading : s.isReading b = true ↔ s.reader.reading[b] ≠ none := by rw [State.isReading, Option.isSome_iff_ne_none]
  rw [← hlamp, ← hread, ← hreading, State.halvesRunning, (remediable_iff rs).mpr h]
  cases rs.holds reasonLamp <;> cases rs.holds reasonFaultRead <;> simp

theorem testActive_iff (s : State) (b : BayNo) : s.testActive b = true ↔
    (∃ q ∈ s.lamp.queue, q.bay = b) ∨ ∃ (e : EngineNo) (x : RunningTest), s.lamp.engines[e] = .running x ∧ x.bay = b := by
  have hengines : (s.lamp.engines.toList.any fun e => e.testing == some b) = true
      ↔ ∃ (e : EngineNo) (x : RunningTest), s.lamp.engines[e] = .running x ∧ x.bay = b := by
    simp only [List.any_eq_true, Vector.mem_toList_iff, Vector.mem_iff_getElem, beq_iff_eq, engine_testing_eq_some_iff]
    constructor
    · rintro ⟨x, ⟨i, hi, rfl⟩, h⟩
      exact ⟨⟨i, hi⟩, h⟩
    · rintro ⟨e, h⟩
      exact ⟨_, ⟨e.val, e.isLt, rfl⟩, h⟩
  have hmatch : s.testActive b = (s.lamp.queue.any (·.bay == b) || s.lamp.engines.toList.any fun e => e.testing == some b) := by
    unfold State.testActive
    congr 2
    funext e
    cases e <;> simp [Engine.testing]
  rw [hmatch, Bool.or_eq_true, hengines]
  simp

theorem pendingCompletion_of_not_clearing {b : BayNo} {s : State} (h : ∀ d ∈ s.book.records, d.bay = some b → d.state ≠ .clearing) :
    pendingCompletion b s = s := by
  unfold pendingCompletion
  split
  · rfl
  · next d hd =>
    have hbay : d.bay = some b := by simpa using List.find?_some hd
    split
    · rfl
    · rw [if_pos (h d (List.mem_of_find?_eq_some hd) hbay)]

theorem pendingCompletion_of_clearing {b : BayNo} {s : State} {d : Departure} {p : PendingClearance} (hd : s.book.boundTo b = some d)
    (hstate : d.state = .clearing) (hp : s.clearance.find d.ref = some p) : pendingCompletion b s =
      if s.evaluate d p.cold = 0#12 then grant d.ref b s
      else if s.halvesRunning b (s.evaluate d p.cold) then s else refuse d.ref b (s.evaluate d p.cold) s := by
  simp only [pendingCompletion, hd, hp, hstate, ne_eq, not_true_eq_false, if_false]

/-- Settles O34: the request by its reasons, each half asked for in turn; the completion by the reasons that stand at its end. -/
theorem clearanceDecided : Obligations.ClearanceDecided := by
  unfold Obligations.ClearanceDecided
  intro recorded refused granted
  have hgranted : ∀ (d : Departure) (b : BayNo) (s : State), (s.bay b).state = .bound → granted d b s (grant d.ref b s) :=
    fun d b s hbay => grant_grantedFor hbay
  refine ⟨fun ref cold d b s hr hk hd href hstate hb => ?request, fun b s => ⟨pendingCompletion_of_not_clearing,
    fun d p hd hstate hp => ?completion⟩⟩
  case request =>
    intro u rs lamp read pend answers
    obtain ⟨-, hn, -⟩ := hk
    obtain ⟨free, hexec⟩ := exec_requestClearance_of_ready (ref := ref) (cold := cold) hr
    have hfind : u.book.find d.ref = some d := Book.find_eq_some hd hn
    have hrule : ruleRequestClearance ref.toNat cold free u = decideRequest d.ref b cold rs free u := by
      rw [← href]
      simp only [ruleRequestClearance, hfind, hstate, hb]
      rfl
    have hanswers : ∀ st any t, decideRequest d.ref b cold rs free u = (t, (st, any)) → answers st any t := fun st any t h => by
      simp only [answers, hexec]
      rw [show ruleRequestClearance ref.toNat cold free { s with choices := s.choices + 1 } = (t, (st, any)) from hrule.trans h]
    have hpend : createPending d.ref b cold u = pend := rfl
    refine ⟨fun h hbay => ⟨grant d.ref b u, hanswers _ _ _ ?_, hgranted d b u hbay⟩, fun h => hanswers _ _ _ ?_, fun hne hrem => ?_⟩
    · rw [h]
      exact decideRequest_of_none
    · exact decideRequest_of_unremediable h
    · have hdecide := decideRequest_of_remediable (ref := d.ref) (b := b) (cold := cold) (free := free) (s := u) hne hrem
      rw [hpend] at hdecide
      have hbound : pend.boundAt b = true := boundAt_of_bound (bay_bound_of_evaluate hb (ne_notBound_of_remediable hrem)).1
      have hpending : pend.book.find d.ref = some { d with state := .clearing } := find_createPending hd hn
      have hisPending : ∃ x, pend.book.find d.ref = some x ∧ x.state = .clearing := ⟨_, hpending, rfl⟩
      refine ⟨fun hl htest hfull => hanswers _ _ _ ?_, fun hread hplug hidle => ⟨free, hanswers _ _ _ ?_⟩,
        fun hlamp hqueue htest => ⟨free, hanswers _ _ _ ?_⟩, fun hroom => ?_⟩
      · have hrefused : askTest d.ref b rs pend = refuse d.ref b rs u := by
          rw [askTest_of_lamp hl, requestTest_of_full hbound htest hfull, if_pos rfl]
          exact refuse_createPending d.ref b cold rs u
        have hfound : (refuse d.ref b rs u).book.find d.ref = some { d with state := .bound, reasons := some rs } := find_refuse hd hn
        rw [hdecide, hrefused, askRead_of_not (.inr fun ⟨x, hx, hxs⟩ => by
          rw [← Option.some.inj (hfound.symm.trans hx)] at hxs
          simp at hxs), clearanceOutcome_of_find hfound]
        rfl
      · have hnolamp : askTest d.ref b rs pend = pend := askTest_of_not_lamp (by rw [hread]; decide)
        have hsilent : pend.silent b = false := evaluate_silent hb hrem
        have hread' : askRead d.ref b rs pend = (requestFaultReading b pend).1 := askRead_of_read (by rw [hread]; decide) hisPending
        have hstarts := requestFaultReading_of_starts (s := pend) hbound hidle hplug hsilent
        have houtcome : ({ pend with
            reader := { s.reader with reading := s.reader.reading.set b (some ⟨0, none, 0, [], 0⟩) }
            bus := { s.bus with waiting := s.bus.waiting ++ [⟨.faultPage b 0, s.bus.event⟩] } } : State).clearanceOutcome d.ref free
              = (.pending, free) := by
          refine (clearanceOutcome_of_find (x := { d with state := .clearing }) ?_).trans (if_pos rfl)
          exact hpending
        rw [hdecide, hnolamp, hread', hstarts]
        exact congrArg (Prod.mk _) houtcome
      · have htested : requestTest b .urgent pend = (pend, .merged) := by
          have hnot : ⟨b, .routine⟩ ∉ pend.lamp.queue := fun hmem => List.any_eq_false.mp hqueue _ hmem (by simp)
          have hactive : pend.testActive b = true := htest
          simp [requestTest, hbound, hactive, hnot]
        have hmerged : askTest d.ref b rs pend = pend := by
          rw [askTest_of_lamp (by rw [hlamp]; decide), htested, if_neg (show RequestAnswer.merged ≠ .queueFull by decide)]
        have hnoread : askRead d.ref b rs pend = pend := askRead_of_not (.inl (by rw [hlamp]; decide))
        rw [hdecide, hmerged, hnoread, clearanceOutcome_of_find hpending, if_pos rfl]
      · intro asked clearing
        have hasked : askTest d.ref b rs pend = asked := by
          by_cases hl : lamp
          · rw [askTest_of_lamp hl, if_neg (requestTest_ne_full (lv := .urgent) (s := pend) (hroom hl))]
            exact (if_pos hl).symm
          · rw [askTest_of_not_lamp hl]
            exact (if_neg hl).symm
        have hpendBare : pend.book.clearedBare d.ref := fun x hx hxref hxstate => by
          have hxd := List.inj_on_of_nodup_map (f := Departure.ref)
            (by rwa [show pend.book.records.map (·.ref) = s.book.records.map (·.ref) from
              updRecord_refs (f := fun x => { x with state := .clearing }) (fun _ => rfl) u])
            hx (Book.mem_of_find hpending).1 (hxref.trans (Book.mem_of_find hpending).2.symm)
          rw [hxd] at hxstate
          simp at hxstate
        have haskedBare : asked.book.clearedBare d.ref := by
          by_cases hl : lamp
          · rw [show asked = (requestTest b .urgent pend).1 from if_pos hl]
            exact clearedBare_requestTest hpendBare b .urgent
          · rwa [show asked = pend from if_neg hl]
        have htBare : (askRead d.ref b rs asked).book.clearedBare d.ref := by
          unfold askRead
          split
          · exact clearedBare_requestFaultReading haskedBare b
          · exact haskedBare
        obtain ⟨hst, hiff, hreasons⟩ := clearanceOutcome_cases (free := free) htBare
        rw [hasked] at hdecide
        exact ⟨_, _, askRead d.ref b rs asked, hanswers _ _ _ hdecide, askRead_of_read, askRead_of_not, hst, hiff, hreasons⟩
  case completion =>
    intro rs test running
    have hb : d.bay = some b := by simpa using List.find?_some hd
    have hcompletion := pendingCompletion_of_clearing hd hstate hp
    have hrunning : rs &&& ~~~0x060#12 = 0#12 → (s.halvesRunning b rs = true ↔ running) := fun hrem => by
      rw [halvesRunning_iff hrem, testActive_iff]
    refine ⟨fun h => ?_, fun h => ?_, fun hne hrem => ⟨fun hruns => ?_, fun hstops => ?_⟩⟩
    · rw [hcompletion, if_pos h]
      refine hgranted d b s (bay_bound_of_evaluate (cold := p.cold) hb fun h' => ?_).1
      exact absurd (h.symm.trans h') (by decide)
    · have hne : rs ≠ 0#12 := fun h' => h (by rw [h']; decide)
      have hhalves : s.halvesRunning b rs = false := by
        have hrem : rs.remediable = false := by rwa [Bool.eq_false_iff, ne_eq, remediable_iff]
        simp [State.halvesRunning, hrem]
      rw [hcompletion, if_neg hne, if_neg (by rw [hhalves]; simp)]
      rfl
    · rw [hcompletion, if_neg hne, if_pos ((hrunning hrem).mpr hruns)]
    · rw [hcompletion, if_neg hne, if_neg ((hrunning hrem).not.mpr hstops)]
      rfl

theorem exec_withdrawClearance_of_ready {ref : Half} {s : State} (hr : s.ready .dispatch) :
    exec (.withdrawClearance .dispatch ref) s
      = .next (answer .dispatch (ruleWithdrawClearance ref s).2 (ruleWithdrawClearance ref s).1) :=
  event_takeCommand_of_ready _ hr (by decide) (by simp)

theorem reportToClearance_of_not_cleared {b : BayNo} {s : State} (h : ∀ d ∈ s.book.records, d.bay = some b → d.state ≠ .cleared) :
    reportToClearance b s = s := by
  unfold reportToClearance
  split
  · rfl
  · next d hd =>
    have hbay : d.bay = some b := by simpa using List.find?_some hd
    exact if_neg (h d (List.mem_of_find?_eq_some hd) hbay)

theorem reportToClearance_of_cleared {d : Departure} {b : BayNo} {s : State} (hd : s.book.boundTo b = some d) (hstate : d.state = .cleared) :
    reportToClearance b s = revoke d.ref b s := by
  simp only [reportToClearance, hd]
  exact if_pos hstate

/-- R165: the departure is BOUND again, its bay BOUND, the signal RED, or ALERT from LEAVING. -/
def State.revoked (s : State) (ref : Nat) (b : BayNo) : State :=
  notifyBay .clearance b (notifyBay .bay b { s with
    book := { s.book with records := s.book.records.map fun x => if x.ref = ref then { x with state := .bound } else x }
    bays := s.bays.set b { s.bay b with state := .bound }
    clearance := { s.clearance with
      signals := s.clearance.signals.set b (if (s.bay b).state = .leaving then .alert else .red)
      alerts := s.clearance.alerts.set b (if (s.bay b).state = .leaving then some 300000 else none) }
    bus := if s.bus.posts[b].silent then s.bus else s.signalled b (if (s.bay b).state = .leaving then .alert else .red) })

theorem revoke_of_green {ref : Nat} {b : BayNo} {s : State} (hbay : (s.bay b).state ∈ [.cleared, .leaving])
    (hsignal : s.clearance.signals[b] = .green) : revoke ref b s = autoCancel ref (s.revoked ref b) := by
  rw [revoke_eq, returnBay_of_green (s := updRecord ref _ s) hbay hsignal]
  rfl

/-- t with everything of s that a revocation may change. -/
def State.withRevokeOf (t s : State) : State :=
  { t with
    bays := s.bays
    book := s.book
    bus := s.bus
    clearance := s.clearance
    dispatch := { t.dispatch with notices := s.dispatch.notices }
    workshop := { t.workshop with notices := s.workshop.notices } }

theorem withRevokeOf_trans {u t s : State} (h : u.withRevokeOf t = t) (h' : t.withRevokeOf s = s) : u.withRevokeOf s = s :=
  calc u.withRevokeOf s = (u.withRevokeOf t).withRevokeOf s := rfl
    _ = s := by rw [h, h']

theorem revoked_withRevokeOf (s : State) (ref : Nat) (b : BayNo) : (s.revoked ref b).withRevokeOf s = s := rfl

theorem loggedOut_withRevokeOf (s : State) (d : Departure) (o : LogOutcome) : (s.loggedOut d o).withRevokeOf s = s := rfl

theorem bindFirst_withRevokeOf (s : State) (b : BayNo) : (bindFirst b s).withRevokeOf s = s := by
  rcases bindWhere_cases (fun _ => true) b s with h | ⟨x, -, -, -, -, -, -, h⟩ <;> rw [bindFirst, h] <;> rfl

theorem bindFirst_bays_clearance_bus (b : BayNo) (s : State) :
    (bindFirst b s).bays = s.bays ∧ (bindFirst b s).clearance = s.clearance ∧ (bindFirst b s).bus = s.bus := by
  rw [bindFirst, bindWhere_frame]
  exact ⟨rfl, rfl, rfl⟩

/-- R46, R47: a BOUND record that is 240 minutes overdue is removed, and another may take its bay. -/
theorem autoCancel_of_bound {s : State} {d : Departure} {b : BayNo} (hd : s.book.find d.ref = some d) (hstate : d.state = .bound)
    (hb : d.bay = some b) (h : ∃ o, d.overdue = some o ∧ 240 ≤ o.minutes) :
    autoCancel d.ref s = bindFirst b (s.loggedOut d .autoCancelled) := by
  obtain ⟨o, ho, hlong⟩ := h
  have hgoes : d.goes = true := by simp [Departure.goes, hstate, ho, hlong]
  rw [autoCancel_of_goes hd hgoes, cancelRecord, hstate, hb, removeAndNotify_eq_loggedOut]

/-- Settles O36: what a revocation sets at the bay and in the record, and the two ways to it. -/
theorem revocationTaken : Obligations.RevocationTaken := by
  unfold Obligations.RevocationTaken
  refine ⟨fun b s => reportToClearance_of_not_cleared, fun d b s hk hd hstate hbay hsignal => ?revokes, fun ref s hr hk => ?withdraws⟩
  case revokes =>
    intro t alert
    obtain ⟨-, hn, -⟩ := hk
    have hmem : d ∈ s.book.records := List.mem_of_find?_eq_some hd
    have hb : d.bay = some b := by simpa using List.find?_some hd
    have ht : t = autoCancel d.ref (s.revoked d.ref b) := (reportToClearance_of_cleared hd hstate).trans (revoke_of_green hbay hsignal)
    have hfind : (s.revoked d.ref b).book.find d.ref = some { d with state := .bound } :=
      find_updRecord (f := fun x => { x with state := .bound }) hmem hn fun _ => rfl
    by_cases hlong : ∃ o, d.overdue = some o ∧ 240 ≤ o.minutes
    · have hcancel : t = bindFirst b ((s.revoked d.ref b).loggedOut { d with state := .bound } .autoCancelled) :=
        ht.trans (autoCancel_of_bound (d := { d with state := .bound }) hfind rfl hb hlong)
      obtain ⟨-, hlog, hrefs⟩ := bindFirst_keeps b ((s.revoked d.ref b).loggedOut { d with state := .bound } .autoCancelled)
      have hrefsBack : (s.revoked d.ref b).book.records.map (·.ref) = s.book.records.map (·.ref) :=
        updRecord_refs (f := fun x => { x with state := .bound }) (fun _ => rfl) s
      obtain ⟨hbays, hclearance, hbus⟩ :=
        bindFirst_bays_clearance_bus b ((s.revoked d.ref b).loggedOut { d with state := .bound } .autoCancelled)
      have hframe := withRevokeOf_trans (bindFirst_withRevokeOf _ b)
        (withRevokeOf_trans (loggedOut_withRevokeOf (s.revoked d.ref b) { d with state := .bound } .autoCancelled)
          (revoked_withRevokeOf s d.ref b))
      rw [hcancel]
      refine ⟨hbays, hclearance, fun hshort => ?_, fun _ => ⟨?_, ?_⟩, hbus, hframe⟩
      · obtain ⟨o, ho, hlong⟩ := hlong
        exact absurd (hshort o ho) (not_lt.mpr hlong)
      · rw [hrefs, ← hrefsBack, List.filter_map]
        rfl
      · have hlast := congrArg (Option.map fun e : Nat × LogOutcome × Option BayNo × Nat => (e.1, e.2.1, e.2.2.1))
          (loggedOut_log_getLast? { d with state := .bound } .autoCancelled (s.revoked d.ref b))
        rw [Option.map_map] at hlast
        rw [hlog]
        exact hlast.trans (by rw [← hb]; rfl)
    · have hstays : t = s.revoked d.ref b := ht.trans (autoCancel_of_not_goes fun x hx => by
        obtain rfl := Option.some.inj (hfind.symm.trans hx)
        exact goes_eq_false_of (.inr fun o ho => not_le.mp fun h => hlong ⟨o, ho, h⟩))
      rw [hstays]
      exact ⟨rfl, rfl, fun _ => ⟨rfl, fun l => by cases l <;> rfl⟩, fun h => absurd h hlong, rfl, rfl⟩
  case withdraws =>
    intro answers
    obtain ⟨-, hn, -⟩ := hk
    have hanswers : ∀ st t, ruleWithdrawClearance ref s = (t, ⟨st, .empty⟩) → answers st t := fun st t h => by
      simp only [answers, exec_withdrawClearance_of_ready hr, h]
    refine ⟨fun h => hanswers _ _ (by simp [ruleWithdrawClearance, (Book.find_eq_none_iff _ _).mpr h, refusal]), fun d hd href => ?_⟩
    have hfind : s.book.find ref.toNat = some d := href ▸ Book.find_eq_some hd hn
    refine ⟨fun hstate => hanswers _ _ ?_, fun b hb => ⟨fun hstate => hanswers _ _ ?_, fun hstate hbound => hanswers _ _ ?_⟩⟩
    · rcases List.mem_pair.mp hstate with hs | hs <;> simp [ruleWithdrawClearance, hfind, hs, refusal]
    · simp only [ruleWithdrawClearance, hfind, hstate, hb]
      rw [refuse_eq, href]
      rfl
    · simp only [ruleWithdrawClearance, hfind, hstate, hb]
      rw [reportToClearance_of_cleared hbound hstate, href]

end Sys2Proof.Machine

/-! PROOF. The fault reader: REQUEST FAULT READ, the scan countdown, the pages taken and the ends of a read. -/

namespace Sys2Proof.Machine

/-! ## Ends of a read -/

/-- R129, step 2: the reader with a read on the bay ended; flag for a read that merged. -/
def FaultReader.ended (x : FaultReader) (b : BayNo) (l : LastRead) (flag : Bool) : FaultReader :=
  { x with
    last := x.last.set b (some l)
    reading := x.reading.set b none
    readSince := if flag then x.readSince.set b true else x.readSince
    scan := x.scan.set b (some (x.period * 60000)) }

theorem endRead_of_merges {o : ReadOutcome} (h : o.merges = true) (b : BayNo) (r : Reading) (s : State) : endRead b r o s =
    let merged := mergeInto b (fun st => st.mergeFaults b (o = .complete) (r.gathered.map fun g => (g, s.reader.actionOf g))) s
    let t : State := { merged with reader := s.reader.ended b ⟨o, r.pageZero, r.transactions, 0⟩ true }
    pendingCompletion b (if o ≠ .complete ∨ s.reader.readSince[b] = false then notifyBay .defect b t else t) := by
  have hreader : (mergeInto b (fun st => st.mergeFaults b (o = .complete) (r.gathered.map fun g => (g, s.reader.actionOf g))) s).reader
      = s.reader := (mergeInto_reported ..).keeps.2.1
  unfold endRead
  simp only [h, if_true]
  generalize mergeInto b _ s = u at hreader ⊢
  rw [← hreader]
  rfl

theorem endRead_of_not_merges {o : ReadOutcome} (h : o.merges = false) (b : BayNo) (r : Reading) (s : State) : endRead b r o s =
    pendingCompletion b (notifyBay .defect b { s with reader := s.reader.ended b ⟨o, r.pageZero, r.transactions, 0⟩ false }) := by
  have hne : o ≠ .complete := by rintro rfl; exact absurd h (by decide)
  unfold endRead
  simp only [h, hne, ne_eq, not_false_eq_true, true_or, if_true, Bool.false_eq_true, if_false]
  rfl

/-! ## Starting a read -/

theorem startRead_of_readable {b : BayNo} {s : State} (hplug : (s.bay b).plug = true) (hsilent : s.bus.posts[b].silent = false) :
    startRead b s = placeJob (.faultPage b 0)
      { s with reader := { s.reader with reading := s.reader.reading.set b (some ⟨0, none, 0, [], 0⟩) } } := by
  have hpost : s.silent b = false := hsilent
  have hreadable : s.unreadable b = none := by simp [State.unreadable, hplug, hpost]
  have hpost : (setReading b (some Reading.start) s).silent b = false := hpost
  simp only [startRead, hreadable, requestPage, hpost, Bool.false_eq_true, if_false]
  rfl

theorem startRead_of_unreadable {b : BayNo} {s : State} {reason : ReadReason} (h : s.unreadable b = some reason) :
    startRead b s = pendingCompletion b (notifyBay .defect b { s with reader := s.reader.ended b ⟨.failed reason, none, 0, 0⟩ false }) := by
  simp only [startRead, h]
  exact endRead_of_not_merges rfl b Reading.start s

theorem isReading_iff (s : State) (b : BayNo) : s.isReading b = true ↔ s.reader.reading[b] ≠ none := Option.isSome_iff_ne_none

theorem requestFaultReading_of_not_bound {b : BayNo} {s : State} (h : (s.bay b).state ∈ [.closed, .empty, .arrived]) :
    requestFaultReading b s = (s, .wrongState) := by
  have hbound : s.boundAt b = false := (isBound_eq_false_iff _).mpr h
  simp [requestFaultReading, hbound]

theorem requestFaultReading_of_reading {b : BayNo} {s : State} (h : (s.bay b).state ∈ [.bound, .cleared, .leaving])
    (hread : s.reader.reading[b] ≠ none) : requestFaultReading b s = (s, .merged) := by
  have hbound : s.boundAt b = true := (isBound_eq_true_iff _).mpr h
  simp [requestFaultReading, hbound, (isReading_iff s b).mpr hread]

theorem requestFaultReading_of_idle {b : BayNo} {s : State} (h : (s.bay b).state ∈ [.bound, .cleared, .leaving])
    (hidle : s.reader.reading[b] = none) : requestFaultReading b s = (startRead b s, .ok) := by
  have hbound : s.boundAt b = true := (isBound_eq_true_iff _).mpr h
  have hread : s.isReading b = false := by rw [State.isReading, hidle]; rfl
  simp [requestFaultReading, hbound, hread]

theorem exec_requestFaultRead_of_ready {l : Link} {bay : Byte} {s : State} (hr : s.ready l) (hb : s.fits bay) :
    exec (.requestFaultRead l bay) s
      = .next (answer l (ruleRequestFaultRead (bayOf bay) s).2 (ruleRequestFaultRead (bayOf bay) s).1) :=
  event_takeCommand_of_ready _ hr (by cases l <;> decide) (by simpa using hb)

theorem exec_scanCountdownExpiry {b : BayNo} {s : State} (h : s.resetHeld = false) :
    exec (.scanCountdownExpiry b) s = .next (scanExpiry b s) := event_of_not_held h

/-- Settles O40: the three answers of a read request, the same request at an expiry, and the start of a read. -/
theorem faultReadAsked : Obligations.FaultReadAsked := by
  unfold Obligations.FaultReadAsked
  refine ⟨fun l bay s hr hfits => ?asked, fun b s hheld => ?scanned, fun b s => ?started⟩
  case asked =>
    intro b answers
    have hanswers : ∀ st t, ruleRequestFaultRead b s = (t, ⟨st, .empty⟩) → answers st t := fun st t h => by
      simp only [answers, exec_requestFaultRead_of_ready hr hfits]
      rw [show ruleRequestFaultRead (bayOf bay) s = (t, ⟨st, .empty⟩) from h]
    refine ⟨fun h => hanswers _ _ ?_, fun h hread => hanswers _ _ ?_, fun h hidle => hanswers _ _ ?_⟩
    · simp [ruleRequestFaultRead, requestFaultReading_of_not_bound h, ReadAnswer.status]
    · simp [ruleRequestFaultRead, requestFaultReading_of_reading h hread, ReadAnswer.status]
    · simp [ruleRequestFaultRead, requestFaultReading_of_idle h hidle, ReadAnswer.status]
  case scanned =>
    intro reloaded
    have hfires : s.reader.scan[b] ≠ none → exec (.scanCountdownExpiry b) s = .next (arbitrate (requestFaultReading b reloaded).1) := by
      intro h
      obtain ⟨k, hk⟩ := Option.ne_none_iff_exists'.mp h
      rw [exec_scanCountdownExpiry hheld]
      simp only [scanExpiry, hk]
      rfl
    refine ⟨fun h => ?_, fun h => ⟨fun hstays => ?_, fun hidle hbound => ?_⟩⟩
    · rw [exec_scanCountdownExpiry hheld]
      simp only [scanExpiry, h]
    · have hsame : (requestFaultReading b reloaded).1 = reloaded := by
        cases hb : (s.bay b).state.isBound with
        | false => rw [requestFaultReading_of_not_bound (s := reloaded) ((isBound_eq_false_iff (s.bay b).state).mp hb)]
        | true =>
          have hbound : (s.bay b).state ∈ [.bound, .cleared, .leaving] := (isBound_eq_true_iff _).mp hb
          have hread : s.reader.reading[b] ≠ none := hstays.resolve_right fun hempty => by
            rw [(isBound_eq_false_iff _).mpr hempty] at hb
            exact absurd hb (by decide)
          rw [requestFaultReading_of_reading (s := reloaded) hbound hread]
      rw [hfires h, hsame]
    · rw [hfires h, requestFaultReading_of_idle (s := reloaded) hbound hidle]
  case started =>
    intro failed
    refine ⟨startRead_of_readable, fun hplug => startRead_of_unreadable ?_, fun hplug hsilent => startRead_of_unreadable ?_⟩
    · simp [State.unreadable, hplug]
    · have hpost : s.silent b = true := hsilent
      simp [State.unreadable, hplug, hpost]

/-! ## Responses on the post bus -/

theorem exec_postResponse {a : PostReply} {order : FailureOrder} {s : State} (h : s.resetHeld = false) :
    exec (.postResponse a order) s = .next (takeResponse a order s) := event_of_not_held h

/-- R172: a good response to a transaction whose result is wanted. -/
theorem exec_postResponse_of_answersTo {a : PostReply} {order : FailureOrder} {s : State} {j : Job} {b : BayNo} {retry : Bool}
    {timer : Option Nat} {st : PostStatus} {p : PostPayload} (h : s.resetHeld = false) (hwire : s.bus.wire = .busy ⟨j, retry, timer, false⟩)
    (hbay : j.bay = some b) (ha : answersTo a j st p) :
    exec (.postResponse a order) s = .next (arbitrate (handSuccess j st p (clearFailures b (freeWire s)))) := by
  obtain ⟨hgood, rfl⟩ := ha
  rw [exec_postResponse h]
  simp only [takeResponse, hwire, hbay, hgood]
  rfl

theorem silent_clearFailures {b : BayNo} {s : State} (h : s.bus.posts[b].silent = false) :
    (clearFailures b (freeWire s)).silent b = false := by
  have hset : ((clearFailures b (freeWire s)).bus.posts[b]).silent
      = (if s.bus.posts[b].silent then s.bus.posts[b] else { s.bus.posts[b] with failures := 0 }).silent :=
    congrArg Post.silent (Vector.getElem_set_self b.isLt)
  rw [State.silent, hset, h]
  exact h

/-! ## Pages -/

theorem versionAgrees_iff (r : Reading) (version : Nat) :
    r.versionAgrees version = true ↔ r.page = 0 ∨ ∃ n, r.pageZero = some (version, n) := by
  obtain ⟨page, pageZero, _, _, _⟩ := r
  cases page with
  | zero => simp [Reading.versionAgrees]
  | succ k =>
    cases pageZero with
    | none => simp [Reading.versionAgrees]
    | some z =>
      obtain ⟨v, n⟩ := z
      simp [Reading.versionAgrees]

theorem takePage_of_agrees {b : BayNo} {version : Byte} {records : List FaultRecord} {more : Bool} {s : State} {r : Reading}
    (hr : s.reader.reading[b] = some r) (h : r.page = 0 ∨ ∃ n, r.pageZero = some (version.toNat, n)) : takePage b version records more s =
      gatherPage b { r with transactions := r.transactions + 1 } version.toNat (records.filterMap takeRecord) more s := by
  simp only [takePage, hr]
  exact if_pos ((versionAgrees_iff { r with transactions := r.transactions + 1 } _).mpr h)

theorem takePage_of_differs {b : BayNo} {version : Byte} {records : List FaultRecord} {more : Bool} {s : State} {r : Reading}
    (hr : s.reader.reading[b] = some r) (h : ¬ (r.page = 0 ∨ ∃ n, r.pageZero = some (version.toNat, n))) :
    takePage b version records more s = restartRead b { r with transactions := r.transactions + 1 } s := by
  simp only [takePage, hr]
  exact if_neg (mt (versionAgrees_iff { r with transactions := r.transactions + 1 } _).mp h)

theorem requestPage_of_responding {b : BayNo} {p : Nat} {s : State} (h : s.silent b = false) :
    requestPage b p s = placeJob (.faultPage b p) s := by simp [requestPage, h]

theorem refusePage_of_reading {b : BayNo} {reason : ReadReason} {s : State} {r : Reading} (hr : s.reader.reading[b] = some r) :
    refusePage b reason s = pendingCompletion b (notifyBay .defect b { s with
      bus := s.withdrawn (Job.isPageFor b)
      reader := s.reader.ended b ⟨.failed reason, r.pageZero, r.transactions + 1, 0⟩ false }) := by
  have hset : (setReading b (some { r with transactions := r.transactions + 1 }) s).reader.reading[b]
      = some { r with transactions := r.transactions + 1 } := Vector.getElem_set_self b.isLt
  simp only [refusePage, hr, failRead, hset]
  rw [endRead_of_not_merges rfl, withdraw_withdrawn]
  have hreader : (setReading b (some { r with transactions := r.transactions + 1 }) s).reader.ended b
      ⟨.failed reason, r.pageZero, r.transactions + 1, 0⟩ false = s.reader.ended b ⟨.failed reason, r.pageZero, r.transactions + 1, 0⟩ false := by
    simp [FaultReader.ended, setReading, State.updReader]
  exact congrArg (fun x => pendingCompletion b (notifyBay .defect b { s with bus := s.withdrawn (Job.isPageFor b), reader := x })) hreader

theorem takePageResponse_of_idle {b : BayNo} {st : PostStatus} {p : PostPayload} {s : State} (h : s.reader.reading[b] = none) :
    takePageResponse b st p s = s := by
  unfold takePageResponse
  split <;> simp [takePage, refusePage, h]

/-! ## Records -/

theorem takeRecord_of_dropped {x : FaultRecord} (h : x.code = 0#16 ∨ x.code = 0xFFFF#16) : takeRecord x = none := if_pos h

theorem takeRecord_of_taken {x : FaultRecord} (h0 : x.code ≠ 0#16) (h1 : x.code ≠ 0xFFFF#16) :
    takeRecord x = some ⟨x.code.toNat, min 3 x.severity.toNat, x.count.toNat⟩ := if_neg (not_or.mpr ⟨h0, h1⟩)

theorem gather_eq_of_mem {gs : List Gathered} {x : Gathered} (h : ∃ g ∈ gs, g.code = x.code) :
    gather gs x = gs.map fun g => if g.code = x.code then x else g := if_pos (by simpa using h)

theorem gather_eq_of_not_mem {gs : List Gathered} {x : Gathered} (h : ¬ ∃ g ∈ gs, g.code = x.code) :
    gather gs x = gs ++ [x] := if_neg (by simpa using h)

theorem mem_gather_iff (gs : List Gathered) (x g : Gathered) : g ∈ gather gs x ↔ g = x ∨ (g ∈ gs ∧ g.code ≠ x.code) := by
  by_cases h : ∃ g ∈ gs, g.code = x.code
  · obtain ⟨y, hy, hyx⟩ := h
    rw [gather_eq_of_mem ⟨y, hy, hyx⟩, List.mem_map]
    constructor
    · rintro ⟨z, hz, rfl⟩
      by_cases hzx : z.code = x.code
      · exact .inl (if_pos hzx)
      · rw [if_neg hzx]
        exact .inr ⟨hz, hzx⟩
    · rintro (rfl | ⟨hg, hne⟩)
      · exact ⟨y, hy, if_pos hyx⟩
      · exact ⟨g, hg, if_neg hne⟩
  · rw [gather_eq_of_not_mem h, List.mem_append, List.mem_singleton]
    constructor
    · rintro (hg | rfl)
      · exact .inr ⟨hg, fun hgx => h ⟨g, hg, hgx⟩⟩
      · exact .inl rfl
    · rintro (rfl | ⟨hg, -⟩)
      · exact .inr rfl
      · exact .inl hg

theorem gather_codes_nodup {gs : List Gathered} (x : Gathered) (hn : (gs.map (·.code)).Nodup) : ((gather gs x).map (·.code)).Nodup := by
  by_cases h : ∃ g ∈ gs, g.code = x.code
  · have hcodes : (gather gs x).map (·.code) = gs.map (·.code) := by
      rw [gather_eq_of_mem h, List.map_map]
      refine List.map_congr_left fun g _ => ?_
      dsimp only [Function.comp_apply]
      split_ifs with hgx
      · exact hgx.symm
      · rfl
    rwa [hcodes]
  · rw [gather_eq_of_not_mem h, List.map_append, List.nodup_append]
    refine ⟨hn, by simp, fun a ha c hc => ?_⟩
    obtain ⟨g, hg, rfl⟩ := List.mem_map.mp ha
    simp only [List.map_cons, List.map_nil, List.mem_singleton] at hc
    exact fun hgx => h ⟨g, hg, hgx.trans hc⟩

/-! ## The rule table -/

theorem rule_covers_iff (r : Rule) (code : Nat) : r.covers code = true ↔ r.low ≤ code ∧ code ≤ r.high := by simp [Rule.covers]

theorem rules_find_eq_some {u : FaultReader} {g : Gathered} {i : Fin 32} {r : Rule} (hr : u.rules[i] = some r)
    (hcovers : r.covers g.code = true) (hfirst : ∀ j : Fin 32, j < i → ∀ q, u.rules[j] = some q → q.covers g.code = false) :
    (u.rules.toList.filterMap id).find? (·.covers g.code) = some r := by
  have hfind : (u.rules.toList.find? fun q => q.any (·.covers g.code)) = some (some r) := by
    rw [List.find?_eq_some_iff_getElem]
    refine ⟨hcovers, i.val, by simp, by simpa using hr, fun j hj => ?_⟩
    have hjlt : j < 32 := hj.trans i.isLt
    have hentry : (u.rules[(⟨j, hjlt⟩ : Fin 32)]).any (·.covers g.code) = false := by
      cases hq : u.rules[(⟨j, hjlt⟩ : Fin 32)] with
      | none => rfl
      | some q => exact hfirst ⟨j, hjlt⟩ hj q hq
    simpa using hentry
  rw [List.find?_filterMap]
  exact congrArg (Option.bind · id) hfind

theorem rules_find_eq_none {u : FaultReader} {g : Gathered} (h : ∀ (i : Fin 32) (r : Rule), u.rules[i] = some r → r.covers g.code = false) :
    (u.rules.toList.filterMap id).find? (·.covers g.code) = none := by
  rw [List.find?_eq_none]
  intro r hr
  obtain ⟨q, hq, rfl⟩ := List.mem_filterMap.mp hr
  obtain ⟨i, hi, hget⟩ := Vector.mem_iff_getElem.mp (Vector.mem_toList_iff.mp hq)
  rw [h ⟨i, hi⟩ r hget]
  exact Bool.false_ne_true

theorem covers_eq_false_iff (r : Rule) (code : Nat) : r.covers code = false ↔ ¬ (r.low ≤ code ∧ code ≤ r.high) := by
  rw [← rule_covers_iff, Bool.eq_false_iff]

/-! ## The responses to a page -/

/-- Settles O41: each page by the version check, the more flag and the page number; the responses that end a read FAILED; the records, their
gathering and the actions of the rule table. -/
theorem pagesTaken : Obligations.PagesTaken := by
  unfold Obligations.PagesTaken
  refine ⟨fun b p r version records more order s hheld hsilent hr hlen hwire => ?pages,
    fun b p st reason a order s hheld hwire => ?refused, fun x => ⟨takeRecord_of_dropped, takeRecord_of_taken⟩,
    fun gs x g hn => ⟨mem_gather_iff gs x g, gather_codes_nodup x hn⟩, fun u g => ⟨fun i r hr hlow hhigh hfirst => ?first, fun h => ?none⟩⟩
  case pages =>
    intro takes freed goesOn taken gathered zero agrees merged ends
    obtain ⟨retry, timer, hwire⟩ := hwire
    have hfreed : freed.silent b = false := silent_clearFailures hsilent
    have htakes : ∀ t, takePage b version records more freed = t → takes t := fun t ht a ha => by
      rw [exec_postResponse_of_answersTo hheld hwire rfl ha, ← ht]
      rfl
    have hgoes : ∀ page x, requestPage b page (setReading b (some x) freed) = placeJob (.faultPage b page)
        { freed with reader := { s.reader with reading := s.reader.reading.set b (some x) } } := fun page x =>
      requestPage_of_responding hfreed
    refine ⟨fun hver hfew => htakes _ ?_, fun hver hmany => htakes _ ?_, fun hver hmore => htakes _ ?_, fun hver hmore hlast => htakes _ ?_,
      fun hver hmore hnext => htakes _ ?_⟩
    · rw [takePage_of_differs (s := freed) hr hver, restartRead, if_pos hfew]
      exact hgoes 0 _
    · rw [takePage_of_differs (s := freed) hr hver, restartRead, if_neg (not_lt.mpr hmany)]
      exact endRead_of_not_merges rfl b _ freed
    · rw [takePage_of_agrees (s := freed) hr hver, gatherPage, hmore]
      exact endRead_of_merges rfl b _ freed
    · rw [takePage_of_agrees (s := freed) hr hver, gatherPage, hmore]
      exact (if_pos hlast).trans (endRead_of_merges rfl b _ freed)
    · rw [takePage_of_agrees (s := freed) hr hver, gatherPage, hmore]
      exact (if_neg (not_le.mpr hnext)).trans (hgoes _ _)
  case refused =>
    intro freed goes
    obtain ⟨retry, timer, hwire⟩ := hwire
    have hgoes : ∀ payload t, answersTo a (.faultPage b p) st payload → takePageResponse b st payload freed = t → goes t :=
      fun payload t ha ht => by
        simp only [goes]
        rw [exec_postResponse_of_answersTo hheld hwire rfl ha, ← ht]
        rfl
    refine ⟨fun hst ha r hr => hgoes .empty _ ha ?_, fun payload ha hidle => hgoes payload _ ha (takePageResponse_of_idle (s := freed) hidle)⟩
    rcases List.mem_pair.mp hst with h | h
    all_goals
      obtain ⟨rfl, rfl⟩ := Prod.mk.inj h
      exact refusePage_of_reading (s := freed) hr
  case first =>
    have hfind := rules_find_eq_some hr ((rule_covers_iff r g.code).mpr ⟨hlow, hhigh⟩) fun j hj q hq =>
      (covers_eq_false_iff q g.code).mpr (hfirst j hj q hq)
    simp only [FaultReader.actionOf, hfind]
  case none =>
    have hfind := rules_find_eq_none (u := u) (g := g) fun i r hr => (covers_eq_false_iff r g.code).mpr (h i r hr)
    simp only [FaultReader.actionOf, hfind]

end Sys2Proof.Machine

/-! PROOF. The arbiter: the choice among the waiting requests, and what a grant records. -/

namespace Sys2Proof.Machine

/-! ## The classes -/

theorem cls_of_bay_none {j : Job} (h : j.bay = none) : j = .allOff := by
  cases j <;> first | rfl | exact absurd h (by simp [Job.bay])

theorem cls_eq_two_iff (j : Job) : j.cls = 2 ↔ j.engine ≠ none := by cases j <;> simp [Job.cls, Job.engine]

theorem cls_mem (j : Job) : j.cls ∈ [1, 2, 3, 4, 5] := by cases j <;> simp [Job.cls]

/-- A class 1 request for a bay is a HEAT or a SIGNAL request. -/
theorem heat_or_signal_of_cls {j : Job} {b : BayNo} (hc : j.cls = 1) (hb : j.bay = some b) : (∃ on, j = .heat b on) ∨ ∃ a, j = .signal b a := by
  cases j <;> simp_all [Job.cls, Job.bay]

/-! ## Round-robin by bay -/

/-- How many bays come before b in a round that starts after the last served. -/
def turn (last : Option BayNo) (b : BayNo) : Nat := last.elim b.val fun x => (b.val + 23 - x.val) % 24

theorem roundRobin_none_pairwise : (roundRobin none).Pairwise fun a b => turn none a < turn none b := by decide

theorem roundRobin_some_pairwise : ∀ l : BayNo, (roundRobin (some l)).Pairwise fun a b => turn (some l) a < turn (some l) b := by decide

theorem roundRobin_pairwise (last : Option BayNo) : (roundRobin last).Pairwise fun a b => turn last a < turn last b := by
  cases last with
  | none => exact roundRobin_none_pairwise
  | some l => exact roundRobin_some_pairwise l

theorem mem_roundRobin (last : Option BayNo) (b : BayNo) : b ∈ roundRobin last := by
  have hall : b ∈ allBays := List.mem_finRange b
  cases last with
  | none => exact hall
  | some l =>
    rw [← List.take_append_drop (l.val + 1) allBays, List.mem_append] at hall
    exact List.mem_append.mpr hall.symm

/-! ## The first of a bay's requests -/

theorem firstOf_eq_none_iff (l : List Request) : firstOf l = none ↔ l = [] := by
  cases l with
  | nil => simp [firstOf]
  | cons x xs =>
    simp only [firstOf, reduceCtorEq, iff_false]
    cases firstOf xs with
    | none => simp
    | some q =>
      dsimp only
      split <;> simp

theorem goesBefore_iff (a b : Request) : a.goesBefore b = true ↔
    a.placed < b.placed ∨ a.placed = b.placed ∧ (∃ c on, a.job = .heat c on) ∧ ∃ c x, b.job = .signal c x := by
  unfold Request.goesBefore
  rcases a with ⟨a, p⟩
  rcases b with ⟨b, q⟩
  cases a <;> cases b <;> simp

/-- The request granted is the one placed first; of a HEAT and a SIGNAL placed at one event it is the HEAT. -/
theorem firstOf_spec {l : List Request} {r : Request} (h : firstOf l = some r) : r ∈ l ∧ (∀ q ∈ l, r.placed ≤ q.placed)
    ∧ ((∀ q ∈ l, (∃ c on, q.job = .heat c on) ∨ ∃ c x, q.job = .signal c x) →
      ∀ q ∈ l, r.placed = q.placed → (∃ c on, q.job = .heat c on) → ∃ c on, r.job = .heat c on) := by
  induction l generalizing r with
  | nil => simp [firstOf] at h
  | cons x xs ih =>
    cases hxs : firstOf xs with
    | none =>
      obtain rfl : x = r := by simpa [firstOf, hxs] using h
      rw [(firstOf_eq_none_iff xs).mp hxs]
      refine ⟨List.mem_singleton_self x, fun q hq => ?_, fun _ q hq _ hheat => ?_⟩
      · rw [List.mem_singleton.mp hq]
      · rwa [List.mem_singleton.mp hq] at hheat
    | some y =>
      obtain ⟨hmem, hplaced, hheat⟩ := ih hxs
      simp only [firstOf, hxs] at h
      by_cases hgoes : y.goesBefore x = true
      · rw [if_pos hgoes] at h
        obtain rfl := Option.some.inj h
        rw [goesBefore_iff] at hgoes
        refine ⟨List.mem_cons_of_mem _ hmem, fun q hq => ?_, fun hkinds q hq heq hqheat => ?_⟩
        · rcases List.mem_cons.mp hq with rfl | hq
          · rcases hgoes with h | ⟨h, -⟩ <;> omega
          · exact hplaced q hq
        · rcases List.mem_cons.mp hq with rfl | hq
          · rcases hgoes with h | ⟨-, h, -⟩
            · omega
            · exact h
          · exact hheat (fun q hq => hkinds q (List.mem_cons_of_mem _ hq)) q hq heq hqheat
      · rw [if_neg hgoes] at h
        obtain rfl := Option.some.inj h
        rw [goesBefore_iff, not_or, not_lt] at hgoes
        obtain ⟨hle, htie⟩ := hgoes
        refine ⟨List.mem_cons_self, fun q hq => ?_, fun hkinds q hq heq hqheat => ?_⟩
        · rcases List.mem_cons.mp hq with rfl | hq
          · exact le_rfl
          · exact hle.trans (hplaced q hq)
        · rcases List.mem_cons.mp hq with rfl | hq
          · exact hqheat
          · have hy := hplaced q hq
            have hyheat := hheat (fun q hq => hkinds q (List.mem_cons_of_mem _ hq)) q hq (by omega) hqheat
            rcases hkinds x List.mem_cons_self with hx | hx
            · exact hx
            · exact absurd ⟨by omega, hyheat, hx⟩ htie

/-! ## The choice within a class -/

theorem chooseByBay_eq_none {w : List Request} {k : Nat} {last : Option BayNo} (h : chooseByBay w k last = none) :
    ∀ q ∈ w, q.job.cls = k → q.job.bay = none := by
  intro q hq hk
  by_contra hne
  obtain ⟨b, hb⟩ := Option.ne_none_iff_exists'.mp hne
  have hempty := (firstOf_eq_none_iff _).mp (List.findSome?_eq_none_iff.mp h b (mem_roundRobin last b))
  rw [List.filter_eq_nil_iff] at hempty
  exact hempty q hq (by simp [hk, hb])

theorem chooseByBay_eq_some {w : List Request} {k : Nat} {last : Option BayNo} {r : Request} (h : chooseByBay w k last = some r) :
    r ∈ w ∧ r.job.cls = k ∧ ∃ b : BayNo, r.job.bay = some b
      ∧ (∀ q ∈ w, ∀ x : BayNo, q.job.cls = k → q.job.bay = some x → turn last b ≤ turn last x)
      ∧ ∀ q ∈ w, q.job.cls = k → q.job.bay = some b →
          r.placed ≤ q.placed ∧ (r.placed = q.placed → (∃ on, q.job = .heat b on) → ∃ on, r.job = .heat b on) := by
  obtain ⟨before, b, after, hsplit, hfirst, hbefore⟩ := List.findSome?_eq_some_iff.mp h
  obtain ⟨hmem, hplaced, hheat⟩ := firstOf_spec hfirst
  simp only [List.mem_filter, Bool.and_eq_true, beq_iff_eq] at hmem hplaced hheat
  obtain ⟨hw, hk, hb⟩ := hmem
  refine ⟨hw, hk, b, hb, fun q hq x hqk hqx => ?_, fun q hq hqk hqb => ⟨hplaced q ⟨hq, hqk, hqb⟩, fun heq ⟨on, hqon⟩ => ?_⟩⟩
  · have hx : x ∈ before ++ b :: after := hsplit ▸ mem_roundRobin last x
    have hpairs := roundRobin_pairwise last
    rw [hsplit] at hpairs
    rcases List.mem_append.mp hx with hx | hx
    · have hempty := (firstOf_eq_none_iff _).mp (hbefore x hx)
      rw [List.filter_eq_nil_iff] at hempty
      exact absurd (by simp [hqk, hqx]) (hempty q hq)
    · rcases List.mem_cons.mp hx with rfl | hx
      · exact le_rfl
      · exact ((List.pairwise_cons.mp (List.pairwise_append.mp hpairs).2.1).1 x hx).le
  · have hone : k = 1 := by rw [← hqk, hqon]; rfl
    have hkinds : ∀ q, q ∈ w ∧ q.job.cls = k ∧ q.job.bay = some b →
        (∃ c on, q.job = .heat c on) ∨ ∃ c x, q.job = .signal c x := fun q ⟨_, hqk, hqb⟩ =>
      (heat_or_signal_of_cls (hqk.trans hone) hqb).imp (fun h => ⟨b, h⟩) fun h => ⟨b, h⟩
    obtain ⟨c, on', hr⟩ := hheat hkinds q ⟨hq, hqk, hqb⟩ heq ⟨b, on, hqon⟩
    rw [hr] at hb
    obtain rfl : c = b := Option.some.inj hb
    exact ⟨on', hr⟩

theorem engine_eq_last_or_other : ∀ last e : EngineNo, e = 1 - last ∨ e = last := by decide

theorem other_ne_last : ∀ last : EngineNo, (1 - last : EngineNo) ≠ last := by decide

theorem chooseEngine_eq_none {w : List Request} {last : EngineNo} (h : chooseEngine w last = none) : ∀ q ∈ w, q.job.engine = none := by
  intro q hq
  by_contra hne
  obtain ⟨e, he⟩ := Option.ne_none_iff_exists'.mp hne
  obtain ⟨hother, hlast⟩ := Option.or_eq_none_iff.mp h
  rcases engine_eq_last_or_other last e with rfl | rfl
  · exact List.find?_eq_none.mp hother q hq (by simp [he])
  · exact List.find?_eq_none.mp hlast q hq (by simp [he])

theorem chooseEngine_eq_some {w : List Request} {last : EngineNo} {r : Request} (h : chooseEngine w last = some r) :
    r ∈ w ∧ r.job.cls = 2 ∧ ((∀ e : EngineNo, ∃ q ∈ w, q.job.engine = some e) → r.job.engine ≠ some last) := by
  have hclass : ∀ e : EngineNo, r.job.engine = some e → r.job.cls = 2 := fun e he => by simp [cls_eq_two_iff, he]
  rcases Option.or_eq_some_iff.mp h with hother | ⟨hnone, hlast⟩
  · have he : r.job.engine = some (1 - last) := by simpa using List.find?_some hother
    refine ⟨List.mem_of_find?_eq_some hother, hclass _ he, fun _ hr => ?_⟩
    exact other_ne_last last (Option.some.inj (he.symm.trans hr))
  · have he : r.job.engine = some last := by simpa using List.find?_some hlast
    refine ⟨List.mem_of_find?_eq_some hlast, hclass _ he, fun hboth => ?_⟩
    obtain ⟨q, hq, hqe⟩ := hboth (1 - last)
    exact absurd (by simp [hqe]) (List.find?_eq_none.mp hnone q hq)

/-! ## The choice -/

/-- The bay served last in a class. -/
def Bus.lastServed (u : Bus) (k : Nat) : Option BayNo :=
  if k = 1 then u.last1 else if k = 3 then u.last3 else if k = 4 then u.last4 else u.last5

/-- The classes in turn: the request is the choice within its own, and no class above it holds one. -/
theorem chooseRequest_eq_some {u : Bus} {r : Request} (h : chooseRequest u = some r) :
    (r ∈ u.waiting ∧ r.job = .allOff)
    ∨ (∀ q ∈ u.waiting, q.job ≠ .allOff) ∧ (∀ q ∈ u.waiting, r.job.cls ≤ q.job.cls)
      ∧ (r.job.cls = 2 ∧ chooseEngine u.waiting u.lastEngine = some r
        ∨ r.job.cls ≠ 2 ∧ chooseByBay u.waiting r.job.cls (u.lastServed r.job.cls) = some r) := by
  have hbay : ∀ {k : Nat} {last : Option BayNo}, (∀ q ∈ u.waiting, q.job ≠ .allOff) → chooseByBay u.waiting k last = none →
      ∀ q ∈ u.waiting, q.job.cls ≠ k := fun hoff hnone q hq hk =>
    hoff q hq (cls_of_bay_none (chooseByBay_eq_none hnone q hq hk))
  have hclass : ∀ q : Request, q.job.cls = 1 ∨ q.job.cls = 2 ∨ q.job.cls = 3 ∨ q.job.cls = 4 ∨ q.job.cls = 5 := fun q => by
    simpa using cls_mem q.job
  unfold chooseRequest at h
  simp only [Option.or_eq_some_iff, Option.or_eq_none_iff] at h
  have hoff : (u.waiting.find? fun r => r.job == .allOff) = none → ∀ q ∈ u.waiting, q.job ≠ .allOff := fun hnone q hq => by
    simpa using List.find?_eq_none.mp hnone q hq
  have hlamps : chooseEngine u.waiting u.lastEngine = none → ∀ q ∈ u.waiting, q.job.cls ≠ 2 := fun hnone q hq => by
    rw [ne_eq, cls_eq_two_iff, not_not]
    exact chooseEngine_eq_none hnone q hq
  rcases h with ((((h | ⟨n0, h⟩) | ⟨⟨n0, n1⟩, h⟩) | ⟨⟨⟨n0, n1⟩, n2⟩, h⟩) | ⟨⟨⟨⟨n0, n1⟩, n2⟩, n3⟩, h⟩) | ⟨⟨⟨⟨⟨n0, n1⟩, n2⟩, n3⟩, n4⟩, h⟩
  · exact .inl ⟨List.mem_of_find?_eq_some h, by simpa using List.find?_some h⟩
  all_goals
    have hnoff := hoff n0
    refine .inr ⟨hnoff, ?_⟩
  · obtain ⟨-, hk, -⟩ := chooseByBay_eq_some h
    rw [hk]
    exact ⟨fun q _ => by have := hclass q; omega, .inr ⟨by decide, h⟩⟩
  · obtain ⟨-, hk, -⟩ := chooseEngine_eq_some h
    rw [hk]
    exact ⟨fun q hq => by have := hclass q; have := hbay hnoff n1 q hq; omega, .inl ⟨rfl, h⟩⟩
  · obtain ⟨-, hk, -⟩ := chooseByBay_eq_some h
    rw [hk]
    exact ⟨fun q hq => by have := hclass q; have := hbay hnoff n1 q hq; have := hlamps n2 q hq; omega, .inr ⟨by decide, h⟩⟩
  · obtain ⟨-, hk, -⟩ := chooseByBay_eq_some h
    rw [hk]
    exact ⟨fun q hq => by
      have := hclass q; have := hbay hnoff n1 q hq; have := hlamps n2 q hq; have := hbay hnoff n3 q hq; omega, .inr ⟨by decide, h⟩⟩
  · obtain ⟨-, hk, -⟩ := chooseByBay_eq_some h
    rw [hk]
    exact ⟨fun q hq => by
      have := hclass q; have := hbay hnoff n1 q hq; have := hlamps n2 q hq; have := hbay hnoff n3 q hq; have := hbay hnoff n4 q hq
      omega, .inr ⟨by decide, h⟩⟩

theorem mem_of_chooseRequest {u : Bus} {r : Request} (h : chooseRequest u = some r) : r ∈ u.waiting := by
  rcases chooseRequest_eq_some h with ⟨hmem, -⟩ | ⟨-, -, ⟨-, h⟩ | ⟨-, h⟩⟩
  · exact hmem
  · exact (chooseEngine_eq_some h).1
  · exact (chooseByBay_eq_some h).1

theorem chooseRequest_eq_none_iff (u : Bus) : chooseRequest u = none ↔ u.waiting = [] := by
  constructor
  · intro h
    unfold chooseRequest at h
    simp only [Option.or_eq_none_iff] at h
    obtain ⟨⟨⟨⟨⟨n0, n1⟩, n2⟩, n3⟩, n4⟩, n5⟩ := h
    rw [List.eq_nil_iff_forall_not_mem]
    intro q hq
    have hoff : q.job ≠ .allOff := by simpa using List.find?_eq_none.mp n0 q hq
    have hbay : q.job.bay ≠ none := mt cls_of_bay_none hoff
    have hclass := cls_mem q.job
    simp only [List.mem_cons, List.not_mem_nil, or_false] at hclass
    rcases hclass with hk | hk | hk | hk | hk
    · exact hbay (chooseByBay_eq_none n1 q hq hk)
    · exact (cls_eq_two_iff _).mp hk (chooseEngine_eq_none n2 q hq)
    · exact hbay (chooseByBay_eq_none n3 q hq hk)
    · exact hbay (chooseByBay_eq_none n4 q hq hk)
    · exact hbay (chooseByBay_eq_none n5 q hq hk)
  · intro h
    cases hr : chooseRequest u with
    | none => rfl
    | some r =>
      have hmem := mem_of_chooseRequest hr
      rw [h] at hmem
      exact absurd hmem List.not_mem_nil

/-! ## The grant -/

theorem arbitrate_of_no_grant {s : State} (h : s.bus.wire ≠ .free ∨ s.bus.waiting = []) :
    arbitrate s = { s with bus := { s.bus with event := s.bus.event + 1 } } := by
  unfold arbitrate Bus.arbitrate
  cases hwire : s.bus.wire with
  | free =>
    have hnone := (chooseRequest_eq_none_iff s.bus).mpr (h.resolve_left (not_not.mpr hwire))
    simp only [hnone]
  | busy t => rfl
  | quiet => rfl

theorem arbitrate_of_grant {s : State} (hwire : s.bus.wire = .free) (hwait : s.bus.waiting ≠ []) :
    ∃ r, chooseRequest s.bus = some r ∧ arbitrate s = { s with bus := { s.bus.grant r with event := s.bus.event + 1 } } := by
  obtain ⟨r, hr⟩ := Option.ne_none_iff_exists'.mp (mt (chooseRequest_eq_none_iff s.bus).mp hwait)
  refine ⟨r, hr, ?_⟩
  have hevent : (s.bus.grant r).event = s.bus.event := by
    unfold Bus.grant Bus.served
    cases r.job <;> rfl
  unfold arbitrate Bus.arbitrate
  simp only [hwire, hr, hevent]

/-- R176: a grant in one class leaves the record of the others; ALL OFF leaves every record. -/
theorem served_other (u : Bus) {j : Job} {k : Nat} (h : k ≠ j.cls ∨ j = .allOff) : (k = 1 → (u.served j).last1 = u.last1)
    ∧ (k = 3 → (u.served j).last3 = u.last3) ∧ (k = 4 → (u.served j).last4 = u.last4) ∧ (k = 5 → (u.served j).last5 = u.last5) := by
  cases j <;> simp_all [Bus.served, Job.cls]

/-- R176: a grant records its bay in its class. -/
theorem served_bay (u : Bus) {j : Job} {b : BayNo} (hb : j.bay = some b) : (j.cls = 1 → (u.served j).last1 = some b)
    ∧ (j.cls = 3 → (u.served j).last3 = some b) ∧ (j.cls = 4 → (u.served j).last4 = some b) ∧ (j.cls = 5 → (u.served j).last5 = some b) := by
  cases j <;> simp_all [Bus.served, Job.cls, Job.bay]

/-- Settles O48: nothing is granted at a busy bus or without a request; else the highest class, its round-robin, and its record. -/
theorem arbiterGrants : Obligations.ArbiterGrants := by
  unfold Obligations.ArbiterGrants
  intro s u next turn' last
  refine ⟨fun h => arbitrate_of_no_grant h, fun hwire hwait => ?_⟩
  obtain ⟨r, hr, harb⟩ := arbitrate_of_grant hwire hwait
  have hchosen := chooseRequest_eq_some hr
  have hfirst : (∃ q ∈ u.waiting, q.job = .allOff) → r.job = .allOff := fun ⟨q, hq, hoff⟩ =>
    hchosen.elim (·.2) fun ⟨hnone, _⟩ => absurd hoff (hnone q hq)
  have hhighest : ∀ q ∈ u.waiting, r.job.cls ≤ q.job.cls := fun q hq => by
    rcases hchosen with ⟨-, hoff⟩ | ⟨-, h, -⟩
    · have := cls_mem q.job
      simp only [List.mem_cons, List.not_mem_nil, or_false] at this
      rw [hoff, Job.cls]
      omega
    · exact h q hq
  refine ⟨r, mem_of_chooseRequest hr, ?_, ?_, hfirst, hhighest, fun htwo => ⟨?_, fun hboth => ?_⟩, fun b hne hb => ?_, fun k hk hother => ?_⟩
  · rw [harb]
    unfold Bus.grant Bus.served
    cases r.job <;> rfl
  · rw [harb]
  · rw [harb]
    obtain ⟨job, placed⟩ := r
    cases job <;> first | rfl | exact absurd htwo (by simp [Job.cls])
  · rcases hchosen with ⟨-, hoff⟩ | ⟨-, -, ⟨-, h⟩ | ⟨hne, -⟩⟩
    · rw [hoff]
      exact fun h => absurd h (by simp [Job.engine])
    · exact (chooseEngine_eq_some h).2.2 hboth
    · exact absurd htwo hne
  · rcases hchosen with ⟨-, hoff⟩ | ⟨-, -, ⟨htwo, -⟩ | ⟨-, h⟩⟩
    · rw [hoff] at hb
      exact absurd hb (by simp [Job.bay])
    · exact absurd htwo hne
    · obtain ⟨-, -, c, hc, hturn, hbefore⟩ := chooseByBay_eq_some h
      obtain rfl : c = b := Option.some.inj (hc.symm.trans hb)
      refine ⟨hturn, hbefore, ?_⟩
      rw [harb]
      exact served_bay u hb
  · rw [harb]
    exact served_other u hother

end Sys2Proof.Machine

/-! PROOF. What every report and every decision of the clearance unit keeps, said once, and a request through a grant. -/

namespace Sys2Proof.Machine

/-! ## A request outstanding through a grant -/

theorem any_erase_or {l : List Request} {r : Request} (h : r ∈ l) (p : Request → Bool) : (p r || (l.erase r).any p) = l.any p := by
  rw [(List.perm_cons_erase h).any_eq, List.any_cons]

/-- R176: a grant keeps every request outstanding. -/
theorem outstanding_arbitrate (s : State) (p : Job → Bool) : (arbitrate s).outstanding p = s.outstanding p := by
  by_cases h : s.bus.wire ≠ .free ∨ s.bus.waiting = []
  · rw [arbitrate_of_no_grant h]
    rfl
  · obtain ⟨hwire, hwait⟩ := not_or.mp h
    rw [not_not] at hwire
    obtain ⟨r, hr, harb⟩ := arbitrate_of_grant hwire hwait
    have hflies : (arbitrate s).flies p = p r.job := by
      rw [harb]
      simp [State.flies, Bus.grant]
    have hwaits : (arbitrate s).waits p = (s.bus.waiting.erase r).any fun r => p r.job := by
      rw [harb]
      rfl
    have hidle : s.flies p = false := by simp [State.flies, hwire]
    rw [State.outstanding, State.outstanding, hflies, hwaits, hidle, Bool.or_false, Bool.or_comm]
    exact any_erase_or (mem_of_chooseRequest hr) fun q => p q.job

/-! ## What reports and decisions keep -/

/-- What a property of states must be kept by so that every report and every decision of the clearance unit keeps it. -/
structure KeptByReports (P : State → Prop) : Prop where
  notices : ∀ k bs s, P s → P (notify k bs s)
  book : ∀ k (s : State), P s → P { s with book := k }
  clearance : ∀ c (s : State), P s → P { s with clearance := c }
  store : ∀ st (s : State), P s → P { s with store := st }
  onSet : ∀ q (s : State), (∀ m ∈ q.onSet, m ∈ s.seq.onSet) → q.stuck = s.seq.stuck → P s → P { s with seq := q }
  bayState : ∀ b st s, st.isBound = true → P s → P (s.updBay b fun r => { r with state := st })
  heat : ∀ (b : BayNo) on (s : State), s.bus.posts[b].silent = false → P s → P { s with bus := s.asked (Job.isHeatFor b) (.heat b on) }
  signal : ∀ (b : BayNo) a (s : State), s.bus.posts[b].silent = false → P s → P { s with bus := s.asked (Job.isSignalFor b) (.signal b a) }
  withdrawn : ∀ p (s : State), P s → P { s with bus := s.withdrawn p }

namespace KeptByReports

variable {P : State → Prop} (K : KeptByReports P)
include K

theorem and {Q : State → Prop} (L : KeptByReports Q) : KeptByReports fun s => P s ∧ Q s where
  notices k bs s h := ⟨K.notices k bs s h.1, L.notices k bs s h.2⟩
  book k s h := ⟨K.book k s h.1, L.book k s h.2⟩
  clearance c s h := ⟨K.clearance c s h.1, L.clearance c s h.2⟩
  store st s h := ⟨K.store st s h.1, L.store st s h.2⟩
  onSet q s hq hk h := ⟨K.onSet q s hq hk h.1, L.onSet q s hq hk h.2⟩
  bayState b st s hst h := ⟨K.bayState b st s hst h.1, L.bayState b st s hst h.2⟩
  heat b on s hb h := ⟨K.heat b on s hb h.1, L.heat b on s hb h.2⟩
  signal b a s hb h := ⟨K.signal b a s hb h.1, L.signal b a s hb h.2⟩
  withdrawn p s h := ⟨K.withdrawn p s h.1, L.withdrawn p s h.2⟩

theorem notifyBay {s : State} (h : P s) (k : NoticeKind) (b : BayNo) : P (notifyBay k b s) := K.notices k _ s h

theorem withdraw {s : State} (h : P s) (p : Job → Bool) : P (withdraw p s) := by
  rw [withdraw_withdrawn]
  exact K.withdrawn p s h

theorem setBayState {s : State} (h : P s) (b : BayNo) {st : BayState} (hst : st.isBound = true) : P (setBayState b st s) := by
  unfold Machine.setBayState
  split
  · exact h
  · exact K.notifyBay (K.bayState b st s hst h) .bay b

theorem requestSignal {s : State} (h : P s) (b : BayNo) (a : Aspect) : P (requestSignal b a s) := by
  rw [requestSignal_bus]
  cases hs : s.bus.posts[b].silent with
  | true => exact h
  | false => exact K.signal b a s hs h

theorem requestHeat {s : State} (h : P s) (b : BayNo) (on : Bool) : P (requestHeat b on s) := by
  rw [requestHeat_bus]
  cases hs : s.bus.posts[b].silent with
  | true => exact h
  | false => exact K.heat b on s hs h

theorem setSignal {s : State} (h : P s) (b : BayNo) (a : Aspect) : P (setSignal b a s) := by
  unfold Machine.setSignal
  split
  · exact h
  · exact K.requestSignal (K.clearance _ s h) b a

theorem commandHeat {s : State} (h : P s) (b : BayNo) (on : Bool) : P (commandHeat b on s) := by
  unfold Machine.commandHeat
  split
  · exact h
  · exact K.requestHeat (K.onSet { s.seq with commanded := s.seq.commanded.set b ⟨on, s.now⟩ } s (fun _ hm => hm) rfl h) b on

theorem leaveOnSet {s : State} (h : P s) (b : BayNo) : P (leaveOnSet b s) := by
  unfold Machine.leaveOnSet
  split
  · exact h
  · exact K.commandHeat (K.onSet _ s (fun _ hm => (List.mem_filter.mp hm).1) (by rfl) h) b false

theorem silenceHeating {s : State} (h : P s) (b : BayNo) : P (silenceHeating b s) := by
  unfold Machine.silenceHeating
  split
  · exact h
  · exact K.onSet _ _ (fun _ hm => hm) (by rfl) (K.leaveOnSet h b)

theorem returnBay {s : State} (h : P s) (b : BayNo) : P (returnBay b s) := K.setSignal (K.setBayState h b (by decide)) b _

theorem grant {s : State} (h : P s) (ref : Nat) (b : BayNo) : P (grant ref b s) :=
  K.notifyBay (K.setSignal (K.clearance _ _ (K.setBayState (K.withdraw (K.book _ s h) _) b (by split <;> decide))) b .green) .clearance b

theorem refuse {s : State} (h : P s) (ref : Nat) (b : BayNo) (rs : ReasonSet) : P (refuse ref b rs s) :=
  K.notifyBay (K.clearance _ _ (K.book _ s h)) .clearance b

theorem bindFirst {s : State} (h : P s) (b : BayNo) : P (bindFirst b s) := by
  rcases bindWhere_cases (fun _ => true) b s with heq | ⟨x, -, -, -, -, -, -, heq⟩ <;> rw [Machine.bindFirst, heq]
  · exact h
  · exact K.notices _ _ _ (K.book _ s h)

theorem loggedOut {s : State} (h : P s) (d : Departure) (o : LogOutcome) : P (s.loggedOut d o) := K.notices _ _ _ (K.book _ s h)

theorem cancelRecord {s : State} (h : P s) (d : Departure) (o : LogOutcome) : P (cancelRecord d o s) := by
  unfold Machine.cancelRecord
  rw [removeAndNotify_eq_loggedOut]
  have hgone := K.loggedOut h d o
  split
  · exact K.bindFirst hgone _
  · exact K.bindFirst (K.notifyBay (K.clearance _ _ hgone) .clearance _) _
  · exact K.bindFirst (K.returnBay hgone _) _
  all_goals exact hgone

theorem autoCancel {s : State} (h : P s) (ref : Nat) : P (autoCancel ref s) := by
  unfold Machine.autoCancel
  split
  · exact h
  · split
    · exact h
    · split
      · exact K.cancelRecord h _ _
      · exact h

theorem reportToClearance {s : State} (h : P s) (b : BayNo) : P (reportToClearance b s) := by
  unfold Machine.reportToClearance
  split
  · exact h
  · split
    · exact K.autoCancel (K.notifyBay (K.returnBay (K.book _ s h) b) .clearance b) _
    · exact h

theorem pendingCompletion {s : State} (h : P s) (b : BayNo) : P (pendingCompletion b s) := by
  unfold Machine.pendingCompletion
  split
  · exact h
  · split
    · exact h
    · split
      · exact h
      · dsimp only
        split
        · exact K.grant h _ b
        · split
          · exact h
          · exact K.refuse h _ b _

theorem reportWrite {s : State} (h : P s) (b : BayNo) (e : Effect) (notable : Bool) : P (reportWrite b e notable s) := by
  unfold Machine.reportWrite
  dsimp only
  have hnotified : P (if notable = true then Machine.notifyBay .defect b s else s) := by
    split
    · exact K.notifyBay h .defect b
    · exact h
  generalize (if notable = true then Machine.notifyBay .defect b s else s) = u at hnotified
  have hleft : P (if e.inhibits = true then Machine.leaveOnSet b u else u) := by
    split
    · exact K.leaveOnSet hnotified b
    · exact hnotified
  split
  · exact K.reportToClearance hleft b
  · exact hleft

theorem mergeInto {s : State} (h : P s) (b : BayNo) (m : Store → Store × Effect) : P (mergeInto b m s) := by
  unfold Machine.mergeInto
  split
  · exact K.reportWrite (K.store _ s h) b _ _
  · exact h

theorem endTest {s : State} (h : P s) (b : BayNo) : P (endTest b s) := K.pendingCompletion (K.notifyBay h .lamp b) b

end KeptByReports

/-! ## A kind of request that no report places -/

theorem outstanding_asked_eq_false {s : State} {p q : Job → Bool} {j : Job} (hj : q j = false) (h : s.outstanding q = false) :
    ({ s with bus := s.asked p j } : State).outstanding q = false := by
  rw [State.outstanding, Bool.or_eq_false_iff] at h ⊢
  refine ⟨?_, h.2⟩
  have hwaits := List.any_eq_false.mp h.1
  refine List.any_eq_false.mpr fun r hr => ?_
  simp only [State.asked] at hr
  split_ifs at hr
  · obtain ⟨x, hx, rfl⟩ := List.mem_map.mp hr
    split_ifs
    · rw [hj]
      exact Bool.false_ne_true
    · exact hwaits x hx
  · rcases List.mem_append.mp hr with hr | hr
    · exact hwaits r hr
    · obtain rfl := List.mem_singleton.mp hr
      rw [hj]
      exact Bool.false_ne_true

theorem outstanding_withdrawn_eq_false {s : State} {q : Job → Bool} (p : Job → Bool) (h : s.outstanding q = false) :
    ({ s with bus := s.withdrawn p } : State).outstanding q = false := by
  rw [State.outstanding, Bool.or_eq_false_iff] at h ⊢
  obtain ⟨hwaits, hflies⟩ := h
  refine ⟨List.any_eq_false.mpr fun r hr => List.any_eq_false.mp hwaits r (List.mem_filter.mp hr).1, ?_⟩
  unfold State.flies State.withdrawn at *
  cases hw : s.bus.wire with
  | free => rfl
  | quiet => rfl
  | busy x =>
    rw [hw] at hflies
    cases hd : x.discarded <;> simp_all

theorem keptByReports_outstanding {q : Job → Bool} (hheat : ∀ b on, q (.heat b on) = false) (hsignal : ∀ b a, q (.signal b a) = false) :
    KeptByReports fun s => s.outstanding q = false where
  notices _ _ _ h := h
  book _ _ h := h
  clearance _ _ h := h
  store _ _ h := h
  onSet _ _ _ _ h := h
  bayState _ _ _ _ h := h
  heat b on _ _ h := outstanding_asked_eq_false (hheat b on) h
  signal b a _ _ h := outstanding_asked_eq_false (hsignal b a) h
  withdrawn p _ h := outstanding_withdrawn_eq_false p h

end Sys2Proof.Machine

/-! PROOF. The lamp unit: the requests for a test, the takes of the engines, an abort, and the steps of a test. -/

namespace Sys2Proof.Machine

/-! ## What a take finds at the bay -/

/-- R107: the reason for which a test on the bay ends at its take. -/
def State.cannotTest (s : State) (b : BayNo) (reason : LampReason) : Prop :=
  (s.classOf b = none ∧ reason = .noClass)
    ∨ ∃ c : ClassRecord, s.classOf b = some c
      ∧ (((∀ i : Fin 16, c.lamps[i] = none) ∧ reason = .noLampSet)
        ∨ ((∃ i : Fin 16, c.lamps[i] ≠ none)
          ∧ (((s.bay b).plug = false ∧ reason = .noPlug)
            ∨ ((s.bay b).plug = true ∧ s.bus.posts[b].silent = true ∧ reason = .postSilent))))

theorem definedCircuits_isEmpty_iff (l : LampSet) : (definedCircuits l).isEmpty = true ↔ ∀ i : Fin 16, l[i] = none := by
  rw [List.isEmpty_iff, definedCircuits, List.filter_eq_nil_iff]
  exact ⟨fun h i => Option.not_isSome_iff_eq_none.mp (h i (List.mem_finRange i)), fun h i _ => Option.not_isSome_iff_eq_none.mpr (h i)⟩

theorem untestable_eq_some_iff (s : State) (b : BayNo) (reason : LampReason) : s.untestable b = some reason ↔ s.cannotTest b reason := by
  unfold State.untestable State.cannotTest
  cases hc : s.classOf b with
  | none => simpa using eq_comm
  | some c =>
    simp only [reduceCtorEq, false_and, Option.some.injEq, exists_eq_left', false_or]
    by_cases hset : ∀ i : Fin 16, c.lamps[i] = none
    · rw [if_pos ((definedCircuits_isEmpty_iff _).mpr hset)]
      refine ⟨fun h => .inl ⟨hset, (Option.some.inj h).symm⟩, ?_⟩
      rintro (⟨-, rfl⟩ | ⟨hex, -⟩)
      · rfl
      · exact absurd hset (not_forall.mpr hex)
    · have hex : ∃ i : Fin 16, c.lamps[i] ≠ none := not_forall.mp hset
      rw [if_neg (mt (definedCircuits_isEmpty_iff _).mp hset)]
      simp only [hset, hex, true_and, false_and, false_or]
      have hpost : s.silent b = s.bus.posts[b].silent := rfl
      rw [hpost]
      cases (s.bay b).plug <;> cases s.bus.posts[b].silent <;> simp [eq_comm]

/-- R107: the test's end at a take that fails. -/
def State.untested (s : State) (b : BayNo) (reason : LampReason) : State :=
  pendingCompletion b (notifyBay .lamp b
    { s with lamp := { s.lamp with results := s.lamp.results.set b (some ⟨.incomplete reason, 0, none⟩) } })

/-- R108: t is s with a test of the bay started on the engine. -/
def State.testStarted (s : State) (e : EngineNo) (b : BayNo) (t : State) : Prop :=
  ∃ (c : ClassRecord) (first : Fin 16) (rs : Vector CircuitResult 16),
    s.classOf b = some c ∧ c.lamps[first].isSome ∧ (∀ i : Fin 16, i < first → c.lamps[i] = none)
    ∧ (∀ i : Fin 16, rs[i] = if c.lamps[i].isSome then .untested else .undefined)
    ∧ t = placeJob (.lampStep e b first) (leaveOnSet b { s with
        lamp := { s.lamp with engines := s.lamp.engines.set e (.running ⟨b, c.lamps, c.settle, first, rs, none⟩) } })

theorem takeTest_of_cannot {s : State} {b : BayNo} {reason : LampReason} (h : s.cannotTest b reason) (e : EngineNo) :
    takeTest e b s = s.untested b reason := by
  simp only [takeTest, (untestable_eq_some_iff s b reason).mpr h]
  rfl

/-- R107: no test is started at a SILENT post. -/
theorem exists_cannotTest_of_silent {s : State} {b : BayNo} (h : s.bus.posts[b].silent = true) : ∃ reason, s.cannotTest b reason := by
  cases hc : s.classOf b with
  | none => exact ⟨.noClass, .inl ⟨hc, rfl⟩⟩
  | some c =>
    by_cases hset : ∀ i : Fin 16, c.lamps[i] = none
    · exact ⟨.noLampSet, .inr ⟨c, hc, .inl ⟨hset, rfl⟩⟩⟩
    · cases hplug : (s.bay b).plug with
      | false => exact ⟨.noPlug, .inr ⟨c, hc, .inr ⟨not_forall.mp hset, .inl ⟨hplug, rfl⟩⟩⟩⟩
      | true => exact ⟨.postSilent, .inr ⟨c, hc, .inr ⟨not_forall.mp hset, .inr ⟨hplug, h, rfl⟩⟩⟩⟩

/-- The first circuit of a lamp set that is not empty. -/
theorem exists_first_circuit {l : LampSet} (h : ∃ i : Fin 16, l[i] ≠ none) : ∃ first : Fin 16,
    (definedCircuits l).head? = some first ∧ l[first].isSome = true ∧ ∀ i : Fin 16, i < first → l[i] = none := by
  have hne : definedCircuits l ≠ [] := fun hnil => by
    obtain ⟨i, hi⟩ := h
    exact hi ((definedCircuits_isEmpty_iff l).mp (List.isEmpty_iff.mpr hnil) i)
  obtain ⟨first, hfirst⟩ := Option.ne_none_iff_exists'.mp (mt List.head?_eq_none_iff.mp hne)
  have hfind : (List.finRange 16).find? (fun c => l[c].isSome) = some first := by
    rw [← List.head?_filter]
    exact hfirst
  obtain ⟨hsome, i, hi, hget, hbefore⟩ := List.find?_eq_some_iff_getElem.mp hfind
  have hval : i = first.val := by
    rw [List.getElem_finRange] at hget
    exact congrArg Fin.val hget
  refine ⟨first, hfirst, hsome, fun j hj => ?_⟩
  have := hbefore j (hval ▸ hj)
  simpa using this

theorem silent_leaveOnSet (b c : BayNo) (s : State) : (leaveOnSet b s).silent c = s.silent c := by
  rw [State.silent, State.silent, leaveOnSet_waiting]

theorem takeTest_of_can {s : State} {b : BayNo} (h : ∀ reason, ¬ s.cannotTest b reason) (e : EngineNo) :
    s.testStarted e b (takeTest e b s) := by
  have hfree : s.untestable b = none := Option.eq_none_iff_forall_ne_some.mpr fun reason hr => h reason ((untestable_eq_some_iff ..).mp hr)
  have hclass : ∃ c, s.classOf b = some c := Option.ne_none_iff_exists'.mp fun hnone => h .noClass (.inl ⟨hnone, rfl⟩)
  obtain ⟨c, hc⟩ := hclass
  have hset : ∃ i : Fin 16, c.lamps[i] ≠ none := by
    by_contra hnone
    refine h .noLampSet (.inr ⟨c, hc, .inl ⟨fun i => ?_, rfl⟩⟩)
    by_contra hi
    exact hnone ⟨i, hi⟩
  have hsilent : s.silent b = false := by
    by_contra hsil
    obtain ⟨reason, hr⟩ := exists_cannotTest_of_silent (Bool.eq_true_of_not_eq_false hsil)
    exact h reason hr
  obtain ⟨first, hhead, hsome, hbefore⟩ := exists_first_circuit hset
  refine ⟨c, first, freshResults c.lamps, hc, hsome, hbefore, fun i => by simp [freshResults], ?_⟩
  simp only [takeTest, hfree, hc, startTest, hhead, requestStep]
  exact if_neg (by
    rw [silent_leaveOnSet]
    exact Bool.eq_false_iff.mp hsilent)

/-! ## The takes of the engines -/

theorem takeAll_of_queue_nil {s : State} (h : s.lamp.queue = []) : takeAll s = s := by
  unfold takeAll
  rw [h]
  rfl

theorem takeTests_of_none {s : State} (h : s.freeEngine = none ∨ s.takeable = none) (n : Nat) : takeTests n s = s := by
  cases n with
  | zero => rfl
  | succ n =>
    unfold takeTests
    rcases h with h | h
    · simp [h]
    · cases s.freeEngine <;> simp [h]

/-- R106: no engine is FREE, or every queued bay is under test. -/
theorem takeAll_of_none {s : State} (h : (∀ e : EngineNo, s.lamp.engines[e] ≠ .free) ∨ ∀ q ∈ s.lamp.queue, s.underTest q.bay = true) :
    takeAll s = s := by
  refine takeTests_of_none (h.imp (fun h => ?_) fun h => ?_) _
  · exact find_finRange_eq_none fun e => by simpa using h e
  · exact List.find?_eq_none.mpr fun q hq => by simp [h q hq]

theorem takeTest_queue (e : EngineNo) (b : BayNo) (s : State) : (takeTest e b s).lamp.queue = s.lamp.queue := by
  by_cases h : ∃ reason, s.cannotTest b reason
  · obtain ⟨reason, h⟩ := h
    rw [takeTest_of_cannot h, State.untested]
    rw [(pendingCompletion_decided b _).reported.keeps.1]
    rfl
  · obtain ⟨c, first, rs, -, -, -, -, ht⟩ := takeTest_of_can (fun reason hr => h ⟨reason, hr⟩) e
    rw [ht]
    show (leaveOnSet b _).lamp.queue = _
    rw [(leaveOnSet_reported b _).keeps.1]

/-- R106: the first FREE engine takes the first entry whose bay is not under test. -/
theorem takeAll_of_take {s : State} {before after : List QueueEntry} {q : QueueEntry} {e : EngineNo} (hqueue : s.lamp.queue = before ++ q :: after)
    (hn : (s.lamp.queue.map (·.bay)).Nodup) (hbefore : ∀ x ∈ before, s.underTest x.bay = true) (hq : s.underTest q.bay = false)
    (hfree : s.lamp.engines[e] = .free) (hmin : ∀ f : EngineNo, f < e → s.lamp.engines[f] ≠ .free) :
    takeAll s = takeAll (takeTest e q.bay { s with lamp := { s.lamp with queue := before ++ after } }) := by
  have hengine : s.freeEngine = some e := find_finRange_eq_some (by simpa using hfree) fun f hf => by simpa using hmin f hf
  have hentry : s.takeable = some q :=
    List.find?_eq_some_iff_append.mpr ⟨by simp [hq], before, after, hqueue, fun x hx => by simp [hbefore x hx]⟩
  have hleft : s.lamp.queue.filter (·.bay != q.bay) = before ++ after := by
    rw [hqueue, List.map_append, List.map_cons] at hn
    have hout := List.nodup_middle.mp hn
    rw [← List.map_append, List.nodup_cons] at hout
    have hne : ∀ x ∈ before ++ after, (x.bay != q.bay) = true := fun x hx => by
      rw [bne_iff_ne]
      exact fun hbay => hout.1 (hbay ▸ List.mem_map_of_mem hx)
    rw [List.forall_mem_append] at hne
    rw [hqueue, List.filter_append, List.filter_cons, List.filter_eq_self.mpr hne.1, List.filter_eq_self.mpr hne.2]
    simp
  have hlength : s.lamp.queue.length = (before ++ after).length + 1 := by
    rw [hqueue]
    simp
    omega
  unfold takeAll
  rw [takeTest_queue, hlength]
  show takeTests _ s = takeTests (before ++ after).length _
  simp only [takeTests, hengine, hentry]
  rw [← hleft]
  rfl

/-! ## A request for a test -/

theorem requestTest_of_not_bound {b : BayNo} {s : State} (h : (s.bay b).state ∈ [.closed, .empty, .arrived]) (lv : Level) :
    requestTest b lv s = (s, .wrongState) := by
  have hbound : s.boundAt b = false := (isBound_eq_false_iff _).mpr h
  simp [requestTest, hbound]

theorem requestTest_of_active {b : BayNo} {s : State} {lv : Level} (h : (s.bay b).state ∈ [.bound, .cleared, .leaving])
    (htest : s.testActive b = true) (hstays : lv = .routine ∨ ⟨b, .routine⟩ ∉ s.lamp.queue) : requestTest b lv s = (s, .merged) := by
  have hbound : s.boundAt b = true := (isBound_eq_true_iff _).mpr h
  rcases hstays with rfl | hstays
  · simp [requestTest, hbound, htest]
  · simp [requestTest, hbound, htest, hstays]

theorem requestTest_of_promoted {b : BayNo} {s : State} (h : (s.bay b).state ∈ [.bound, .cleared, .leaving])
    (hqueued : ⟨b, .routine⟩ ∈ s.lamp.queue) : requestTest b .urgent s
      = ({ s with lamp := { s.lamp with queue := promote b s.lamp.queue } }, .merged) := by
  have hbound : s.boundAt b = true := (isBound_eq_true_iff _).mpr h
  have htest : s.testActive b = true := (testActive_iff s b).mpr (.inl ⟨_, hqueued, rfl⟩)
  simp [requestTest, hbound, htest, hqueued, State.updLamp]

theorem requestTest_of_room {b : BayNo} {s : State} (lv : Level) (h : (s.bay b).state ∈ [.bound, .cleared, .leaving])
    (htest : s.testActive b = false) (hroom : s.lamp.queue.length < 8) : requestTest b lv s = (takeAll { s with
      lamp := { s.lamp with queue := match lv with
        | .urgent => insertUrgent b s.lamp.queue
        | .routine => s.lamp.queue ++ [⟨b, .routine⟩] } }, .ok) := by
  have hbound : s.boundAt b = true := (isBound_eq_true_iff _).mpr h
  have hnotfull : ¬ queueRoom ≤ s.lamp.queue.length := not_le.mpr hroom
  simp only [requestTest, hbound, htest, hnotfull, Bool.not_true, Bool.false_eq_true, if_false]
  rfl

theorem filter_urgent {urgent routine : List QueueEntry} (hu : ∀ q ∈ urgent, q.level = .urgent) (hr : ∀ q ∈ routine, q.level = .routine) :
    (urgent ++ routine).filter (·.level == .urgent) = urgent ∧ (urgent ++ routine).filter (·.level == .routine) = routine := by
  have hkeep : ∀ {l : List QueueEntry} {lv : Level}, (∀ q ∈ l, q.level = lv) → l.filter (·.level == lv) = l := fun h =>
    List.filter_eq_self.mpr fun q hq => by simp [h q hq]
  have hdrop : ∀ {l : List QueueEntry} {lv lv' : Level}, (∀ q ∈ l, q.level = lv) → lv ≠ lv' → l.filter (·.level == lv') = [] := fun h hne =>
    List.filter_eq_nil_iff.mpr fun q hq => by simp [h q hq, hne]
  rw [List.filter_append, List.filter_append, hkeep hu, hkeep hr, hdrop hr (by decide), hdrop hu (by decide)]
  simp

/-- R105: an URGENT entry stands behind the last URGENT one. -/
theorem insertUrgent_eq {urgent routine : List QueueEntry} (hu : ∀ q ∈ urgent, q.level = .urgent) (hr : ∀ q ∈ routine, q.level = .routine)
    (b : BayNo) : insertUrgent b (urgent ++ routine) = urgent ++ ⟨b, .urgent⟩ :: routine := by
  obtain ⟨hurgent, hroutine⟩ := filter_urgent hu hr
  rw [insertUrgent, hurgent, hroutine]

theorem promote_eq {urgent routine : List QueueEntry} (hu : ∀ q ∈ urgent, q.level = .urgent) (hr : ∀ q ∈ routine, q.level = .routine)
    {b : BayNo} (hb : ∀ q ∈ urgent, q.bay ≠ b) :
    promote b (urgent ++ routine) = urgent ++ ⟨b, .urgent⟩ :: routine.filter (·.bay != b) := by
  have hkeep : urgent.filter (·.bay != b) = urgent := List.filter_eq_self.mpr fun q hq => by simpa using hb q hq
  rw [promote, List.filter_append, hkeep]
  exact insertUrgent_eq hu (fun q hq => hr q (List.mem_filter.mp hq).1) b

/-! ## The automatic request of a binding -/

theorem requestAutoTest_of_not_full {b : BayNo} {s : State} (h : (requestTest b .routine s).2 ≠ .queueFull) :
    requestAutoTest b s = (requestTest b .routine s).1 := if_neg h

theorem requestAutoTest_of_full {b : BayNo} {s : State} (h : (requestTest b .routine s) = (s, .queueFull)) :
    requestAutoTest b s = notifyBay .lamp b s := by
  rw [requestAutoTest, h]
  rfl

/-! ## Aborts -/

theorem testAborted_keeps (s : State) (e : EngineNo) {x : RunningTest} {b : BayNo} (hb : x.bay = b) (reason : LampReason) :
    (s.testAborted e x reason).lamp = { s.lamp with
      engines := s.lamp.engines.set e (.releasing b)
      results := s.lamp.results.set b (some ⟨.incomplete reason, 0, some x.results⟩) }
    ∧ (s.testAborted e x reason).bus.posts = s.bus.posts := by
  subst hb
  have hreported : (s.testAborted e x reason).reportedFrom _ := (pendingCompletion_decided x.bay _).reported.trans
    ((notifyBay_decided .lamp x.bay _).reported.trans (mergeInto_reported x.bay (fun st => st.mergePartial x.bay x.results) _))
  obtain ⟨hlamp, -, hposts⟩ := hreported.keeps
  exact ⟨hlamp, hposts⟩

/-- R112: the release that follows an end; at a SILENT post the engine is FREE at once. -/
theorem startRelease_of_silent {e : EngineNo} {b : BayNo} {s : State} (h : s.silent b = true) : startRelease e b s = endRelease e s := if_pos h

theorem setEngine_of_eq {e : EngineNo} {x : Engine} {s : State} (h : s.lamp.engines[e] = x) : setEngine e x s = s := by
  have hset : s.lamp.engines.set e x = s.lamp.engines := by rw [← h]; exact Vector.set_getElem_self e.isLt
  unfold setEngine State.updLamp
  dsimp only
  rw [hset]

theorem startRelease_of_responding {e : EngineNo} {b : BayNo} {s : State} (hpost : s.silent b = false)
    (hengine : s.lamp.engines[e] = .releasing b) : startRelease e b s = placeJob (.lampEnd e b) s := by
  rw [startRelease, if_neg (Bool.eq_false_iff.mp hpost), setEngine_of_eq hengine]

theorem abortTest_of_running {e : EngineNo} {reason : LampReason} {s : State} {x : RunningTest} (hx : s.lamp.engines[e] = .running x) :
    abortTest e reason s = if reason = .postSilent then endRelease e (s.testAborted e x reason)
      else startRelease e x.bay (s.testAborted e x reason) := by
  simp only [abortTest, hx, stopSteps, withdraw_withdrawn]
  rfl

theorem abortTest_of_responding {e : EngineNo} {reason : LampReason} {s : State} {x : RunningTest} {b : BayNo}
    (hx : s.lamp.engines[e] = .running x) (hb : x.bay = b) (hreason : reason ≠ .postSilent) (hpost : s.bus.posts[b].silent = false) :
    abortTest e reason s = placeJob (.lampEnd e b) (s.testAborted e x reason) := by
  obtain ⟨hlamp, hposts⟩ := testAborted_keeps s e hb reason
  rw [abortTest_of_running hx, if_neg hreason, hb]
  refine startRelease_of_responding ?_ ?_
  · rw [State.silent, hposts]
    exact hpost
  · rw [hlamp]
    exact Vector.getElem_set_self e.isLt

theorem endRelease_testAborted (e : EngineNo) (reason : LampReason) (s : State) (x : RunningTest) :
    endRelease e (s.testAborted e x reason) = { s.testAborted e x reason with
      lamp := { (s.testAborted e x reason).lamp with engines := s.lamp.engines.set e .free } } := by
  have hset : (s.testAborted e x reason).lamp.engines.set e .free = s.lamp.engines.set e .free := by
    rw [(testAborted_keeps s e rfl reason).1]
    exact Vector.set_set ..
  unfold endRelease setEngine State.updLamp
  dsimp only
  rw [hset]

theorem abortTest_of_silent {e : EngineNo} {reason : LampReason} {s : State} {x : RunningTest} {b : BayNo}
    (hx : s.lamp.engines[e] = .running x) (hb : x.bay = b) (hpost : s.bus.posts[b].silent = true) : abortTest e reason s =
      { s.testAborted e x reason with
        lamp := { (s.testAborted e x reason).lamp with engines := s.lamp.engines.set e .free } } := by
  have hsilent : (s.testAborted e x reason).silent x.bay = true := by
    rw [hb, State.silent, (testAborted_keeps s e hb reason).2]
    exact hpost
  rw [abortTest_of_running hx, startRelease_of_silent hsilent, ite_self, endRelease_testAborted]

theorem isStepOf_testAborted (s : State) (e : EngineNo) (x : RunningTest) (reason : LampReason) :
    (s.testAborted e x reason).outstanding (Job.isStepOf e) = false := by
  have K := keptByReports_outstanding (q := Job.isStepOf e) (fun _ _ => rfl) fun _ _ => rfl
  have hstart := outstanding_withdrawn s (Job.isStepOf e)
  unfold State.testAborted
  refine K.pendingCompletion (K.notifyBay (K.mergeInto ?_ x.bay _) .lamp x.bay) x.bay
  exact hstart

theorem exec_requestLampTest_of_ready {l : Link} {bay : Byte} {s : State} (hr : s.ready l) (hb : s.fits bay) :
    exec (.requestLampTest l bay) s = .next (answer l (ruleRequestLampTest (bayOf bay) s).2 (ruleRequestLampTest (bayOf bay) s).1) :=
  event_takeCommand_of_ready _ hr (by cases l <;> decide) (by simpa using hb)

theorem exec_abortLampTest_of_ready {bay : Byte} {s : State} (hr : s.ready .workshop) (hb : s.fits bay) :
    exec (.abortLampTest .workshop bay) s
      = .next (answer .workshop (ruleAbortLampTest (bayOf bay) s).2 (ruleAbortLampTest (bayOf bay) s).1) :=
  event_takeCommand_of_ready _ hr (by decide) (by simpa using hb)

/-- R104, R106: a request that meets an empty queue and two FREE engines is taken by engine 0 at once. -/
theorem requestTest_of_idle {b : BayNo} {s : State} (h : (s.bay b).state ∈ [.bound, .cleared, .leaving]) (hqueue : s.lamp.queue = [])
    (hfree : ∀ e : EngineNo, s.lamp.engines[e] = .free) : requestTest b .routine s = (takeTest 0 b s, .ok) := by
  have htest : s.testActive b = false := by
    rw [Bool.eq_false_iff, ne_eq, testActive_iff]
    rintro (⟨q, hq, -⟩ | ⟨e, x, hx, -⟩)
    · rw [hqueue] at hq
      exact absurd hq List.not_mem_nil
    · rw [hfree e] at hx
      exact absurd hx (by simp)
  have hunder : s.underTest b = false := by
    rw [Bool.eq_false_iff, ne_eq, underTest_iff]
    rintro ⟨e, h | ⟨x, h, -⟩⟩ <;> simp [hfree e] at h
  have htake := takeAll_of_take (s := { s with lamp := { s.lamp with queue := s.lamp.queue ++ [⟨b, .routine⟩] } })
    (before := []) (after := []) (q := ⟨b, .routine⟩) (e := 0) (by rw [hqueue]) (by rw [hqueue]; simp) (by simp) hunder (hfree 0)
    (fun f hf => absurd hf (Nat.not_lt_zero _))
  have hback : ({ s with lamp := { s.lamp with queue := [] } } : State) = s := by rw [← hqueue]
  rw [requestTest_of_room .routine h htest (by simp [hqueue])]
  refine congrArg (·, RequestAnswer.ok) (htake.trans ?_)
  show takeAll (takeTest 0 b { s with lamp := { s.lamp with queue := [] } }) = _
  rw [hback]
  exact takeAll_of_queue_nil (by rw [takeTest_queue, hqueue])

theorem fin_two_eq_free {s : State} (h0 : s.lamp.engines[0] = .free) (h1 : s.lamp.engines[1] = .free) (e : EngineNo) :
    s.lamp.engines[e] = .free := by
  rcases Fin.exists_fin_two.mp ⟨e, rfl⟩ with rfl | rfl
  · exact h0
  · exact h1

/-- R106, R114: in a sound lamp unit one engine runs the bay's test. -/
theorem engineTesting_of_sound {s : State} {b : BayNo} {e : EngineNo} {x : RunningTest} (hk : s.lamp.sound) (he : s.lamp.engines[e] = .running x)
    (hb : x.bay = b) : s.engineTesting b = some e := by
  refine engineTesting_eq_some he hb fun f hf ⟨y, hy, hyb⟩ => ?_
  obtain ⟨-, hn, -⟩ := hk
  have htests := (List.nodup_append.mp hn).2.1
  rw [Fin.lt_def] at hf
  have hpair : s.lamp.engines.toList = [s.lamp.engines[(0 : EngineNo)], s.lamp.engines[(1 : EngineNo)]] := by
    apply List.ext_getElem
    · simp
    · intro i hi _
      have hi2 : i < 2 := by simpa using hi
      interval_cases i <;> rfl
  have hf0 : f = 0 := Fin.ext (by have := e.isLt; have : (0 : EngineNo).val = 0 := rfl; omega)
  have he1 : e = 1 := Fin.ext (by have := e.isLt; have : (1 : EngineNo).val = 1 := rfl; omega)
  rw [hf0] at hy
  rw [he1] at he
  rw [hpair] at htests
  simp [hy, he, Engine.testing, hb, hyb] at htests

/-- Settles O38: the answers of a request by the queue and the engines, the takes, the automatic request, and ABORT LAMP TEST. -/
theorem lampTestAsked : Obligations.LampTestAsked := by
  unfold Obligations.LampTestAsked
  intro fails untested starts
  refine ⟨fun l bay s hr hfits => ?asked, fun b urgent routine s hqueue hu hrout => ?urgent, fun s => ?takes, fun b s => ?auto,
    fun bay s hr hfits => ?aborts⟩
  case asked =>
    intro b answers queued running
    have hactive : s.testActive b = true ↔ queued = true ∨ running := by
      rw [testActive_iff]
      simp only [queued, List.any_eq_true, beq_iff_eq]
      exact Iff.rfl
    have hanswers : ∀ {t : State} {a : RequestAnswer}, requestTest b .routine s = (t, a) →
        answers a.status (if a = .ok then arbitrate t else t) := fun {t a} h => by
      simp only [answers, exec_requestLampTest_of_ready hr hfits, ruleRequestLampTest]
      rw [show requestTest (bayOf bay) .routine s = (t, a) from h]
    refine ⟨fun h => hanswers (requestTest_of_not_bound h _), fun h => ⟨fun hknown =>
      hanswers (requestTest_of_active h (hactive.mpr hknown) (.inl rfl)), fun hnone hidle => ⟨fun hfull => ?_, fun hroom => ?_,
        fun hempty h0 h1 => ?_⟩⟩⟩
    · exact hanswers (requestTest_of_full ((isBound_eq_true_iff _).mpr h)
        (Bool.eq_false_iff.mpr fun htest => (hactive.mp htest).elim (by simp [hnone]) hidle) hfull)
    · exact hanswers (requestTest_of_room .routine h
        (Bool.eq_false_iff.mpr fun htest => (hactive.mp htest).elim (by simp [hnone]) hidle) hroom)
    · have htaken := hanswers (requestTest_of_idle h hempty (fin_two_eq_free h0 h1))
      refine ⟨fun reason hfails => ?_, fun hcan => ⟨_, htaken, takeTest_of_can hcan 0⟩⟩
      rw [takeTest_of_cannot hfails] at htaken
      exact htaken
  case urgent =>
    intro answers queue running
    have hstate : s.testActive b = true ↔ (∃ q ∈ s.lamp.queue, q.bay = b) ∨ running := testActive_iff s b
    refine ⟨fun h => requestTest_of_not_bound h _, fun h => ⟨fun hmem hfirst => ?_, fun hnot hknown => ?_, fun hnone hidle =>
      ⟨fun hfull => ?_, fun hroom => ?_⟩⟩⟩
    · refine (requestTest_of_promoted h (hqueue ▸ List.mem_append_right _ hmem)).trans ?_
      rw [hqueue, promote_eq hu hrout hfirst]
    · refine requestTest_of_active h (hstate.mpr ?_) (.inr ?_)
      · exact hknown.symm.imp_left fun hmem => ⟨_, hqueue ▸ List.mem_append_left _ hmem, rfl⟩
      · rw [hqueue, List.mem_append, not_or]
        exact ⟨fun hmem => absurd (hu _ hmem) (by simp), hnot⟩
    · exact requestTest_of_full ((isBound_eq_true_iff _).mpr h)
        (Bool.eq_false_iff.mpr fun htest => (hstate.mp htest).elim (fun ⟨q, hq, hqb⟩ => hnone q hq hqb) hidle) hfull
    · refine (requestTest_of_room .urgent h
        (Bool.eq_false_iff.mpr fun htest => (hstate.mp htest).elim (fun ⟨q, hq, hqb⟩ => hnone q hq hqb) hidle) hroom).trans ?_
      show (takeAll { s with lamp := { s.lamp with queue := insertUrgent b s.lamp.queue } }, RequestAnswer.ok) = _
      rw [hqueue, insertUrgent_eq hu hrout]
  case takes =>
    intro busy
    have hbusy : ∀ b, s.underTest b = true ↔ busy b := underTest_iff s
    refine ⟨fun h => takeAll_of_none (h.imp_right fun h q hq => (hbusy _).mpr (h q hq)),
      fun before after q e hqueue hn hbefore hq hfree hmin => ?_⟩
    intro left
    have htake := takeAll_of_take hqueue hn (fun x hx => (hbusy _).mpr (hbefore x hx))
      (Bool.eq_false_iff.mpr (mt (hbusy _).mp hq)) hfree hmin
    refine ⟨fun reason hfails => ?_, fun hcan => ⟨_, takeTest_of_can (s := left) hcan e, htake⟩⟩
    rw [htake, takeTest_of_cannot (s := left) hfails]
    rfl
  case auto =>
    intro known
    have hknown : s.testActive b = true ↔ known := testActive_iff s b
    refine ⟨fun h => ?_, fun h hk => ?_, fun h hk => ⟨fun hfull => requestAutoTest_of_full ?_, fun hroom => ?_⟩⟩
    · have htest := requestTest_of_not_bound h .routine
      rw [requestAutoTest_of_not_full (by simp [htest]), htest]
    · have htest := requestTest_of_active (lv := .routine) h (hknown.mpr hk) (.inl rfl)
      rw [requestAutoTest_of_not_full (by simp [htest]), htest]
    · exact requestTest_of_full ((isBound_eq_true_iff _).mpr h) (Bool.eq_false_iff.mpr (mt hknown.mp hk)) hfull
    · have htest := requestTest_of_room .routine h (Bool.eq_false_iff.mpr (mt hknown.mp hk)) hroom
      rw [requestAutoTest_of_not_full (by simp [htest]), htest]
  case aborts =>
    intro b answers runs
    have hanswers : ∀ st t, ruleAbortLampTest b s = (t, ⟨st, .empty⟩) → answers st t := fun st t h => by
      simp only [answers, exec_abortLampTest_of_ready hr hfits]
      rw [show ruleAbortLampTest (bayOf bay) s = (t, ⟨st, .empty⟩) from h]
    have hidle : ¬ runs → s.engineTesting b = none := fun h => engineTesting_eq_none fun e ⟨y, hy, hyb⟩ => h ⟨e, y, hy, hyb⟩
    refine ⟨fun hruns hnone => hanswers _ _ ?_, fun hruns ⟨q, hq, hqb⟩ => hanswers _ _ ?_, fun e x hk hx hxb => ?_⟩
    · have hany : s.lamp.queue.any (·.bay == b) = false := by simpa using hnone
      simp [ruleAbortLampTest, hidle hruns, hany, refusal]
    · have hany : s.lamp.queue.any (·.bay == b) = true := List.any_eq_true.mpr ⟨q, hq, by simpa using hqb⟩
      simp only [ruleAbortLampTest, hidle hruns, hany, if_true]
      rfl
    · intro ended
      have hrule : ruleAbortLampTest b s = (arbitrate (takeAll (abortTest e .aborted s)), ⟨.ok, .empty⟩) := by
        simp only [ruleAbortLampTest, engineTesting_of_sound hk hx hxb]
      have hresponds : s.bus.posts[b].silent = false → abortTest e .aborted s = placeJob (.lampEnd e b) ended := fun hpost =>
        abortTest_of_responding hx hxb (by simp) hpost
      refine ⟨fun hpost => hanswers _ _ ?_, fun hpost => hanswers _ _ ?_, fun hempty hpost => ⟨_, hanswers _ _ hrule, ?_⟩⟩
      · rw [hrule, hresponds hpost]
      · rw [hrule, abortTest_of_silent hx hxb hpost]
      · obtain ⟨hlamp, -⟩ := testAborted_keeps s e hxb .aborted
        have hnil : (placeJob (.lampEnd e b) ended).lamp.queue = [] := (congrArg LampUnit.queue hlamp).trans hempty
        rw [hresponds hpost, takeAll_of_queue_nil hnil, outstanding_arbitrate, outstanding_arbitrate]
        refine ⟨hlamp, ?_, ?_⟩
        · simp [State.outstanding, State.waits, placeJob]
        · have hwaits := isStepOf_testAborted s e x .aborted
          rw [State.outstanding, Bool.or_eq_false_iff] at hwaits ⊢
          refine ⟨?_, hwaits.2⟩
          show (ended.bus.waiting ++ [_]).any _ = false
          rw [List.any_append, Bool.or_eq_false_iff]
          exact ⟨hwaits.1, rfl⟩

theorem exec_settleTimerExpiry {e : EngineNo} {s : State} (h : s.resetHeld = false) :
    exec (.settleTimerExpiry e) s = .next (settleExpiry e s) := event_of_not_held h

theorem settleExpiry_of_not_running {e : EngineNo} {s : State} (h : ∀ y, s.lamp.engines[e] ≠ .running y) : settleExpiry e s = s := by
  unfold settleExpiry
  split
  · rfl
  · rfl
  · next y hy => exact absurd hy (h y)

/-! ## The judgement of a current, and the next circuit -/

theorem judgeCurrent_eq (w : Circuit) (i : Nat) :
    judgeCurrent w i = if i < w.minimum then .low i w.action else if w.maximum < i then .high i w.action else .pass := rfl

theorem nextCircuit_eq_find (l : LampSet) (c : Fin 16) :
    nextCircuit l c = (List.finRange 16).find? fun d => l[d].isSome && decide (c < d) := by
  unfold nextCircuit definedCircuits allCircuits
  simp only [List.find?_filter, Bool.decide_and, Bool.decide_eq_true]

theorem nextCircuit_eq_some {l : LampSet} {c d : Fin 16} (hcd : c < d) (hd : l[d].isSome = true)
    (hbetween : ∀ i : Fin 16, c < i → i < d → l[i] = none) : nextCircuit l c = some d := by
  rw [nextCircuit_eq_find]
  refine find_finRange_eq_some (by simp only [hd, hcd, decide_true, Bool.and_self]) fun i hi => ?_
  by_cases hci : c < i
  · simp only [hbetween i hci hi, Option.isSome_none, Bool.false_and]
  · simp only [hci, decide_false, Bool.and_false]

theorem nextCircuit_eq_none {l : LampSet} {c : Fin 16} (h : ∀ i : Fin 16, c < i → l[i] = none) : nextCircuit l c = none := by
  rw [nextCircuit_eq_find]
  refine find_finRange_eq_none fun i => ?_
  by_cases hci : c < i
  · simp only [h i hci, Option.isSome_none, Bool.false_and]
  · simp only [hci, decide_false, Bool.and_false]

/-! ## The outcome of a complete test -/

theorem failedWith_iff (rs : Vector CircuitResult 16) (a : LampAction) :
    failedWith rs a = true ↔ ∃ (c : Fin 16) (i : Nat), rs[c] = .low i a ∨ rs[c] = .high i a := by
  have hfails : ∀ r : CircuitResult, (match r with
      | .low _ x | .high _ x => x == a
      | .pass | .untested | .undefined => false) = true ↔ ∃ i, r = .low i a ∨ r = .high i a := fun r => by
    cases r <;> simp
  simp only [failedWith, List.any_eq_true, Vector.mem_toList_iff, Vector.mem_iff_getElem]
  constructor
  · rintro ⟨r, ⟨c, hc, rfl⟩, hr⟩
    exact ⟨⟨c, hc⟩, (hfails _).mp hr⟩
  · rintro ⟨c, hr⟩
    exact ⟨rs[c], ⟨c.val, c.isLt, rfl⟩, (hfails _).mpr hr⟩

theorem completeOutcome_iff (rs : Vector CircuitResult 16) :
    (completeOutcome rs = .failed ↔ failedWith rs .block = true)
    ∧ (completeOutcome rs = .passedWithNotes ↔ completeOutcome rs ≠ .failed ∧ failedWith rs .note = true)
    ∧ (completeOutcome rs = .passed ↔ completeOutcome rs ≠ .failed ∧ completeOutcome rs ≠ .passedWithNotes) := by
  unfold completeOutcome
  cases failedWith rs .block <;> cases failedWith rs .note <;> simp

/-! ## Ends of a test -/

/-- R111, R119: the engine RELEASING and the result written. -/
def State.testEnded (s : State) (e : EngineNo) (b : BayNo) (o : LampOutcome) (rs : Vector CircuitResult 16) : State :=
  { s with lamp := { s.lamp with
    engines := s.lamp.engines.set e (.releasing b)
    results := s.lamp.results.set b (some ⟨o, 0, some rs⟩) } }

/-- R112, R120: the LAMP notice, the hand-off to a pending clearance, and the release. -/
def handedOver (e : EngineNo) (b : BayNo) (s : State) : State := placeJob (.lampEnd e b) (pendingCompletion b (notifyBay .lamp b s))

theorem release_of_merged {e : EngineNo} {b : BayNo} {m : Store → Store × Effect} {o : LampOutcome} {rs : Vector CircuitResult 16} {s : State}
    (hpost : s.bus.posts[b].silent = false) : startRelease e b (endTest b (mergeInto b m (s.testEnded e b o rs)))
      = handedOver e b (mergeInto b m (s.testEnded e b o rs)) := by
  have hreported : (endTest b (mergeInto b m (s.testEnded e b o rs))).reportedFrom _ := (pendingCompletion_decided b _).reported.trans
    ((notifyBay_decided .lamp b _).reported.trans (mergeInto_reported b m _))
  obtain ⟨hlamp, -, hposts⟩ := hreported.keeps
  refine startRelease_of_responding ?_ ?_
  · rw [State.silent, hposts]
    exact hpost
  · rw [hlamp]
    exact Vector.getElem_set_self e.isLt

theorem completeTest_of_responding {e : EngineNo} {x : RunningTest} {s : State} (hpost : s.bus.posts[x.bay].silent = false) :
    completeTest e x s = handedOver e x.bay (mergeInto x.bay (fun st => st.mergeLamps x.bay x.results)
      (s.testEnded e x.bay (completeOutcome x.results) x.results)) := by
  rw [← release_of_merged hpost]
  rfl

/-! ## Responses to the steps of a test -/

theorem takeStepResponse_of_ok {e : EngineNo} {x : RunningTest} {s : State} (hx : s.lamp.engines[e] = .running x) :
    takeStepResponse e .ok s = setEngine e (.running { x with settling := some x.settle }) s := by
  simp only [takeStepResponse, hx, if_true]

theorem takeReadResponse_of_ok {e : EngineNo} {x : RunningTest} {s : State} (hx : s.lamp.engines[e] = .running x) (i : Nat) :
    takeReadResponse e .ok i s = takeAll (takeReading e x i s) := by
  simp only [takeReadResponse, hx]
  rfl

theorem handSuccess_of_failed_step {e : EngineNo} {x : RunningTest} {s : State} {st : PostStatus} {b : BayNo} {j : Job}
    (hx : s.lamp.engines[e] = .running x) (hst : st ≠ .ok) (hj : j ∈ [.lampStep e b x.circuit, .lampRead e b x.circuit]) :
    handSuccess j st .empty s = takeAll (abortTest e (stepReason st) s) := by
  rcases List.mem_pair.mp hj with rfl | rfl
  · simp only [handSuccess, takeStepResponse, hx]
    exact if_neg hst
  · simp only [handSuccess, takeReadResponse, hx, hst, if_false]

theorem takeReading_of_next {e : EngineNo} {x : RunningTest} {s : State} {i : Nat} {w : Circuit} {c : Fin 16}
    (hw : x.lamps[x.circuit] = some w) (hc : nextCircuit x.lamps x.circuit = some c) (hpost : s.silent x.bay = false) :
    takeReading e x i s = placeJob (.lampStep e x.bay c) (setEngine e (.running { x with
      results := x.results.set x.circuit (judgeCurrent w (min 4000 i))
      settling := none
      circuit := c }) s) := by
  simp only [takeReading, hw, hc]
  exact if_neg (Bool.eq_false_iff.mp hpost)

theorem takeReading_of_last {e : EngineNo} {x : RunningTest} {s : State} {i : Nat} {w : Circuit}
    (hw : x.lamps[x.circuit] = some w) (hc : nextCircuit x.lamps x.circuit = none) : takeReading e x i s =
      completeTest e { x with results := x.results.set x.circuit (judgeCurrent w (min 4000 i)), settling := none } s := by
  simp only [takeReading, hw, hc]

theorem finishRelease_of_releasing {e : EngineNo} {b : BayNo} {s : State} (h : s.lamp.engines[e] = .releasing b) :
    finishRelease e s = takeAll (setEngine e .free s) := by
  simp only [finishRelease, h]
  rfl

/-- Settles O39: the settle timer, the responses OK with the next circuit or the end, the responses that abort, and the LAMP END. -/
theorem lampSteps : Obligations.LampSteps := by
  unfold Obligations.LampSteps
  intro e x order s hheld b freed set flies takes ended handedOn
  have htakes : ∀ (j : Job) (st : PostStatus) (p : PostPayload) (t : State), flies j → j.bay = some b →
      handSuccess j st p freed = t → takes j st p t := fun j st p t ⟨retry, timer, hwire⟩ hb ht r hr => by
    rw [exec_postResponse_of_answersTo hheld hwire hb hr]
    exact congrArg (Host.Outcome.next ∘ arbitrate) ht
  have hsilent : s.bus.posts[b].silent = false → freed.silent b = false := silent_clearFailures
  refine ⟨fun hx => ⟨fun hsettled => ?_, fun ms hms hpost => ?_, fun hflies => ?_, fun current w hflies hw hpost => ?_,
    fun st reason j hst hj hflies hpost => ?_⟩, fun st hx hflies => ?_, fun h => ?_⟩
  · rw [exec_settleTimerExpiry hheld]
    simp only [settleExpiry, hx, hsettled]
  · rw [exec_settleTimerExpiry hheld]
    simp only [settleExpiry, hx, hms]
    exact congrArg (fun t => Host.Outcome.next (arbitrate (takeAll t))) (if_neg (Bool.eq_false_iff.mp hpost))
  · exact htakes _ _ _ _ hflies rfl (takeStepResponse_of_ok (s := freed) hx)
  · intro i judged rs
    have hread : ∀ t, takeReading e x current.toNat freed = t → takes (.lampRead e b x.circuit) .ok (.current current) (takeAll t) :=
      fun t ht => htakes _ _ _ _ hflies rfl ((takeReadResponse_of_ok (s := freed) hx _).trans (congrArg takeAll ht))
    refine ⟨fun c hc hsome hbetween => hread _ ?_, fun hlast => ⟨completeOutcome rs, hread _ ?_, ?_⟩⟩
    · exact takeReading_of_next hw (nextCircuit_eq_some hc hsome hbetween) (hsilent hpost)
    · rw [takeReading_of_last hw (nextCircuit_eq_none hlast)]
      exact completeTest_of_responding (hsilent hpost)
    · obtain ⟨hfailed, hnotes, hpassed⟩ := completeOutcome_iff rs
      exact ⟨hfailed.trans (failedWith_iff rs _), hnotes.trans (and_congr_right fun _ => failedWith_iff rs _), hpassed⟩
  · intro stopped
    have hne : st ≠ .ok := by
      rcases List.mem_pair.mp hst with h | h <;> simp_all
    have hreason : stepReason st = reason ∧ reason ≠ .postSilent := by
      rcases List.mem_pair.mp hst with h | h <;> simp_all [stepReason]
    have hbay : j.bay = some b := by
      rcases List.mem_pair.mp hj with rfl | rfl <;> rfl
    refine htakes _ _ _ _ hflies hbay ((handSuccess_of_failed_step (s := freed) hx hne hj).trans (congrArg takeAll ?_))
    rw [hreason.1]
    exact abortTest_of_responding (s := freed) hx rfl hreason.2 (hsilent hpost)
  · exact htakes _ _ _ _ hflies rfl (finishRelease_of_releasing (s := freed) hx)
  · rw [exec_settleTimerExpiry hheld, settleExpiry_of_not_running h]

end Sys2Proof.Machine

/-! PROOF. The defect store: findings one by one and in a list, the merges of reads and tests, a POST finding, and the reports of a write. -/

namespace Sys2Proof.Machine

/-! ## One finding -/

theorem finding_keys_iff (f : Finding) (d : Defect) : f.keys d = true ↔ d.source = f.source ∧ d.code = f.code := by simp [Finding.keys]

theorem applyFinding_of_found {st : Store} {b : BayNo} {f : Finding} {d : Defect} (hd : st.lists[b].find? f.keys = some d) :
    st.applyFinding b f = (st.updateWhere b f.keys f.updated, { Effect.none with
      changed := (f.updated d).action != d.action || (f.updated d).present != d.present
      applied := true
      blocks := addsBlock d (f.updated d) }) := by
  simp only [Store.applyFinding, hd]

theorem applyFinding_of_not_created {st : Store} {b : BayNo} {f : Finding} (h : st.lists[b].find? f.keys = none) (hf : f.created = none) :
    st.applyFinding b f = (st, Effect.none) := by
  simp only [Store.applyFinding, h, hf]

theorem applyFinding_of_created {st st' : Store} {b : BayNo} {f : Finding} {n : NewDefect} (h : st.lists[b].find? f.keys = none)
    (hf : f.created = some n) (hc : st.create b n = some st') : st.applyFinding b f = (st', { Effect.none with
      changed := true
      applied := true
      blocks := n.action == .block
      inhibits := n.action == .inhibit }) := by
  simp only [Store.applyFinding, h, hf, hc]

theorem applyFinding_of_lost {st : Store} {b : BayNo} {f : Finding} {n : NewDefect} (h : st.lists[b].find? f.keys = none)
    (hf : f.created = some n) (hc : st.create b n = none) :
    st.applyFinding b f = (st.lose b f.source, { Effect.none with lost := true }) := by
  simp only [Store.applyFinding, h, hf, hc]

theorem updateWhere_eq (st : Store) (b : BayNo) (f : Finding) : st.updateWhere b f.keys f.updated = { st with
    lists := st.lists.set b (st.lists[b].map fun d => if d.source = f.source ∧ d.code = f.code then f.updated d else d) } := by
  have hmap : ∀ d, (if f.keys d = true then f.updated d else d) = if d.source = f.source ∧ d.code = f.code then f.updated d else d :=
    fun d => if_congr (finding_keys_iff f d) rfl rfl
  simp only [Store.updateWhere, modifyAt, hmap]

theorem standing_iff (x : DefectState) : x.standing = true ↔ x ∈ [.opened, .acknowledged] := by cases x <;> simp [DefectState.standing]

theorem addsBlock_iff (old new : Defect) :
    addsBlock old new = true ↔ new.action = .block ∧ old.action ≠ .block ∧ old.state ∈ [.opened, .acknowledged] := by
  rw [addsBlock, Bool.and_eq_true, Bool.and_eq_true, standing_iff]
  simp [and_assoc]

theorem lose_eq (st : Store) (b : BayNo) (src : Source) : st.lose b src = { st with
    starvation := min 65535 (st.starvation + 1), marks := st.marks.set b (st.marks[b].put src true) } := rfl

/-- R140, R141: what one finding can do: an entry updated, nothing, an entry created, or the finding lost. -/
theorem applyFinding_cases (st : Store) (b : BayNo) (f : Finding) :
    (∃ d ∈ st.lists[b], f.keys d = true ∧ (st.applyFinding b f).1 = st.updateWhere b f.keys f.updated
      ∧ (st.applyFinding b f).2.applied = true ∧ (st.applyFinding b f).2.lost = false)
    ∨ (∀ d ∈ st.lists[b], f.keys d = false)
      ∧ (st.applyFinding b f = (st, Effect.none)
        ∨ ∃ n, f.created = some n
          ∧ ((∃ st', st.create b n = some st' ∧ (st.applyFinding b f).1 = st'
              ∧ (st.applyFinding b f).2.applied = true ∧ (st.applyFinding b f).2.lost = false)
            ∨ st.applyFinding b f = (st.lose b f.source, { Effect.none with lost := true }))) := by
  cases hd : st.lists[b].find? f.keys with
  | some d =>
    refine .inl ⟨d, List.mem_of_find?_eq_some hd, List.find?_some hd, ?_⟩
    rw [applyFinding_of_found hd]
    exact ⟨rfl, rfl, rfl⟩
  | none =>
    refine .inr ⟨fun d hd' => by simpa using List.find?_eq_none.mp hd d hd', ?_⟩
    cases hf : f.created with
    | none => exact .inl (applyFinding_of_not_created hd hf)
    | some n =>
      refine .inr ⟨n, rfl, ?_⟩
      cases hc : st.create b n with
      | some st' =>
        rw [applyFinding_of_created hd hf hc]
        exact .inl ⟨st', rfl, rfl, rfl, rfl⟩
      | none => exact .inr (applyFinding_of_lost hd hf hc)

theorem applyFinding_not_marked (st : Store) (b : BayNo) (f : Finding) : (st.applyFinding b f).2.marked = false := by
  unfold Store.applyFinding
  split
  · rfl
  · split
    · rfl
    · split <;> rfl

theorem create_marks {st st' : Store} {b : BayNo} {n : NewDefect} (h : st.create b n = some st') :
    st'.marks = st.marks ∧ st'.starvation = st.starvation := by
  unfold Store.create at h
  split at h
  · split at h
    · exact absurd h (by simp)
    · obtain rfl := Option.some.inj h
      exact ⟨rfl, rfl⟩
  · exact absurd h (by simp)

/-- A finding that is not lost leaves the marks and the starvation count. -/
theorem applyFinding_marks (st : Store) (b : BayNo) (f : Finding) :
    (st.applyFinding b f).2.lost = false ∧ (st.applyFinding b f).1.marks = st.marks ∧ (st.applyFinding b f).1.starvation = st.starvation
    ∨ (st.applyFinding b f).2.lost = true ∧ (st.applyFinding b f).1 = st.lose b f.source := by
  rcases applyFinding_cases st b f with ⟨d, -, -, h, -, hlost⟩ | ⟨-, h | ⟨n, -, ⟨st', hc, h, -, hlost⟩ | h⟩⟩
  · exact .inl ⟨hlost, by rw [h]; rfl, by rw [h]; rfl⟩
  · exact .inl (by rw [h]; exact ⟨rfl, rfl, rfl⟩)
  · obtain ⟨hmarks, hstarved⟩ := create_marks hc
    exact .inl ⟨hlost, by rw [h, hmarks], by rw [h, hstarved]⟩
  · exact .inr (by rw [h]; exact ⟨rfl, rfl⟩)

/-! ## A list of findings -/

theorem Effect.none_or (e : Effect) : Effect.none.or e = e := by simp [Effect.none, Effect.or]

theorem Effect.or_none (e : Effect) : e.or Effect.none = e := by simp [Effect.none, Effect.or]

theorem Effect.or_assoc (a b c : Effect) : (a.or b).or c = a.or (b.or c) := by simp [Effect.or, Bool.or_assoc]

/-- One finding told to a store that has the effects of the findings before it. -/
def Store.tell (b : BayNo) (x : Store × Effect) (f : Finding) : Store × Effect :=
  ((x.1.applyFinding b f).1, x.2.or (x.1.applyFinding b f).2)

theorem foldl_tell (b : BayNo) (fs : List Finding) (st : Store) (e : Effect) :
    fs.foldl (Store.tell b) (st, e) = ((Store.applyAll b fs st).1, e.or (Store.applyAll b fs st).2) := by
  induction fs generalizing st e with
  | nil => simp [Store.applyAll, Effect.or_none]
  | cons f fs ih => simp [Store.tell, Store.applyAll, ih, Effect.or_assoc]

theorem applyAll_eq_foldl (b : BayNo) (fs : List Finding) (st : Store) :
    Store.applyAll b fs st = fs.foldl (Store.tell b) (st, Effect.none) := by
  rw [foldl_tell, Effect.none_or]

theorem applyAll_not_marked (b : BayNo) (fs : List Finding) (st : Store) : (Store.applyAll b fs st).2.marked = false := by
  induction fs generalizing st with
  | nil => rfl
  | cons f fs ih => simp [Store.applyAll, Effect.or, ih, applyFinding_not_marked]

theorem applyAll_marks_of_not_lost {b : BayNo} {fs : List Finding} {st : Store} (h : (Store.applyAll b fs st).2.lost = false) :
    (Store.applyAll b fs st).1.marks = st.marks := by
  induction fs generalizing st with
  | nil => rfl
  | cons f fs ih =>
    obtain ⟨hf, hfs⟩ := Bool.or_eq_false_iff.mp h
    rcases applyFinding_marks st b f with ⟨-, hmarks, -⟩ | ⟨hlost, -⟩
    · exact (ih hfs).trans hmarks
    · exact absurd (hlost.symm.trans hf) (by decide)

theorem put_get (m : Marks) {src : Source} (h : src ≠ .manual) (v : Bool) : (m.put src v).get src = v := by
  cases src <;> first | rfl | exact absurd rfl h

theorem lose_mark (st : Store) (b : BayNo) {src : Source} (h : src ≠ .manual) : (st.lose b src).marks[b].get src = true := by
  have hset : (st.lose b src).marks[b] = st.marks[b].put src true := Vector.getElem_set_self b.isLt
  rw [hset, put_get _ h]

section Sources

variable {b : BayNo} {src : Source} (hsrc : src ≠ .manual)
include hsrc

/-- R141, R142: the findings of a source leave its mark SET, and one that is lost sets it. -/
theorem applyAll_mark {fs : List Finding} {st : Store} (hfs : ∀ f ∈ fs, f.source = src)
    (h : st.marks[b].get src = true ∨ (Store.applyAll b fs st).2.lost = true) : (Store.applyAll b fs st).1.marks[b].get src = true := by
  induction fs generalizing st with
  | nil => exact h.resolve_right (by simp [Store.applyAll, Effect.none])
  | cons f fs ih =>
    refine ih (fun g hg => hfs g (List.mem_cons_of_mem f hg)) ?_
    rcases applyFinding_marks st b f with ⟨hkept, hmarks, -⟩ | ⟨-, hlose⟩
    · rw [hmarks]
      refine h.imp_right fun h => ?_
      have hor : ((st.applyFinding b f).2.lost || (Store.applyAll b fs (st.applyFinding b f).1).2.lost) = true := h
      rwa [hkept, Bool.false_or] at hor
    · rw [hlose, hfs f List.mem_cons_self]
      exact .inl (lose_mark st b hsrc)

end Sources

/-- R141: the starvation count says whether a finding was lost, while it is below its limit. -/
theorem applyAll_starvation {b : BayNo} {fs : List Finding} {st : Store} (h : st.starvation ≤ 65535) :
    (Store.applyAll b fs st).1.starvation ≤ 65535 ∧ st.starvation ≤ (Store.applyAll b fs st).1.starvation
    ∧ ((Store.applyAll b fs st).2.lost = false → (Store.applyAll b fs st).1.starvation = st.starvation)
    ∧ ((Store.applyAll b fs st).2.lost = true → st.starvation < 65535 → st.starvation < (Store.applyAll b fs st).1.starvation) := by
  induction fs generalizing st with
  | nil => exact ⟨h, le_rfl, fun _ => rfl, fun h => absurd h (by simp [Store.applyAll, Effect.none])⟩
  | cons f fs ih =>
    have hlost : (Store.applyAll b (f :: fs) st).2.lost
        = ((st.applyFinding b f).2.lost || (Store.applyAll b fs (st.applyFinding b f).1).2.lost) := rfl
    have hstore : (Store.applyAll b (f :: fs) st).1 = (Store.applyAll b fs (st.applyFinding b f).1).1 := rfl
    rw [hlost, hstore]
    rcases applyFinding_marks st b f with ⟨hkept, -, hsame⟩ | ⟨hlose, hst⟩
    · obtain ⟨hle, hgrows, hstays, hrises⟩ := ih (hsame ▸ h)
      rw [hsame] at hgrows hstays hrises
      rw [hkept, Bool.false_or]
      exact ⟨hle, hgrows, hstays, hrises⟩
    · have hcount : (st.applyFinding b f).1.starvation = min 65535 (st.starvation + 1) := by
        rw [hst]
        rfl
      obtain ⟨hle, hgrows, -, -⟩ := ih (st := (st.applyFinding b f).1) (by omega)
      rw [hlose, Bool.true_or]
      exact ⟨hle, by omega, fun h => absurd h (by decide), fun _ hlt => by omega⟩

/-! ## The mark after a report -/

theorem settleMark_of_lost {b : BayNo} {src : Source} {x : Store × Effect} (h : x.2.lost = true) : Store.settleMark b src x = x := if_pos h

theorem settleMark_of_kept {b : BayNo} {src : Source} {x : Store × Effect} (h : x.2.lost = false) (hm : x.2.marked = false) :
    Store.settleMark b src x = ({ x.1 with marks := x.1.marks.set b (x.1.marks[b].put src false) },
      { x.2 with marked := x.1.marks[b].get src }) := by
  obtain ⟨st, changed, applied, lost, marked, blocks, inhibits⟩ := x
  simp only at h hm
  subst h hm
  simp [Store.settleMark, Store.clearMark, Effect.or, Effect.none, modifyAt]

theorem settleMark_lost (b : BayNo) (src : Source) (x : Store × Effect) : (Store.settleMark b src x).2.lost = x.2.lost := by
  unfold Store.settleMark
  split
  · rfl
  · simp [Store.clearMark, Effect.or, Effect.none]

theorem settleMark_lists (b : BayNo) (src : Source) (x : Store × Effect) : (Store.settleMark b src x).1.lists = x.1.lists := by
  unfold Store.settleMark
  split <;> rfl

/-! ## The merge of a read -/

/-- The new faults in the order in which they are created. -/
def newFaults (L : List Defect) (rs : List (Gathered × Action)) : List (Gathered × Action) :=
  sortBy newFaultBefore (rs.filter fun x => !L.any fun d => d.source == .fault && d.code == x.1.code)

theorem newFaultBefore_iff (x y : Gathered × Action) :
    newFaultBefore x y = true ↔ x.2.rank < y.2.rank ∨ x.2.rank = y.2.rank ∧ x.1.code < y.1.code := by
  simp [newFaultBefore]

theorem rank_injective (a b : Action) (h : a.rank = b.rank) : a = b := by
  cases a <;> cases b <;> simp_all [Action.rank]

theorem rank_eq_idxOf (a : Action) : a.rank = [Action.block, .inhibit, .note].idxOf a := by cases a <;> decide

theorem newFaults_pairwise (L : List Defect) (rs : List (Gathered × Action)) :
    (newFaults L rs).Pairwise fun x y => x.2.rank < y.2.rank ∨ (x.2 = y.2 ∧ x.1.code ≤ y.1.code) := by
  have hfalse : ∀ x y, newFaultBefore x y = false ↔ ¬ (x.2.rank < y.2.rank ∨ x.2.rank = y.2.rank ∧ x.1.code < y.1.code) := fun x y => by
    rw [← newFaultBefore_iff, Bool.eq_false_iff]
  refine (sortBy_pairwise (before := newFaultBefore) (fun x y h => ?_) (fun x y z h h' => ?_) _).imp fun {x y} h => ?_
  · rw [newFaultBefore_iff] at h
    rw [hfalse]
    omega
  · rw [hfalse] at h h' ⊢
    omega
  · rw [hfalse] at h
    by_cases hrank : x.2.rank = y.2.rank
    · exact .inr ⟨rank_injective _ _ hrank, by omega⟩
    · exact .inl (by omega)

/-- The FAULT entries that a complete read did not see. -/
def unseenFaults (L : List Defect) (rs : List (Gathered × Action)) : List Finding :=
  (L.filter fun d => d.source == .fault && !rs.any fun x => x.1.code == d.code).map fun d => .faultNotSeen d.code

/-- The faults seen that have an entry already. -/
def knownFaults (L : List Defect) (rs : List (Gathered × Action)) : List Finding :=
  (rs.filter fun x => L.any fun d => d.source == .fault && d.code == x.1.code).map fun x => .fault x.1 x.2

theorem mergeFaults_complete (st : Store) (b : BayNo) (rs : List (Gathered × Action)) : st.mergeFaults b true rs =
    Store.settleMark b .fault (Store.applyAll b (unseenFaults st.lists[b] rs ++ knownFaults st.lists[b] rs
      ++ (newFaults st.lists[b] rs).map fun x => .fault x.1 x.2) st) := rfl

theorem mergeFaults_cut (st : Store) (b : BayNo) (rs : List (Gathered × Action)) : st.mergeFaults b false rs =
    Store.applyAll b (knownFaults st.lists[b] rs ++ (newFaults st.lists[b] rs).map fun x => .fault x.1 x.2) st := rfl

/-- The findings of a read are of source FAULT, and each says what the read says of its code. -/
def Finding.agrees (f : Finding) (rs : List (Gathered × Action)) : Prop :=
  (∃ r a, f = .fault r a ∧ ∃ x ∈ rs, x.1.code = r.code) ∨ ∃ c, f = .faultNotSeen c ∧ ∀ x ∈ rs, x.1.code ≠ c

theorem agrees_of_mem {L : List Defect} {rs : List (Gathered × Action)} {f : Finding}
    (h : f ∈ unseenFaults L rs ++ knownFaults L rs ++ (newFaults L rs).map fun x => .fault x.1 x.2) : f.agrees rs := by
  rcases List.mem_append.mp h with h | h
  · rcases List.mem_append.mp h with h | h
    · obtain ⟨d, hd, rfl⟩ := List.mem_map.mp h
      refine .inr ⟨d.code, rfl, fun x hx => ?_⟩
      have hunseen := (List.mem_filter.mp hd).2
      simp only [Bool.and_eq_true, Bool.not_eq_true', List.any_eq_false, beq_iff_eq] at hunseen
      exact hunseen.2 x hx
    · obtain ⟨x, hx, rfl⟩ := List.mem_map.mp h
      exact .inl ⟨x.1, x.2, rfl, x, (List.mem_filter.mp hx).1, rfl⟩
  · obtain ⟨x, hx, rfl⟩ := List.mem_map.mp h
    exact .inl ⟨x.1, x.2, rfl, x, (List.mem_filter.mp ((sortBy_perm _ _).subset hx)).1, rfl⟩

theorem agrees_source {f : Finding} {rs : List (Gathered × Action)} (h : f.agrees rs) : f.source = .fault := by
  rcases h with ⟨r, a, rfl, -⟩ | ⟨c, rfl, -⟩ <;> rfl

theorem agrees_updated {f : Finding} {rs : List (Gathered × Action)} (h : f.agrees rs) (d : Defect) :
    (f.updated d).present = some true ↔ ∃ x ∈ rs, x.1.code = f.code := by
  rcases h with ⟨r, a, rfl, hr⟩ | ⟨c, rfl, hc⟩
  · exact ⟨fun _ => hr, fun _ => rfl⟩
  · refine ⟨fun h => absurd h (by simp [Finding.updated]), fun ⟨x, hx, hxc⟩ => absurd hxc (hc x hx)⟩

theorem agrees_created {f : Finding} {rs : List (Gathered × Action)} (h : f.agrees rs) {n : NewDefect} (hn : f.created = some n) :
    n.present = some true ∧ ∃ x ∈ rs, x.1.code = n.code := by
  rcases h with ⟨r, a, rfl, hr⟩ | ⟨c, rfl, -⟩
  · obtain rfl := Option.some.inj hn
    exact ⟨rfl, hr⟩
  · exact absurd hn (by simp [Finding.created])

/-- The FAULT entries of the bay whose code is not among the given ones show as present what the read saw. -/
def Store.shows (st : Store) (b : BayNo) (rs : List (Gathered × Action)) (codes : List Nat) : Prop :=
  ∀ d ∈ st.lists[b], d.source = .fault → d.code ∈ codes ∨ (d.present = some true ↔ ∃ x ∈ rs, x.1.code = d.code)

theorem shows_applyFinding {st : Store} {b : BayNo} {rs : List (Gathered × Action)} {f : Finding} {codes : List Nat} (hf : f.agrees rs)
    (h : st.shows b rs (f.code :: codes)) : (st.applyFinding b f).1.shows b rs codes := by
  have hother : ∀ d ∈ st.lists[b], d.source = .fault → ¬ f.keys d = true →
      d.code ∈ codes ∨ (d.present = some true ↔ ∃ x ∈ rs, x.1.code = d.code) := fun d hd hsource hkeys => by
    rcases h d hd hsource with hcode | hshows
    · rcases List.mem_cons.mp hcode with hcode | hcode
      · exact absurd ((finding_keys_iff f d).mpr ⟨hsource.trans (agrees_source hf).symm, hcode⟩) hkeys
      · exact .inl hcode
    · exact .inr hshows
  have hsame : (∀ d ∈ st.lists[b], f.keys d = false) → st.shows b rs codes := fun hnone d hd hsource =>
    hother d hd hsource (by simp [hnone d hd])
  rcases applyFinding_cases st b f with ⟨-, -, -, heq, -, -⟩ | ⟨hnone, heq | ⟨n, hn, ⟨st', hc, heq, -, -⟩ | heq⟩⟩
  · rw [heq, updateWhere_eq]
    intro d hd hsource
    have hlist : d ∈ st.lists[b].map fun d => if d.source = f.source ∧ d.code = f.code then f.updated d else d := by
      rwa [show ({ st with lists := st.lists.set b _ } : Store).lists[b] = _ from Vector.getElem_set_self b.isLt] at hd
    obtain ⟨y, hy, rfl⟩ := List.mem_map.mp hlist
    split_ifs at hsource ⊢ with hkeys
    · refine .inr ?_
      rw [(f.updated_keeps y).2.2, hkeys.2]
      exact agrees_updated hf y
    · exact hother y hy hsource (mt (finding_keys_iff f y).mp hkeys)
  · rw [heq]
    exact hsame hnone
  · rw [heq]
    unfold Store.create at hc
    split at hc
    · split at hc
      · exact absurd hc (by simp)
      · obtain rfl := Option.some.inj hc
        intro d hd hsource
        rw [show ({ st with lists := modifyAt st.lists b _ } : Store).lists[b] = _ from Vector.getElem_set_self b.isLt] at hd
        rcases List.mem_append.mp hd with hd | hd
        · exact hsame hnone d hd hsource
        · obtain rfl := List.mem_singleton.mp hd
          obtain ⟨hpresent, hseen⟩ := agrees_created hf hn
          exact .inr ⟨fun _ => hseen, fun _ => hpresent⟩
    · exact absurd hc (by simp)
  · rw [heq]
    exact hsame hnone

theorem shows_applyAll {b : BayNo} {rs : List (Gathered × Action)} {fs : List Finding} {st : Store} (hfs : ∀ f ∈ fs, f.agrees rs)
    (h : st.shows b rs (fs.map Finding.code)) : (Store.applyAll b fs st).1.shows b rs [] := by
  induction fs generalizing st with
  | nil => exact h
  | cons f fs ih => exact ih (fun g hg => hfs g (List.mem_cons_of_mem f hg)) (shows_applyFinding (hfs f List.mem_cons_self) h)

/-- R133: every FAULT entry is told about, as seen or as not seen. -/
theorem shows_before_merge (st : Store) (b : BayNo) (rs : List (Gathered × Action)) : st.shows b rs
    ((unseenFaults st.lists[b] rs ++ knownFaults st.lists[b] rs ++ (newFaults st.lists[b] rs).map fun x => Finding.fault x.1 x.2).map
      Finding.code) := by
  intro d hd hsource
  refine .inl ?_
  rw [List.map_append, List.map_append, List.mem_append, List.mem_append]
  refine .inl ?_
  by_cases hseen : ∃ x ∈ rs, x.1.code = d.code
  · obtain ⟨x, hx, hxd⟩ := hseen
    refine .inr (List.mem_map.mpr ⟨.fault x.1 x.2, List.mem_map.mpr ⟨x, List.mem_filter.mpr ⟨hx, ?_⟩, rfl⟩, hxd⟩)
    exact List.any_eq_true.mpr ⟨d, hd, by simp [hsource, hxd]⟩
  · refine .inl (List.mem_map.mpr ⟨.faultNotSeen d.code, List.mem_map.mpr ⟨d, List.mem_filter.mpr ⟨hd, ?_⟩, rfl⟩, rfl⟩)
    simp only [Bool.and_eq_true, beq_iff_eq, hsource, true_and, Bool.not_eq_true', List.any_eq_false]
    exact fun x hx hxd => hseen ⟨x, hx, hxd⟩

/-! ## The merge of a test -/

/-- The entry of a circuit of the given ones that passed. -/
def passedIn (cs : Vector CircuitResult 16) (xs : List (Fin 16)) (d : Defect) : Bool :=
  d.source == .lamp && xs.any fun c => d.code == c.val && cs[c] == .pass

/-- The entries of one circuit. -/
def ofCircuit (c : Fin 16) (d : Defect) : Bool := d.source == .lamp && d.code == c.val

theorem passedIn_cons (cs : Vector CircuitResult 16) (c : Fin 16) (xs : List (Fin 16)) (d : Defect) :
    passedIn cs (c :: xs) d = (ofCircuit c d && cs[c] == .pass || passedIn cs xs d) := by
  simp [passedIn, ofCircuit, Bool.and_or_distrib_left, Bool.and_assoc]

theorem removePassed_of_pass {cs : Vector CircuitResult 16} {c : Fin 16} (h : cs[c] = .pass) (b : BayNo) (st : Store) :
    Store.removePassed cs b st c = { st with
      free := st.free ++ (st.lists[b].filter (ofCircuit c)).map (·.slot)
      lists := st.lists.set b (st.lists[b].filter fun d => !ofCircuit c d) } := if_pos h

theorem removePassed_of_not_pass {cs : Vector CircuitResult 16} {c : Fin 16} (h : cs[c] ≠ .pass) (b : BayNo) (st : Store) :
    Store.removePassed cs b st c = st := if_neg h

/-- R118, step 1: the entries of passing circuits leave the list, and their slots join the free list circuit by circuit. -/
theorem foldl_removePassed (cs : Vector CircuitResult 16) (b : BayNo) {xs : List (Fin 16)} (hn : xs.Nodup) (st : Store) :
    xs.foldl (Store.removePassed cs b) st = { st with
      free := st.free ++ xs.flatMap fun c => if cs[c] = .pass then (st.lists[b].filter (ofCircuit c)).map (·.slot) else []
      lists := st.lists.set b (st.lists[b].filter fun d => !passedIn cs xs d) } := by
  induction xs generalizing st with
  | nil => simp [passedIn]
  | cons c xs ih =>
    obtain ⟨hc, hn⟩ := List.nodup_cons.mp hn
    rw [List.foldl_cons]
    by_cases hpass : cs[c] = .pass
    · rw [removePassed_of_pass hpass, ih hn]
      have hleft : (st.lists.set b (st.lists[b].filter fun d => !ofCircuit c d))[b] = st.lists[b].filter fun d => !ofCircuit c d :=
        Vector.getElem_set_self b.isLt
      have hslots : ∀ x ∈ xs, (st.lists[b].filter fun d => !ofCircuit c d).filter (ofCircuit x) = st.lists[b].filter (ofCircuit x) := fun x hx => by
        rw [List.filter_filter]
        refine List.filter_congr fun d _ => ?_
        have hne : c.val ≠ x.val := fun h => hc (Fin.ext h ▸ hx)
        by_cases hd : d.code = x.val
        · simp [ofCircuit, hd, Ne.symm hne]
        · simp [ofCircuit, hd]
      have hfree : (xs.flatMap fun x => if cs[x] = .pass then ((st.lists[b].filter fun d => !ofCircuit c d).filter (ofCircuit x)).map (·.slot) else [])
          = xs.flatMap fun x => if cs[x] = .pass then (st.lists[b].filter (ofCircuit x)).map (·.slot) else [] :=
        List.flatMap_congr fun x hx => by rw [hslots x hx]
      have hlist : (st.lists[b].filter fun d => !ofCircuit c d).filter (fun d => !passedIn cs xs d)
          = st.lists[b].filter fun d => !passedIn cs (c :: xs) d := by
        rw [List.filter_filter]
        refine List.filter_congr fun d _ => ?_
        rw [passedIn_cons, hpass]
        simp [Bool.and_comm]
      rw [hleft, hfree, hlist, Vector.set_set, List.flatMap_cons, if_pos hpass, List.append_assoc]
    · have hlist : (st.lists[b].filter fun d => !passedIn cs (c :: xs) d) = st.lists[b].filter fun d => !passedIn cs xs d := by
        refine List.filter_congr fun d _ => ?_
        rw [passedIn_cons, beq_false_of_ne hpass]
        simp
      rw [removePassed_of_not_pass hpass, ih hn, hlist, List.flatMap_cons, if_neg hpass, List.nil_append]

theorem lampAbsent_eq (cs : Vector CircuitResult 16) : lampAbsent cs =
    (List.finRange 16).filterMap fun c => if cs[c] = .undefined then some (.lampUndefined c) else none := by
  refine List.filterMap_congr fun c _ => ?_
  cases cs[c] <;> simp

theorem lampFindings_source (cs : Vector CircuitResult 16) : ∀ f ∈ lampAbsent cs ++ lampFailures cs, f.source = .lamp := by
  intro f hf
  rcases List.mem_append.mp hf with hf | hf
  · rw [lampAbsent_eq] at hf
    obtain ⟨c, -, hc⟩ := List.mem_filterMap.mp hf
    split_ifs at hc
    obtain rfl := Option.some.inj hc
    rfl
  · obtain ⟨c, -, hc⟩ := List.mem_filterMap.mp hf
    split at hc
    · obtain rfl := Option.some.inj hc
      rfl
    · obtain rfl := Option.some.inj hc
      rfl
    all_goals exact absurd hc (by simp)

theorem filter_length_lt_eq_any (l : List Defect) (p : Defect → Bool) : decide ((l.filter fun d => !p d).length < l.length) = l.any p := by
  rw [Bool.eq_iff_iff, decide_eq_true_eq, List.length_filter_lt_length_iff_exists, List.any_eq_true]
  simp

/-! ## The store of one finding -/

theorem find_keys_eq_none {st : Store} {b : BayNo} {f : Finding} (h : ∀ d ∈ st.lists[b], ¬ (d.source = f.source ∧ d.code = f.code)) :
    st.lists[b].find? f.keys = none := by
  rw [List.find?_eq_none]
  exact fun d hd => mt (finding_keys_iff f d).mp (h d hd)

/-- R140 to R142: an update, an entry created, or a loss. -/
theorem applyFinding_spec (st : Store) (b : BayNo) (f : Finding) :
    ((∃ d ∈ st.lists[b], d.source = f.source ∧ d.code = f.code) → (st.applyFinding b f).1 = { st with
      lists := st.lists.set b (st.lists[b].map fun d => if d.source = f.source ∧ d.code = f.code then f.updated d else d) })
    ∧ (∀ d, st.lists[b].find? f.keys = some d →
      ((st.applyFinding b f).2.changed = true ↔ (f.updated d).action ≠ d.action ∨ (f.updated d).present ≠ d.present)
      ∧ ((st.applyFinding b f).2.blocks = true ↔ (f.updated d).action = .block ∧ d.action ≠ .block ∧ d.state ∈ [.opened, .acknowledged])
      ∧ (st.applyFinding b f).2.applied = true ∧ (st.applyFinding b f).2.lost = false ∧ (st.applyFinding b f).2.marked = false
      ∧ (st.applyFinding b f).2.inhibits = false) := by
  refine ⟨fun ⟨d, hd, hkeys⟩ => ?_, fun d hd => ?_⟩
  · have hsome : (st.lists[b].find? f.keys).isSome = true := List.find?_isSome.mpr ⟨d, hd, (finding_keys_iff f d).mpr hkeys⟩
    obtain ⟨x, hx⟩ := Option.isSome_iff_exists.mp hsome
    rw [applyFinding_of_found hx]
    exact updateWhere_eq st b f
  · rw [applyFinding_of_found hd]
    refine ⟨by simp, addsBlock_iff d (f.updated d), rfl, rfl, rfl, rfl⟩

/-- R140: the findings that only say that a cause has gone. -/
theorem finding_gone (c : Fin 16) (code : Nat) (d : Defect) :
    ∀ f ∈ [Finding.faultNotSeen code, .lampUndefined c, .currentEnded], f.created = none ∧ f.updated d = { d with present := some false } := by
  intro f hf
  simp only [List.mem_cons, List.not_mem_nil, or_false] at hf
  rcases hf with rfl | rfl | rfl <;> exact ⟨rfl, rfl⟩

/-- A finding applied to an entry is not lost. -/
theorem applyFinding_applied {st : Store} {b : BayNo} {f : Finding} (h : (st.applyFinding b f).2.applied = true) :
    (st.applyFinding b f).2.lost = false := by
  rcases applyFinding_cases st b f with ⟨-, -, -, -, -, hkept⟩ | ⟨-, heq | ⟨-, -, ⟨-, -, -, -, hkept⟩ | heq⟩⟩
  · exact hkept
  · rw [heq]
    rfl
  · exact hkept
  · rw [heq] at h
    exact absurd h (by simp [Effect.none])

/-- R142: what a complete report of findings leaves of the mark of its source. -/
theorem settleMark_applyAll {b : BayNo} {src : Source} {fs : List Finding} {st : Store} {e : Effect} (hm : e.marked = false)
    (hmarks : (Store.applyAll b fs st).2.lost = false → (Store.applyAll b fs st).1.marks = st.marks) :
    ((fs.foldl (Store.tell b) (st, e)).2.lost = true → Store.settleMark b src (fs.foldl (Store.tell b) (st, e)) = fs.foldl (Store.tell b) (st, e))
    ∧ ((fs.foldl (Store.tell b) (st, e)).2.lost = false → Store.settleMark b src (fs.foldl (Store.tell b) (st, e))
      = ({ (fs.foldl (Store.tell b) (st, e)).1 with marks := st.marks.set b (st.marks[b].put src false) },
        { (fs.foldl (Store.tell b) (st, e)).2 with marked := st.marks[b].get src })) := by
  refine ⟨settleMark_of_lost, fun hlost => ?_⟩
  have hmarked : (fs.foldl (Store.tell b) (st, e)).2.marked = false := by
    rw [foldl_tell]
    exact Bool.or_eq_false_iff.mpr ⟨hm, applyAll_not_marked b fs st⟩
  rw [settleMark_of_kept hlost hmarked]
  have hkept : (fs.foldl (Store.tell b) (st, e)).1.marks = st.marks := by
    rw [foldl_tell] at hlost ⊢
    exact hmarks (Bool.or_eq_false_iff.mp hlost).2
  rw [hkept]

/-- R154: a write's notice, the loss of eligibility and the report of a cause of blocking. -/
theorem reportWrite_eq (b : BayNo) (e : Effect) (notable : Bool) (s : State) : reportWrite b e notable s =
    (let u := if notable = true then notifyBay .defect b s else s
    let u := if e.inhibits = true then leaveOnSet b u else u
    if e.blocks = true ∨ e.lost = true then reportToClearance b u else u) :=
  if_congr (Bool.or_eq_true _ _ ▸ Iff.rfl) rfl rfl

theorem clearPostMark_of_clear {b : BayNo} {s : State} (h : s.store.marks[b].post = false) : clearPostMark b s = s :=
  if_neg (by
    have hpost : s.store.marks[b].post = false := h
    rw [hpost, Bool.and_false]
    exact Bool.false_ne_true)

theorem clearPostMark_of_set {b : BayNo} {s : State} (hbound : s.boundAt b = true) (h : s.store.marks[b].post = true) :
    clearPostMark b s = notifyBay .defect b { s with store := { s.store with
      marks := s.store.marks.set b { s.store.marks[b] with post := false } } } :=
  if_pos (by
    have hpost : s.store.marks[b].post = true := h
    rw [hpost, hbound]
    rfl)

/-- Settles O45: one finding by the entry it meets, the table of R140, the three merges, a POST finding and the reports of a write. -/
theorem findingsApplied : Obligations.FindingsApplied := by
  unfold Obligations.FindingsApplied
  intro told
  have htold : ∀ b fs x, told b fs x = fs.foldl (Store.tell b) x := fun _ _ _ => rfl
  refine ⟨fun st b f => ?one, fun g a c la x code d => ⟨rfl, rfl, rfl, rfl, finding_gone c code d, rfl, rfl, rfl, rfl⟩,
    fun st b rs => ?faults, fun st b cs => ?lamps, fun st b f => ?post, fun b f m s => ?written⟩
  case one =>
    obtain ⟨hupdated, heffect⟩ := applyFinding_spec st b f
    refine ⟨hupdated, heffect, fun hnone => ?_⟩
    have hfind := find_keys_eq_none hnone
    refine ⟨applyFinding_of_not_created hfind, fun n hn => ⟨fun hfull => ?_, fun slot free hfree hroom => ?_⟩⟩
    · exact applyFinding_of_lost hfind hn (store_create_eq_none n hfull)
    · exact applyFinding_of_created hfind hn (store_create_of_room n hfree hroom)
  case faults =>
    intro known unseen seen rank complete cut
    let fs := unseenFaults st.lists[b] rs ++ knownFaults st.lists[b] rs ++ (newFaults st.lists[b] rs).map fun x => Finding.fault x.1 x.2
    have hagrees : ∀ f ∈ fs, f.agrees rs := fun f hf => agrees_of_mem hf
    have hsource : ∀ f ∈ fs, f.source = .fault := fun f hf => agrees_source (hagrees f hf)
    have hcomplete : complete = Store.settleMark b .fault (fs.foldl (Store.tell b) (st, .none)) := by
      rw [← applyAll_eq_foldl]
      exact mergeFaults_complete st b rs
    have hlost : complete.2.lost = (fs.foldl (Store.tell b) (st, .none)).2.lost := by rw [hcomplete, settleMark_lost]
    obtain ⟨hofLost, hofKept⟩ := settleMark_applyAll (b := b) (src := .fault) (fs := fs) (st := st) (e := .none) rfl
      applyAll_marks_of_not_lost
    refine ⟨⟨newFaults st.lists[b] rs, sortBy_perm _ _, ?_, ?_⟩, fun hkept => ?_, fun hlose => ?_, fun hmark => ?_, ?_⟩
    · exact (newFaults_pairwise st.lists[b] rs).imp fun {x y} h => by rwa [rank_eq_idxOf, rank_eq_idxOf] at h
    · intro created w
      refine ⟨?_, fun h => hcomplete.trans (hofLost h), fun h => hcomplete.trans (hofKept h)⟩
      rw [htold, ← applyAll_eq_foldl]
      exact mergeFaults_cut st b rs
    · rw [hcomplete, hofKept (hlost ▸ hkept)]
      exact congrArg Marks.fault (Vector.getElem_set_self b.isLt)
    · rw [hlost] at hlose
      rw [hcomplete, hofLost hlose]
      rw [← applyAll_eq_foldl] at hlose ⊢
      exact applyAll_mark (src := .fault) (by decide) hsource (.inr hlose)
    · have hcut : cut = _ := mergeFaults_cut st b rs
      rw [hcut]
      refine applyAll_mark (src := .fault) (by decide) (fun f hf => hsource f ?_) (.inl hmark)
      simp only [fs, List.append_assoc]
      exact List.mem_append_right _ hf
    · have hshows : (Store.applyAll b fs st).1.shows b rs [] := shows_applyAll hagrees (shows_before_merge st b rs)
      have hlists : complete.1.lists = (Store.applyAll b fs st).1.lists := by
        rw [hcomplete, settleMark_lists, ← applyAll_eq_foldl]
      intro d hd hsrc
      rw [hlists] at hd
      exact (hshows d hd hsrc).resolve_left List.not_mem_nil
  case lamps =>
    intro circuits passed removed absent failing complete w
    let e : Effect := { Effect.none with changed := st.lists[b].any passed }
    have hremoved : allCircuits.foldl (Store.removePassed cs b) st = removed := foldl_removePassed cs b (List.nodup_finRange 16) st
    have hchanged : decide (removed.lists[b].length < st.lists[b].length) = st.lists[b].any passed := by
      rw [show removed.lists[b] = st.lists[b].filter (fun d => !passed d) from Vector.getElem_set_self b.isLt]
      exact filter_length_lt_eq_any _ _
    have habsent : lampAbsent cs = absent := lampAbsent_eq cs
    have hcomplete : complete = Store.settleMark b .lamp w := by
      show st.mergeLamps b cs = _
      rw [Store.mergeLamps, hremoved, hchanged, habsent]
      rw [show w = (absent ++ failing).foldl (Store.tell b) (removed, e) from rfl, foldl_tell]
      rfl
    have hsource : ∀ f ∈ absent ++ failing, f.source = .lamp := habsent ▸ lampFindings_source cs
    have hlost : complete.2.lost = w.2.lost := by rw [hcomplete, settleMark_lost]
    have hw : w = ((Store.applyAll b (absent ++ failing) removed).1, e.or (Store.applyAll b (absent ++ failing) removed).2) :=
      foldl_tell b (absent ++ failing) removed e
    have hwlost : w.2.lost = (Store.applyAll b (absent ++ failing) removed).2.lost := by rw [hw]; rfl
    obtain ⟨hofLost, hofKept⟩ := settleMark_applyAll (b := b) (src := .lamp) (fs := absent ++ failing) (st := removed) (e := e) rfl
      applyAll_marks_of_not_lost
    refine ⟨fun h => hcomplete.trans (hofLost h), fun h => hcomplete.trans (hofKept h), fun hroom => ?_, fun hlose => ?_, ?_⟩
    · obtain ⟨-, -, hstays, hrises⟩ := applyAll_starvation (b := b) (fs := absent ++ failing) (st := removed) hroom.le
      rw [hlost, hwlost, hw]
      refine ⟨fun h => hrises h hroom, fun h => ?_⟩
      by_contra hkept
      exact absurd (hstays (by simpa using hkept)) h.ne'
    · rw [hlost] at hlose
      rw [hcomplete, settleMark_of_lost hlose, hw]
      exact applyAll_mark (src := .lamp) (by decide) hsource (.inr (hwlost ▸ hlose))
    · rw [htold, ← applyAll_eq_foldl]
      rfl
  case post =>
    intro r
    refine ⟨fun h => ?_, fun h => ?_⟩
    · simp only [Store.applyPost]
      exact if_neg (by rw [h]; exact Bool.false_ne_true)
    · have happly : st.applyPost b f = Store.settleMark b .post r := if_pos h
      rw [happly, settleMark_of_kept (applyFinding_applied h) (applyFinding_not_marked st b f)]
      exact ⟨rfl, rfl⟩
  case written =>
    intro reported merged found
    refine ⟨fun h => ?_, fun h => ?_⟩
    · have hbound : s.boundAt b = false := (isBound_eq_false_iff _).mpr h
      simp [mergeInto, postFinding, clearPostMark, hbound]
    · have hbound : s.boundAt b = true := (isBound_eq_true_iff _).mpr h
      refine ⟨?_, ?_, clearPostMark_of_clear, clearPostMark_of_set hbound⟩
      · rw [mergeInto, if_pos hbound]
        exact reportWrite_eq b merged.2 _ _
      · rw [postFinding, if_pos hbound]
        exact reportWrite_eq b found.2 _ _

end Sys2Proof.Machine

/-! PROOF. The post bus: good responses, the restoration by a PING, bad responses, and the bus's own timers and broadcasts. -/

namespace Sys2Proof.Machine

/-! ## Good responses -/

theorem crc8Bit_eq (r : BitVec 8) (bit : Bool) : crc8Bit r bit = if r.msb = bit then r <<< 1 else (r <<< 1) ^^^ 0x07#8 := by
  unfold crc8Bit
  by_cases h : r.msb = bit <;> simp [h]

theorem formOf_lampRead (st : PostStatus) (p : PostPayload) : formOf .lampRead st p = true ↔
    (st ≠ .ok ∧ p = .empty) ∨ (st = .ok ∧ ∃ i, p = .current i) := by
  unfold formOf
  cases st <;> cases p <;> simp

theorem formOf_ident (st : PostStatus) (p : PostPayload) : formOf .ident st p = true ↔
    (st ≠ .ok ∧ p = .empty) ∨ (st = .ok ∧ ∃ id cls, p = .coach id cls) := by
  unfold formOf
  cases st <;> cases p <;> simp

theorem formOf_faultPage (st : PostStatus) (p : PostPayload) : formOf .faultPage st p = true ↔
    (st ≠ .ok ∧ p = .empty) ∨ (st = .ok ∧ ∃ version rs more, p = .page version rs more ∧ rs.length ≤ 4) := by
  unfold formOf
  cases st <;> cases p <;> simp

theorem formOf_iff (k : PostKind) (st : PostStatus) (p : PostPayload) : formOf k st p = true ↔
    (k ∈ [.heat, .signal, .lampStep, .lampEnd, .ping] ∧ p = .empty)
      ∨ (k = .sense ∧ ∃ x, p = .sense x)
      ∨ (k ∈ [.lampRead, .ident, .faultPage] ∧ st ≠ .ok ∧ p = .empty)
      ∨ (k = .lampRead ∧ st = .ok ∧ ∃ i, p = .current i)
      ∨ (k = .ident ∧ st = .ok ∧ ∃ id cls, p = .coach id cls)
      ∨ (k = .faultPage ∧ st = .ok ∧ ∃ version rs more, p = .page version rs more ∧ rs.length ≤ 4) := by
  cases k with
  | lampRead => simp [formOf_lampRead]
  | ident => simp [formOf_ident]
  | faultPage => simp [formOf_faultPage]
  | sense =>
    unfold formOf
    cases p <;> simp
  | _ =>
    unfold formOf
    cases p <;> simp

theorem soundFrame_iff (r : PostReply) (k : PostKind) (st : PostStatus) : soundFrame r k st = true ↔
    r.check = crc8 (r.address :: r.kindCode :: r.length :: r.body) ∧ r.length.toNat = r.body.length ∧ formOf k st r.payload = true := by
  simp [soundFrame, and_assoc]

/-! ## Successes -/

theorem clearFailures_freeWire (b : BayNo) (s : State) : clearFailures b (freeWire s) = { s with bus := { s.bus with
    wire := .free
    idle := 1000
    posts := s.bus.posts.set b (if s.bus.posts[b].silent then s.bus.posts[b] else { s.bus.posts[b] with failures := 0 }) } } := rfl

theorem exec_postResponse_of_good {a : PostReply} {order : FailureOrder} {s : State} {x : InFlight} {b : BayNo} {st : PostStatus}
    (h : s.resetHeld = false) (hwire : s.bus.wire = .busy x) (hbay : x.job.bay = some b) (hgood : goodStatus a x.job = some st) :
    exec (.postResponse a order) s = .next (arbitrate (if x.discarded then clearFailures b (freeWire s)
      else handSuccess x.job st a.payload (clearFailures b (freeWire s)))) := by
  rw [exec_postResponse h]
  simp only [takeResponse, hwire, hbay, hgood]
  rfl

/-! ## The restoration of a post -/

theorem outstanding_placeJob (s : State) (j : Job) (p : Job → Bool) : (placeJob j s).outstanding p = (s.outstanding p || p j) := by
  have hwaits : (placeJob j s).waits p = (s.waits p || p j) := by simp [State.waits, placeJob]
  have hflies : (placeJob j s).flies p = s.flies p := rfl
  rw [State.outstanding, State.outstanding, hwaits, hflies, Bool.or_right_comm]

/-- R90, R166: the request that takes the place of another of its kind is outstanding. -/
theorem outstanding_asked (s : State) (p : Job → Bool) (j : Job) :
    ({ s with bus := s.asked p j } : State).outstanding (· == j) = true := by
  rw [State.outstanding, Bool.or_eq_true]
  refine .inl ?_
  simp only [State.waits, State.asked]
  split_ifs with h
  · obtain ⟨r, hr, hp⟩ := List.any_eq_true.mp h
    refine List.any_eq_true.mpr ⟨{ r with job := j }, List.mem_map.mpr ⟨r, hr, if_pos hp⟩, beq_self_eq_true j⟩
  · simp

/-- A request that takes the place of its own kind leaves every other outstanding. -/
theorem outstanding_asked_of_other {s : State} {p q : Job → Bool} {j : Job} (hq : ∀ k, p k = true → q k = false)
    (h : s.outstanding q = true) : ({ s with bus := s.asked p j } : State).outstanding q = true := by
  rw [State.outstanding, Bool.or_eq_true] at h ⊢
  refine h.imp_left fun h => ?_
  obtain ⟨r, hr, hqr⟩ := List.any_eq_true.mp h
  have hp : p r.job = false := by
    rw [Bool.eq_false_iff]
    intro hp
    rw [hq _ hp] at hqr
    exact absurd hqr Bool.false_ne_true
  simp only [State.waits, State.asked]
  split_ifs
  · exact List.any_eq_true.mpr ⟨r, List.mem_map.mpr ⟨r, hr, by simp [hp]⟩, hqr⟩
  · exact List.any_eq_true.mpr ⟨r, List.mem_append_left _ hr, hqr⟩

theorem requestSignal_of_responding {b : BayNo} {a : Aspect} {s : State} (h : s.bus.posts[b].silent = false) :
    requestSignal b a s = { s with bus := s.asked (Job.isSignalFor b) (.signal b a) } := by
  rw [requestSignal_bus, h]
  rfl

theorem requestHeat_of_responding {b : BayNo} {on : Bool} {s : State} (h : s.bus.posts[b].silent = false) :
    requestHeat b on s = { s with bus := s.asked (Job.isHeatFor b) (.heat b on) } := by
  rw [requestHeat_bus, h]
  rfl

/-- R4: the SENSE request of a restoration. -/
theorem restoreSense_spec {b : BayNo} {s : State} (hpost : s.bus.posts[b].silent = false) :
    (restoreSense b s).bus.posts = s.bus.posts ∧ (restoreSense b s).clearance = s.clearance ∧ (restoreSense b s).seq = s.seq
    ∧ ((s.bay b).state ≠ .closed → (restoreSense b s).outstanding (Job.isSenseFor b) = true ∧ ((restoreSense b s).bay b).sense = some 5000)
    ∧ { restoreSense b s with bays := s.bays, bus := s.bus } = s := by
  unfold restoreSense
  split
  · next h => exact ⟨rfl, rfl, rfl, fun hne => absurd h hne, rfl⟩
  · next h =>
    have hstate : ((s.updBay b fun r => { r with sense := some senseTime }).bay b).state ≠ .closed := by rwa [bay_updBay_same]
    have hsense : ((s.updBay b fun r => { r with sense := some senseTime }).bay b).sense = some 5000 := by rw [bay_updBay_same]; rfl
    have hsilent : (s.updBay b fun r => { r with sense := some senseTime }).silent b = false := hpost
    have hframe : { s.updBay b fun r => { r with sense := some senseTime } with bays := s.bays } = s := rfl
    have hposts : (s.updBay b fun r => { r with sense := some senseTime }).bus = s.bus := rfl
    unfold requestSense
    by_cases hout : (s.updBay b fun r => { r with sense := some senseTime }).outstanding (Job.isSenseFor b) = true
    · rw [if_pos (.inr (.inr hout))]
      exact ⟨rfl, rfl, rfl, fun _ => ⟨hout, hsense⟩, rfl⟩
    · rw [if_neg (by
        rintro (h' | h' | h')
        · exact hstate h'
        · rw [hsilent] at h'
          exact absurd h' Bool.false_ne_true
        · exact hout h')]
      refine ⟨rfl, rfl, rfl, fun _ => ⟨?_, hsense⟩, rfl⟩
      rw [outstanding_placeJob]
      simp [Job.isSenseFor]

theorem arbitrate_posts (s : State) : (arbitrate s).bus.posts = s.bus.posts := by
  by_cases h : s.bus.wire ≠ .free ∨ s.bus.waiting = []
  · rw [arbitrate_of_no_grant h]
  · obtain ⟨hwire, hwait⟩ := not_or.mp h
    obtain ⟨r, -, harb⟩ := arbitrate_of_grant (not_not.mp hwire) hwait
    rw [harb]
    simp only [Bus.grant, Bus.served]
    cases r.job <;> rfl

theorem port_of_bus (s : State) (u : Bus) (l : Link) : ({ s with bus := u } : State).port l = s.port l := by cases l <;> rfl

theorem arbitrate_port (s : State) (l : Link) : (arbitrate s).port l = s.port l := port_of_bus s _ l

/-- R96: the HEAT request of a restoration. -/
theorem restoreHeating_spec {b : BayNo} {s : State} (hpost : s.bus.posts[b].silent = false) :
    (restoreHeating b s).bus.posts = s.bus.posts ∧ { restoreHeating b s with bus := s.bus } = s
    ∧ (s.seq.commanded[b].on = false → (restoreHeating b s).outstanding (· == .heat b false) = true)
    ∧ ∀ q : Job → Bool, (∀ k, Job.isHeatFor b k = true → q k = false) → s.outstanding q = true → (restoreHeating b s).outstanding q = true := by
  unfold restoreHeating
  split
  · next h => exact ⟨rfl, rfl, fun hoff => absurd (h.symm.trans hoff) (by decide), fun _ _ h => h⟩
  · rw [requestHeat_of_responding hpost]
    exact ⟨rfl, rfl, fun _ => outstanding_asked .., fun q hq h => outstanding_asked_of_other hq h⟩

theorem isSenseFor_of_isHeatFor {b : BayNo} (k : Job) (h : Job.isHeatFor b k = true) : Job.isSenseFor b k = false := by
  cases k <;> simp_all [Job.isHeatFor, Job.isSenseFor]

theorem isSenseFor_of_isSignalFor {b : BayNo} (k : Job) (h : Job.isSignalFor b k = true) : Job.isSenseFor b k = false := by
  cases k <;> simp_all [Job.isSignalFor, Job.isSenseFor]

theorem isHeat_of_isSignalFor {b : BayNo} (k : Job) (h : Job.isSignalFor b k = true) : (k == .heat b false) = false := by
  cases k <;> simp_all [Job.isSignalFor]

/-- R177: the post RESPONDING, with the requests of R4, R96 and R168 and the POST notice. -/
theorem restorePost_spec (b : BayNo) (s : State) :
    (restorePost b s).bus.posts[b] = ⟨false, 0, none⟩
    ∧ ((s.bay b).state ≠ .closed → (restorePost b s).outstanding (Job.isSenseFor b) = true ∧ ((restorePost b s).bay b).sense = some 5000)
    ∧ (s.seq.commanded[b].on = false → (restorePost b s).outstanding (· == .heat b false) = true)
    ∧ (restorePost b s).outstanding (· == .signal b s.clearance.signals[b]) = true
    ∧ (∀ l, ((restorePost b s).port l).notices = (s.port l).notices.add .post (BaySet.single b))
    ∧ { restorePost b s with
        bays := s.bays
        bus := s.bus
        dispatch := { (restorePost b s).dispatch with notices := s.dispatch.notices }
        workshop := { (restorePost b s).workshop with notices := s.workshop.notices } } = s := by
  have hpost : (s.updPost b fun _ => ⟨false, 0, none⟩).bus.posts[b] = ⟨false, 0, none⟩ := Vector.getElem_set_self b.isLt
  have hup : { s.updPost b fun _ => ⟨false, 0, none⟩ with bus := s.bus } = s := rfl
  have hclosed : ((s.updPost b fun _ => ⟨false, 0, none⟩).bay b).state = (s.bay b).state := rfl
  have hseq : (s.updPost b fun _ => ⟨false, 0, none⟩).seq = s.seq := rfl
  have hclearance : (s.updPost b fun _ => ⟨false, 0, none⟩).clearance = s.clearance := rfl
  unfold restorePost restoreSignal
  dsimp only
  generalize (s.updPost b fun _ => ⟨false, 0, none⟩) = u at *
  have hsilent : u.bus.posts[b].silent = false := by rw [hpost]
  obtain ⟨hposts, hclearance', hseq', hsense, hframe⟩ := restoreSense_spec hsilent
  generalize restoreSense b u = v at *
  have hsilent' : v.bus.posts[b].silent = false := by rw [hposts]; exact hsilent
  obtain ⟨hposts', hframe', hheat, hkeeps⟩ := restoreHeating_spec hsilent'
  generalize restoreHeating b v = w at *
  have hsilent'' : w.bus.posts[b].silent = false := by rw [hposts', hposts]; exact hsilent
  have hsignals : w.clearance = s.clearance := (congrArg State.clearance hframe').trans (hclearance'.trans hclearance)
  rw [requestSignal_of_responding hsilent'', hsignals]
  refine ⟨?_, fun hne => ⟨?_, ?_⟩, fun hoff => ?_, outstanding_asked w _ _, fun l => ?_, ?_⟩
  · show w.bus.posts[b] = _
    rw [hposts', hposts, hpost]
  · exact outstanding_asked_of_other (s := w) isSenseFor_of_isSignalFor (hkeeps _ isSenseFor_of_isHeatFor (hsense (hclosed ▸ hne)).1)
  · show (w.bay b).sense = _
    rw [show w.bay b = v.bay b by rw [← hframe']; rfl]
    exact (hsense (hclosed ▸ hne)).2
  · exact outstanding_asked_of_other (s := w) isHeat_of_isSignalFor (hheat (by rw [hseq', hseq]; exact hoff))
  · have hports : w.port l = s.port l := by
      rw [← hup, ← hframe, ← hframe']
      cases l <;> rfl
    rw [← hports]
    cases l <;> rfl
  · have hall : { w with bays := s.bays, bus := s.bus } = s := by
      rw [← hup, ← hframe, ← hframe']
    rw [← hall]
    rfl

/-- What a restoration and the grant after it leave of the state before the response. -/
theorem restored_frame {s f t : State} (hback : ({ f with bus := s.bus } : State) = s)
    (hframe : { t with
      bays := f.bays
      bus := f.bus
      dispatch := { t.dispatch with notices := f.dispatch.notices }
      workshop := { t.workshop with notices := f.workshop.notices } } = f) :
    { arbitrate t with
      bays := s.bays
      bus := s.bus
      dispatch := { (arbitrate t).dispatch with notices := s.dispatch.notices }
      workshop := { (arbitrate t).workshop with notices := s.workshop.notices } } = s := by
  rw [← hback, ← hframe]
  rfl

/-! ## Bad responses -/

theorem exec_badResponse {cause : BadCause} {order : FailureOrder} {s : State} (h : s.resetHeld = false) :
    exec (.badResponse cause order) s = .next (noGoodResponse order s) := event_of_not_held h

theorem exec_probeTimerExpiry {b : BayNo} {s : State} (h : s.resetHeld = false) :
    exec (.probeTimerExpiry b) s = .next (probeExpiry b s) := event_of_not_held h

theorem exec_allOffSent {s : State} (h : s.resetHeld = false) : exec .allOffSent s = .next (allOffEnd s) := event_of_not_held h

theorem exec_idleTimerExpiry {s : State} (h : s.resetHeld = false) : exec .idleTimerExpiry s = .next (idleExpiry s) := event_of_not_held h

theorem exec_quietFrameSent {s : State} (h : s.resetHeld = false) : exec .quietFrameSent s = .next (quietEnd s) := event_of_not_held h

theorem allOffEnd_of_flying {s : State} {x : InFlight} (hwire : s.bus.wire = .busy x) (hx : x.job = .allOff) :
    allOffEnd s = arbitrate (freeWire s) := by
  have hgranted : grantWaiting s = s := by simp only [grantWaiting, hwire]
  simp only [allOffEnd, hgranted, hwire]
  exact if_pos hx

/-- Log 10: right after reset ALL OFF waits for its grant. -/
theorem allOffEnd_of_waiting {s : State} (hwire : s.bus.wire = .free) (h : ∃ r ∈ s.bus.waiting, r.job = .allOff) :
    allOffEnd s = allOffEnd (arbitrate s) := by
  obtain ⟨q, hq, hoff⟩ := h
  have hwait : s.bus.waiting ≠ [] := List.ne_nil_of_mem hq
  obtain ⟨r, hr, harb⟩ := arbitrate_of_grant hwire hwait
  have hroff : r.job = .allOff := (chooseRequest_eq_some hr).elim (·.2) fun ⟨hnone, _⟩ => absurd hoff (hnone q hq)
  have hflying : (arbitrate s).bus.wire = .busy ⟨r.job, false, if r.job = .allOff then none else some responseWindow, false⟩ := by
    rw [harb]
    rfl
  have hgranted : grantWaiting s = arbitrate s := by
    simp only [grantWaiting, hwire]
    exact if_neg (by simpa using hwait)
  rw [allOffEnd_of_flying hflying hroff]
  simp only [allOffEnd, hgranted, hflying]
  exact if_pos hroff

theorem allOffEnd_of_other {s : State} (h : (∃ x, s.bus.wire = .busy x ∧ x.job ≠ .allOff) ∨ s.bus.wire = .quiet) : allOffEnd s = s := by
  rcases h with ⟨x, hwire, hx⟩ | hwire
  · have hgranted : grantWaiting s = s := by simp only [grantWaiting, hwire]
    simp only [allOffEnd, hgranted, hwire]
    exact if_neg hx
  · have hgranted : grantWaiting s = s := by simp only [grantWaiting, hwire]
    simp only [allOffEnd, hgranted, hwire]

/-- Settles O47: the good responses and what they hand on, the bad ones, the probe timer, ALL OFF, the idle timer and the quiet frame. -/
theorem postEvents : Obligations.PostEvents := by
  unfold Obligations.PostEvents
  refine ⟨⟨rfl, fun bs x => ?crc, fun b e i n on x => ⟨rfl, rfl, rfl, rfl, rfl, rfl, rfl, rfl, rfl, rfl⟩, fun r j st => ?good⟩,
    fun x b st a order s hheld hwire hbay ha => ?successes, fun x r b order s hheld hwire hbay => ⟨fun hbad cause => ?bad, fun st hgood hd => ?late⟩,
    fun b s hheld => ?probe, fun s hheld => ?broadcasts⟩
  case crc =>
    rw [crc8_append, byteBits_eq]
    exact congrArg (fun f => List.foldl f (crc8 bs) _) (funext fun r => funext fun bit => crc8Bit_eq r bit)
  case good =>
    intro form
    rw [goodStatus_eq_some, soundFrame_iff, formOf_iff]
  case successes =>
    intro c post freed
    obtain ⟨hgood, hpayload⟩ := ha
    have hexec := exec_postResponse_of_good (order := order) hheld hwire hbay hgood
    have hfreed : clearFailures b (freeWire s) = freed := clearFailures_freeWire b s
    rw [hfreed] at hexec
    refine ⟨fun hjob => ?_, fun hjob hquiet => ?_, fun hjob hd hsilent => ⟨arbitrate (restorePost b freed), ?_, ?_⟩⟩
    · have hnone : handSuccess x.job st a.payload freed = freed := by
        rcases hjob with ⟨on, h⟩ | ⟨sig, h⟩ <;> rw [h] <;> rfl
      rw [hexec, hnone, ite_self]
    · rw [hexec, hjob]
      rcases hquiet with hd | hresponds
      · rw [if_pos hd]
      · have hnot : freed.silent b = false := silent_clearFailures hresponds
        have hnone : handSuccess (.ping b) st a.payload freed = freed := if_neg (Bool.eq_false_iff.mp hnot)
        rw [hnone, ite_self]
    · have hpost : freed.silent b = true := by
        have hset : freed.bus.posts[b] = if post.silent then post else { post with failures := 0 } := Vector.getElem_set_self b.isLt
        rw [State.silent, hset, if_pos hsilent]
        exact hsilent
      rw [hexec, hd, hjob]
      exact congrArg (fun t => Host.Outcome.next (arbitrate t)) (if_pos hpost)
    · have hspec := restorePost_spec b freed
      rw [show freed.bay b = s.bay b from rfl, show freed.seq = s.seq from rfl, show freed.clearance = s.clearance from rfl] at hspec
      generalize restorePost b freed = t at hspec
      obtain ⟨hposts, hsense, hheat, hsignal, hnotices, hframe⟩ := hspec
      refine ⟨by rw [arbitrate_posts]; exact hposts, fun hne => ?_, fun hoff => ?_, ?_, fun l => ?_, restored_frame (f := freed) rfl hframe⟩
      · rw [outstanding_arbitrate]
        exact hsense hne
      · rw [outstanding_arbitrate]
        exact hheat hoff
      · rw [outstanding_arbitrate]
        exact hsignal
      · rw [arbitrate_port, hnotices l, port_of_bus]
  case bad =>
    rw [exec_postResponse hheld, exec_badResponse hheld]
    simp only [takeResponse, hwire, hbay, hbad]
  case late =>
    rw [exec_postResponse_of_good hheld hwire hbay hgood, hd]
    rfl
  case probe =>
    intro reloaded goes
    have hfires : ∀ t, s.bus.posts[b].probe ≠ none →
        (if s.outstanding (Job.isPingFor b) then reloaded else placeJob (.ping b) reloaded) = t → goes (arbitrate t) := fun t h ht => by
      obtain ⟨k, hk⟩ := Option.ne_none_iff_exists'.mp h
      simp only [goes, exec_probeTimerExpiry hheld, probeExpiry, hk]
      rw [← ht]
      rfl
    refine ⟨fun h => ?_, fun h hout => hfires _ h (if_pos hout), fun h hout => hfires _ h (if_neg (Bool.eq_false_iff.mp hout))⟩
    simp only [goes, exec_probeTimerExpiry hheld, probeExpiry, h]
  case broadcasts =>
    intro freed idled
    have hheld' : (arbitrate s).resetHeld = false := hheld
    refine ⟨fun ⟨x, hwire, hx⟩ => ?_, fun hwire h => ?_, fun h => ?_, fun hwire hwait => ?_, fun h => ?_, fun hwire => ⟨?_, ?_⟩, fun hwire => ?_⟩
    · rw [exec_allOffSent hheld, allOffEnd_of_flying hwire hx]
      rfl
    · rw [exec_allOffSent hheld, exec_allOffSent hheld', allOffEnd_of_waiting hwire h]
    · rw [exec_allOffSent hheld, allOffEnd_of_other h]
    · rw [exec_idleTimerExpiry hheld]
      simp only [idleExpiry, hwire]
      exact congrArg Host.Outcome.next (if_pos (List.isEmpty_iff.mpr hwait))
    · rw [exec_idleTimerExpiry hheld]
      rcases h with ⟨x, hwire⟩ | ⟨hwire, hwait⟩
      · simp only [idleExpiry, hwire]
        rfl
      · simp only [idleExpiry, hwire]
        exact congrArg Host.Outcome.next (if_neg (by simpa using hwait))
    · rw [exec_idleTimerExpiry hheld]
      simp only [idleExpiry, hwire]
    · rw [exec_quietFrameSent hheld]
      simp only [quietEnd, hwire]
      rfl
    · rw [exec_quietFrameSent hheld]
      cases hw : s.bus.wire with
      | free => simp only [quietEnd, hw]
      | busy x => simp only [quietEnd, hw]
      | quiet => exact absurd hw hwire

end Sys2Proof.Machine

/-! PROOF. The failures of transactions and the silence of a post: what they keep, what they do, and the missing or bad responses. -/

namespace Sys2Proof.Machine

/-! ## What failures keep -/

/-- What a property of states must be kept by, beyond reports and decisions, so that the failure of every transaction keeps it. -/
structure KeptByFailures (P : State → Prop) : Prop extends KeptByReports P where
  lamp : ∀ u (s : State), P s → P { s with lamp := u }
  retry : ∀ b s, P s → P (startRetry b s)
  reader : ∀ (b : BayNo) x (s : State), x.reading = s.reader.reading.set b none → P s → P { s with reader := x }
  lampStep : ∀ e (b : BayNo) c (s : State), s.bus.posts[b].silent = false → P s → P (placeJob (.lampStep e b c) s)
  lampEnd : ∀ e (b : BayNo) (s : State), s.bus.posts[b].silent = false → P s → P (placeJob (.lampEnd e b) s)
  free : ∀ s, P s → P (freeWire s)

namespace KeptByFailures

variable {P : State → Prop} (K : KeptByFailures P)
include K

theorem and {Q : State → Prop} (L : KeptByFailures Q) : KeptByFailures fun s => P s ∧ Q s where
  toKeptByReports := K.toKeptByReports.and L.toKeptByReports
  lamp u s h := ⟨K.lamp u s h.1, L.lamp u s h.2⟩
  retry b s h := ⟨K.retry b s h.1, L.retry b s h.2⟩
  reader b x s hx h := ⟨K.reader b x s hx h.1, L.reader b x s hx h.2⟩
  lampStep e b c s hb h := ⟨K.lampStep e b c s hb h.1, L.lampStep e b c s hb h.2⟩
  lampEnd e b s hb h := ⟨K.lampEnd e b s hb h.1, L.lampEnd e b s hb h.2⟩
  free s h := ⟨K.free s h.1, L.free s h.2⟩

theorem testAborted {s : State} (h : P s) (e : EngineNo) (x : RunningTest) (reason : LampReason) : P (s.testAborted e x reason) := by
  unfold State.testAborted
  exact K.pendingCompletion (K.notifyBay (K.mergeInto (K.lamp _ _ (K.withdrawn _ s h)) x.bay _) .lamp x.bay) x.bay

theorem endRelease {s : State} (h : P s) (e : EngineNo) : P (endRelease e s) := K.lamp _ s h

theorem startRelease {s : State} (h : P s) (e : EngineNo) (b : BayNo) : P (startRelease e b s) := by
  unfold Machine.startRelease
  cases hs : s.silent b with
  | true => exact K.endRelease h e
  | false => exact K.lampEnd e b (setEngine e (.releasing b) s) hs (K.lamp _ s h)

theorem abortTest {s : State} (h : P s) (e : EngineNo) (reason : LampReason) : P (abortTest e reason s) := by
  cases hx : s.lamp.engines[e] with
  | free => simpa only [Machine.abortTest, hx] using h
  | releasing b => simpa only [Machine.abortTest, hx] using h
  | running x =>
    rw [abortTest_of_running hx]
    split
    · exact K.endRelease (K.testAborted h e x reason) e
    · exact K.startRelease (K.testAborted h e x reason) e x.bay

theorem takeTest {s : State} (h : P s) (e : EngineNo) (b : BayNo) : P (takeTest e b s) := by
  by_cases hcan : ∃ reason, s.cannotTest b reason
  · obtain ⟨reason, hcannot⟩ := hcan
    rw [takeTest_of_cannot hcannot]
    exact K.pendingCompletion (K.notifyBay (K.lamp _ s h) .lamp b) b
  · have hnone : ∀ reason, ¬ s.cannotTest b reason := fun reason hr => hcan ⟨reason, hr⟩
    have hsilent : s.bus.posts[b].silent = false := by
      by_contra hsil
      exact hcan (exists_cannotTest_of_silent (Bool.eq_true_of_not_eq_false hsil))
    obtain ⟨c, first, rs, -, -, -, -, ht⟩ := takeTest_of_can hnone e
    rw [ht]
    refine K.lampStep e b first _ ?_ (K.leaveOnSet (K.lamp _ s h) b)
    rw [leaveOnSet_waiting]
    exact hsilent

theorem takeTests {s : State} (h : P s) (n : Nat) : P (takeTests n s) := by
  induction n generalizing s with
  | zero => exact h
  | succ n ih =>
    unfold Machine.takeTests
    split
    · exact ih (K.takeTest (K.lamp _ s h) _ _)
    · exact h

theorem takeAll {s : State} (h : P s) : P (takeAll s) := K.takeTests h _

theorem abortTestOn {s : State} (h : P s) (b : BayNo) (reason : LampReason) : P (abortTestOn b reason s) := by
  unfold Machine.abortTestOn
  split
  · exact h
  · exact K.takeAll (K.abortTest h _ reason)

theorem failRead {s : State} (h : P s) (b : BayNo) (reason : ReadReason) : P (failRead b reason s) := by
  unfold Machine.failRead
  split
  · exact h
  · rw [endRead_of_not_merges rfl]
    exact K.pendingCompletion (K.notifyBay (K.reader b _ _ rfl (K.withdraw h _)) .defect b) b

theorem handFailure {s : State} (h : P s) (j : Job) : P (handFailure j s) := by
  cases j with
  | allOff => exact h
  | heat b on => exact h
  | sense b => exact h
  | ping b => exact h
  | signal b a =>
    unfold Machine.handFailure
    dsimp only
    split
    · exact h
    · exact K.requestSignal h b _
  | lampStep e b c => exact K.takeAll (K.abortTest h e .busFailed)
  | lampRead e b c => exact K.takeAll (K.abortTest h e .busFailed)
  | lampEnd e b =>
    unfold Machine.handFailure finishRelease
    dsimp only
    split
    · exact h
    · exact h
    · exact K.takeAll (K.endRelease h e)
  | ident b =>
    unfold Machine.handFailure takeIdent identArrived identUnconfirmed
    dsimp only
    split
    · split <;> exact K.retry b s h
    · exact h
  | faultPage b p => exact K.failRead h b .busFailed

theorem foldl_handFailure {s : State} (h : P s) (js : List Job) : P (js.foldl (fun u j => Machine.handFailure j u) s) := by
  induction js generalizing s with
  | nil => exact h
  | cons j js ih => exact ih (K.handFailure h j)

theorem handFlying {s : State} (h : P s) : P (handFlying s) := by
  unfold Machine.handFlying
  split
  · split
    · exact K.free s h
    · exact K.handFailure (K.free s h) _
  · exact h
  · exact h

end KeptByFailures

/-! ## What stands at a SILENT post -/

theorem add_post_of_mem (n : Notices) (k : NoticeKind) (bs : BaySet) (b : BayNo) (h : n.post.getLsbD b = true) :
    (n.add k bs).post.getLsbD b = true := by
  cases k <;> simp_all [Notices.add]

/-- At a SILENT post only its PING waits. -/
theorem keptByFailures_quiet {b : BayNo} {posts : Vector Post 24} (hposts : posts[b].silent = true) :
    KeptByFailures fun s => s.bus.posts = posts ∧ ∀ r ∈ s.bus.waiting, r.job.bay = some b → r.job = .ping b := by
  have hother : ∀ {s : State} {c : BayNo}, s.bus.posts = posts → s.bus.posts[c].silent = false → c ≠ b := by
    rintro s c hs hc rfl
    rw [hs, hposts] at hc
    exact absurd hc (by decide)
  have hasked : ∀ (s : State) (p : Job → Bool) (j : Job) (c : BayNo), j.bay = some c → s.bus.posts[c].silent = false →
      (s.bus.posts = posts ∧ ∀ r ∈ s.bus.waiting, r.job.bay = some b → r.job = .ping b) →
      ∀ r ∈ (s.asked p j).waiting, r.job.bay = some b → r.job = .ping b := fun s p j c hj hc ⟨hs, h⟩ r hr hb => by
    have hne : j.bay ≠ some b := by
      rw [hj]
      exact fun heq => hother hs hc (Option.some.inj heq)
    simp only [State.asked] at hr
    split_ifs at hr
    · obtain ⟨q, hq, rfl⟩ := List.mem_map.mp hr
      split_ifs at hb ⊢
      · exact absurd hb hne
      · exact h q hq hb
    · rcases List.mem_append.mp hr with hr | hr
      · exact h r hr hb
      · obtain rfl := List.mem_singleton.mp hr
        exact absurd hb hne
  have hplaced : ∀ (s : State) (j : Job) (c : BayNo), j.bay = some c → s.bus.posts[c].silent = false →
      (s.bus.posts = posts ∧ ∀ r ∈ s.bus.waiting, r.job.bay = some b → r.job = .ping b) →
      ∀ r ∈ (placeJob j s).bus.waiting, r.job.bay = some b → r.job = .ping b := fun s j c hj hc ⟨hs, h⟩ r hr hb => by
    rcases List.mem_append.mp hr with hr | hr
    · exact h r hr hb
    · obtain rfl := List.mem_singleton.mp hr
      exact absurd (Option.some.inj (hj.symm.trans hb)) (hother hs hc)
  exact {
    notices := fun _ _ _ h => h
    book := fun _ _ h => h
    clearance := fun _ _ h => h
    store := fun _ _ h => h
    onSet := fun _ _ _ _ h => h
    bayState := fun _ _ _ _ h => h
    heat := fun c _ s hc h => ⟨h.1, hasked s _ _ c rfl hc h⟩
    signal := fun c _ s hc h => ⟨h.1, hasked s _ _ c rfl hc h⟩
    withdrawn := fun _ _ h => ⟨h.1, fun r hr => h.2 r (List.mem_filter.mp hr).1⟩
    lamp := fun _ _ h => h
    retry := fun _ _ h => h
    reader := fun _ _ _ _ h => h
    lampStep := fun _ c _ s hc h => ⟨h.1, hplaced s _ c rfl hc h⟩
    lampEnd := fun _ c s hc h => ⟨h.1, hplaced s _ c rfl hc h⟩
    free := fun _ h => h }

theorem keptByFailures_posts (posts : Vector Post 24) : KeptByFailures fun s => s.bus.posts = posts where
  notices _ _ _ h := h
  book _ _ h := h
  clearance _ _ h := h
  store _ _ h := h
  onSet _ _ _ _ h := h
  bayState _ _ _ _ h := h
  heat _ _ _ _ h := h
  signal _ _ _ _ h := h
  withdrawn _ _ h := h
  lamp _ _ h := h
  retry _ _ h := h
  reader _ _ _ _ h := h
  lampStep _ _ _ _ _ h := h
  lampEnd _ _ _ _ h := h
  free _ h := h

theorem keptByFailures_candidate (b : BayNo) : KeptByFailures fun s => (s.bay b).candidate = none := by
  have hbay : ∀ (c : BayNo) (f : Bay → Bay) (s : State), (∀ r, (f r).candidate = r.candidate) → (s.bay b).candidate = none →
      ((s.updBay c f).bay b).candidate = none := fun c f s hf h => by
    by_cases hcb : c = b
    · rw [hcb, bay_updBay_same, hf]
      exact h
    · rw [bay_updBay_of_ne s c b f hcb]
      exact h
  exact {
    notices := fun _ _ _ h => h
    book := fun _ _ h => h
    clearance := fun _ _ h => h
    store := fun _ _ h => h
    onSet := fun _ _ _ _ h => h
    bayState := fun c _ s _ h => hbay c _ s (fun _ => rfl) h
    heat := fun _ _ _ _ h => h
    signal := fun _ _ _ _ h => h
    withdrawn := fun _ _ h => h
    lamp := fun _ _ h => h
    retry := fun c s h => hbay c _ s (fun _ => rfl) h
    reader := fun _ _ _ _ h => h
    lampStep := fun _ _ _ _ _ h => h
    lampEnd := fun _ _ _ _ h => h
    free := fun _ h => h }

theorem keptByFailures_offSet (b : BayNo) : KeptByFailures fun s => ∀ m ∈ s.seq.onSet, m.bay ≠ b where
  notices _ _ _ h := h
  book _ _ h := h
  clearance _ _ h := h
  store _ _ h := h
  onSet _ _ hq _ h m hm := h m (hq m hm)
  bayState _ _ _ _ h := h
  heat _ _ _ _ h := h
  signal _ _ _ _ h := h
  withdrawn _ _ h := h
  lamp _ _ h := h
  retry _ _ h := h
  reader _ _ _ _ h := h
  lampStep _ _ _ _ _ h := h
  lampEnd _ _ _ _ h := h
  free _ h := h

theorem keptByFailures_notReading (b : BayNo) : KeptByFailures fun s => s.reader.reading[b] = none where
  notices _ _ _ h := h
  book _ _ h := h
  clearance _ _ h := h
  store _ _ h := h
  onSet _ _ _ _ h := h
  bayState _ _ _ _ h := h
  heat _ _ _ _ h := h
  signal _ _ _ _ h := h
  withdrawn _ _ h := h
  lamp _ _ h := h
  retry _ _ h := h
  reader c x s hx h := by
    show x.reading[b] = none
    rw [hx]
    by_cases hcb : c = b
    · subst hcb
      exact Vector.getElem_set_self c.isLt
    · rw [show (s.reader.reading.set c none)[b] = s.reader.reading[b] from
        Vector.getElem_set_ne c.isLt b.isLt (fun heq => hcb (Fin.ext heq))]
      exact h
  lampStep _ _ _ _ _ h := h
  lampEnd _ _ _ _ h := h
  free _ h := h

theorem keptByFailures_told (b : BayNo) :
    KeptByFailures fun s => s.dispatch.notices.post.getLsbD b = true ∧ s.workshop.notices.post.getLsbD b = true where
  notices k bs _ h := ⟨add_post_of_mem _ k bs b h.1, add_post_of_mem _ k bs b h.2⟩
  book _ _ h := h
  clearance _ _ h := h
  store _ _ h := h
  onSet _ _ _ _ h := h
  bayState _ _ _ _ h := h
  heat _ _ _ _ h := h
  signal _ _ _ _ h := h
  withdrawn _ _ h := h
  lamp _ _ h := h
  retry _ _ h := h
  reader _ _ _ _ h := h
  lampStep _ _ _ _ _ h := h
  lampEnd _ _ _ _ h := h
  free _ h := h

/-! ## The parts of a silence -/

/-- R128: the end of a read that fails, nothing for an IDLE bay. -/
def readFailed (b : BayNo) (reason : ReadReason) (s : State) : State :=
  match s.reader.reading[b] with
  | none => s
  | some y => pendingCompletion b (notifyBay .defect b { s with
      bus := s.withdrawn (Job.isPageFor b)
      reader := s.reader.ended b ⟨.failed reason, y.pageZero, y.transactions, 0⟩ false })

theorem failRead_eq (b : BayNo) (reason : ReadReason) (s : State) : failRead b reason s = readFailed b reason s := by
  unfold failRead readFailed
  cases s.reader.reading[b] with
  | none => rfl
  | some y =>
    dsimp only
    rw [endRead_of_not_merges rfl, withdraw_withdrawn]

/-- R113: the abort of the test that runs on a bay whose post falls SILENT, and the takes it makes room for. -/
def testSilenced (b : BayNo) (s : State) : State :=
  match s.engineTesting b with
  | none => s
  | some e => match s.lamp.engines[e] with
    | .running y => takeAll (setEngine e .free (s.testAborted e y .postSilent))
    | .free | .releasing _ => s

theorem abortTestOn_eq (b : BayNo) (s : State) : abortTestOn b .postSilent s = testSilenced b s := by
  unfold abortTestOn testSilenced
  cases he : s.engineTesting b with
  | none => rfl
  | some e =>
    have htesting : s.lamp.engines[e].testing = some b := by simpa using List.find?_some he
    obtain ⟨y, hy, -⟩ := (engine_testing_eq_some_iff _ _).mp htesting
    dsimp only
    rw [abortTest_of_running hy, if_pos rfl, hy]
    rfl

/-- The waiting requests of a post that fail at its silence. -/
def doomedAt (b : BayNo) (j : Job) : Bool := j.bay == some b && j != .ping b

theorem doomedAt_eq (b : BayNo) (j : Job) : (j.bay == some b && !j.isPingFor b) = doomedAt b j := by
  have hping : j.isPingFor b = (j == .ping b) := by cases j <;> simp [Job.isPingFor]
  rw [hping]
  rfl

/-- R174, step 1: the post SILENT, its probe timer started, its requests but the PING withdrawn. -/
def silentMarked (b : BayNo) (s : State) : State :=
  { s with bus := { s.bus with
    posts := s.bus.posts.set b { s.bus.posts[b] with silent := true, probe := some 2000 }
    waiting := s.bus.waiting.filter fun r => !doomedAt b r.job } }

/-- R174, step 2: the failures handed to the requesters. -/
def silentFailed (b : BayNo) (s : State) : State :=
  ((s.bus.waiting.map (·.job)).filter (doomedAt b)).foldl (fun u j => handFailure j u) (silentMarked b s)

/-- R174: the silence of a post. -/
def postSilenced (b : BayNo) (s : State) : State :=
  notifyBay .post b (reportToClearance b (readFailed b .postSilent (testSilenced b
    (silenceHeating b ((silentFailed b s).updBay b fun r => { r with candidate := none })))))

theorem declareSilent_eq (b : BayNo) (s : State) : declareSilent b s = postSilenced b s := by
  have hwaiting : failWaiting b (s.updPost b fun p => { p with silent := true, probe := some probeTime }) = silentFailed b s := by
    have hjobs : (s.bus.waiting.filter fun r => doomedAt b r.job).map (·.job) = (s.bus.waiting.map (·.job)).filter (doomedAt b) := by
      rw [List.filter_map]
      rfl
    unfold failWaiting
    simp only [doomedAt_eq]
    unfold silentFailed
    rw [← hjobs]
    rfl
  unfold declareSilent
  dsimp only
  rw [hwaiting, abortTestOn_eq, failRead_eq]
  rfl

/-! ## What stands after a silence -/

/-- R174: at bay b the post is SILENT with its probe timer started and only its PING waiting, there is no candidate occupancy, no place in the
on-set and no read, and both links are told. -/
def State.silentAt (s : State) (b : BayNo) (posts : Vector Post 24) : Prop :=
  (s.bus.posts = posts ∧ ∀ r ∈ s.bus.waiting, r.job.bay = some b → r.job = .ping b)
    ∧ (s.bay b).candidate = none ∧ (∀ m ∈ s.seq.onSet, m.bay ≠ b) ∧ s.reader.reading[b] = none
    ∧ s.dispatch.notices.post.getLsbD b = true ∧ s.workshop.notices.post.getLsbD b = true

theorem keptByFailures_silentAt {b : BayNo} {posts : Vector Post 24} (hposts : posts[b].silent = true) :
    KeptByFailures fun s => s.silentAt b posts :=
  (keptByFailures_quiet hposts).and <| (keptByFailures_candidate b).and <| (keptByFailures_offSet b).and <|
    (keptByFailures_notReading b).and <| keptByFailures_told b

theorem commandHeat_onSet (b : BayNo) (on : Bool) (s : State) : (commandHeat b on s).seq.onSet = s.seq.onSet := by
  unfold commandHeat
  split
  · rfl
  · rw [requestHeat_bus]
    rfl

theorem leaveOnSet_onSet (b : BayNo) (s : State) : ∀ m ∈ (leaveOnSet b s).seq.onSet, m.bay ≠ b := by
  intro m hm hb
  unfold leaveOnSet at hm
  split at hm
  · next hnone =>
    exact List.find?_eq_none.mp hnone m hm (by simpa using hb)
  · rw [commandHeat_onSet] at hm
    have hne := (List.mem_filter.mp hm).2
    simp [hb] at hne

theorem silenceHeating_onSet (b : BayNo) (s : State) : ∀ m ∈ (silenceHeating b s).seq.onSet, m.bay ≠ b := by
  unfold silenceHeating
  split
  · next hnone => exact fun m hm hb => List.find?_eq_none.mp hnone m hm (by simpa using hb)
  · exact leaveOnSet_onSet b s

theorem readFailed_reading (b : BayNo) (reason : ReadReason) (s : State) : (readFailed b reason s).reader.reading[b] = none := by
  unfold readFailed
  cases hr : s.reader.reading[b] with
  | none => exact hr
  | some y =>
    dsimp only
    rw [(pendingCompletion_decided b _).reported.keeps.2.1]
    exact Vector.getElem_set_self b.isLt

theorem readFailed_kept {P : State → Prop} (K : KeptByFailures P) {s : State} (h : P s) (b : BayNo) (reason : ReadReason) :
    P (readFailed b reason s) := failRead_eq b reason s ▸ K.failRead h b reason

theorem testSilenced_kept {P : State → Prop} (K : KeptByFailures P) {s : State} (h : P s) (b : BayNo) : P (testSilenced b s) :=
  abortTestOn_eq b s ▸ K.abortTestOn h b .postSilent

theorem single_getLsbD (b : BayNo) : (BaySet.single b).getLsbD b = true := by revert b; decide

/-- R174: each step of a silence establishes its part, and the later steps keep it. -/
theorem silentAt_postSilenced (b : BayNo) (s : State) :
    (postSilenced b s).silentAt b (s.bus.posts.set b { s.bus.posts[b] with silent := true, probe := some 2000 }) := by
  have hset : (s.bus.posts.set b { s.bus.posts[b] with silent := true, probe := some 2000 })[b]
      = { s.bus.posts[b] with silent := true, probe := some 2000 } := Vector.getElem_set_self b.isLt
  have hmarked : (silentMarked b s).bus.posts = s.bus.posts.set b { s.bus.posts[b] with silent := true, probe := some 2000 }
      ∧ ∀ r ∈ (silentMarked b s).bus.waiting, r.job.bay = some b → r.job = .ping b := by
    refine ⟨rfl, fun r hr hb => ?_⟩
    have hkept := (List.mem_filter.mp hr).2
    simpa [doomedAt, hb] using hkept
  generalize s.bus.posts.set b { s.bus.posts[b] with silent := true, probe := some 2000 } = posts at *
  have hsilent : posts[b].silent = true := by rw [hset]
  have hquiet := keptByFailures_quiet hsilent
  have hfailed := hquiet.foldl_handFailure hmarked ((s.bus.waiting.map (·.job)).filter (doomedAt b))
  have hcold : (fun s => (s.bus.posts = posts ∧ ∀ r ∈ s.bus.waiting, r.job.bay = some b → r.job = .ping b) ∧ (s.bay b).candidate = none)
      ((silentFailed b s).updBay b fun r => { r with candidate := none }) := ⟨hfailed, by rw [bay_updBay_same]⟩
  have hheating := (hquiet.and (keptByFailures_candidate b)).toKeptByReports.silenceHeating hcold b
  have hoff := silenceHeating_onSet b ((silentFailed b s).updBay b fun r => { r with candidate := none })
  unfold postSilenced
  generalize silenceHeating b ((silentFailed b s).updBay b fun r => { r with candidate := none }) = u at *
  have K := hquiet.and ((keptByFailures_candidate b).and (keptByFailures_offSet b))
  have hread := readFailed_kept K (testSilenced_kept K ⟨hheating.1, hheating.2, hoff⟩ b) b .postSilent
  have hidle := readFailed_reading b .postSilent (testSilenced b u)
  generalize readFailed b .postSilent (testSilenced b u) = v at *
  have L := hquiet.and ((keptByFailures_candidate b).and ((keptByFailures_offSet b).and (keptByFailures_notReading b)))
  obtain ⟨hbus, hcandidate, honSet, hreading⟩ := L.notifyBay (L.reportToClearance ⟨hread.1, hread.2.1, hread.2.2, hidle⟩ b) .post b
  refine ⟨hbus, hcandidate, honSet, hreading, ?_, ?_⟩
  · show (_ ||| BaySet.single b).getLsbD b = true
    rw [BitVec.getLsbD_or, single_getLsbD, Bool.or_true]
  · show (_ ||| BaySet.single b).getLsbD b = true
    rw [BitVec.getLsbD_or, single_getLsbD, Bool.or_true]

theorem chooseRequest_mem_arbitrate {s : State} : ∀ r ∈ (arbitrate s).bus.waiting, r ∈ s.bus.waiting := by
  intro r hr
  by_cases h : s.bus.wire ≠ .free ∨ s.bus.waiting = []
  · rwa [arbitrate_of_no_grant h] at hr
  · obtain ⟨hwire, hwait⟩ := not_or.mp h
    obtain ⟨q, -, harb⟩ := arbitrate_of_grant (not_not.mp hwire) hwait
    rw [harb] at hr
    exact List.mem_of_mem_erase hr

theorem silentAt_arbitrate {s : State} {b : BayNo} {posts : Vector Post 24} (h : s.silentAt b posts) : (arbitrate s).silentAt b posts := by
  obtain ⟨⟨hposts, hwaiting⟩, hrest⟩ := h
  exact ⟨⟨(arbitrate_posts s).trans hposts, fun r hr => hwaiting r (chooseRequest_mem_arbitrate r hr)⟩, hrest⟩

/-! ## A missing or bad response -/

/-- R173: the count of the post's failures rises. -/
def failureCounted (b : BayNo) (s : State) : State :=
  { s with bus := { s.bus with posts := s.bus.posts.set b { s.bus.posts[b] with failures := min 3 (s.bus.posts[b].failures + 1) } } }

theorem isPingFor_iff {j : Job} {b : BayNo} : j.isPingFor b = true ↔ j = .ping b := by cases j <;> simp [Job.isPingFor]

theorem finalFailure_of_ping {x : InFlight} {b : BayNo} (h : x.job = .ping b) (order : FailureOrder) (s : State) :
    finalFailure x b order s = freeWire s := if_pos (isPingFor_iff.mpr h)

theorem failures_counted (b : BayNo) (s : State) :
    (failureCounted b s).bus.posts[b] = { s.bus.posts[b] with failures := min 3 (s.bus.posts[b].failures + 1) } :=
  Vector.getElem_set_self b.isLt

theorem silent_counted (b : BayNo) (s : State) : (failureCounted b s).silent b = s.bus.posts[b].silent := by
  rw [State.silent, failures_counted]

theorem finalFailure_of_not_third {x : InFlight} {b : BayNo} {s : State} (hne : x.job ≠ .ping b)
    (h : ¬ (2 ≤ s.bus.posts[b].failures ∧ s.bus.posts[b].silent = false)) (order : FailureOrder) :
    finalFailure x b order s = handFlying (failureCounted b s) := by
  have hcount : (failureCounted b s).bus.posts[b].failures = min 3 (s.bus.posts[b].failures + 1) := congrArg Post.failures (failures_counted b s)
  refine (if_neg (mt isPingFor_iff.mp hne)).trans (if_pos ?_)
  show (failureCounted b s).bus.posts[b].failures < 3 ∨ (failureCounted b s).silent b = true
  rw [hcount, silent_counted]
  by_cases hs : s.bus.posts[b].silent = true
  · exact .inr hs
  · have : ¬ 2 ≤ s.bus.posts[b].failures := fun h2 => h ⟨h2, Bool.eq_false_iff.mpr hs⟩
    exact .inl (by omega)

/-- Log 3: the failure and the silence in the order of the event. -/
def thirdFailure (b : BayNo) (s : State) : FailureOrder → State
  | .failureFirst => postSilenced b (handFlying s)
  | .silenceFirst => handFlying (postSilenced b s)

theorem silentAt_thirdFailure (b : BayNo) (s : State) (order : FailureOrder) :
    (thirdFailure b s order).silentAt b (s.bus.posts.set b { s.bus.posts[b] with silent := true, probe := some 2000 }) := by
  have hsilent : (s.bus.posts.set b { s.bus.posts[b] with silent := true, probe := some 2000 })[b].silent = true :=
    congrArg Post.silent (Vector.getElem_set_self b.isLt)
  cases order with
  | failureFirst =>
    have hposts : (handFlying s).bus.posts = s.bus.posts := (keptByFailures_posts s.bus.posts).handFlying rfl
    have h := silentAt_postSilenced b (handFlying s)
    simp only [hposts] at h
    exact h
  | silenceFirst => exact (keptByFailures_silentAt hsilent).handFlying (silentAt_postSilenced b s)

/-- R174: the post after its third failure. -/
theorem posts_thirdFailure {b : BayNo} {s : State} (h2 : 2 ≤ s.bus.posts[b].failures) :
    ((failureCounted b s).bus.posts.set b { (failureCounted b s).bus.posts[b] with silent := true, probe := some 2000 })[b]
      = ⟨true, 3, some 2000⟩ := by
  have hset : ((failureCounted b s).bus.posts.set b { (failureCounted b s).bus.posts[b] with silent := true, probe := some 2000 })[b]
      = { (failureCounted b s).bus.posts[b] with silent := true, probe := some 2000 } := Vector.getElem_set_self b.isLt
  have hcount : min 3 (s.bus.posts[b].failures + 1) = 3 := by omega
  rw [hset, failures_counted, hcount]

theorem finalFailure_of_third {x : InFlight} {b : BayNo} {s : State} (hne : x.job ≠ .ping b) (h2 : 2 ≤ s.bus.posts[b].failures)
    (hs : s.bus.posts[b].silent = false) (order : FailureOrder) : finalFailure x b order s = thirdFailure b (failureCounted b s) order := by
  have hcount : (failureCounted b s).bus.posts[b].failures = min 3 (s.bus.posts[b].failures + 1) := congrArg Post.failures (failures_counted b s)
  have hthird : ¬ ((failureCounted b s).bus.posts[b].failures < 3 ∨ (failureCounted b s).silent b = true) := by
    rw [hcount, silent_counted, hs]
    rintro (h | h)
    · omega
    · exact absurd h (by decide)
  refine (if_neg (mt isPingFor_iff.mp hne)).trans ((if_neg hthird).trans ?_)
  cases order <;> simp only [declareSilent_eq] <;> rfl

theorem handFlying_of_flying {x : InFlight} {s : State} (hwire : s.bus.wire = .busy x) :
    handFlying s = if x.discarded then freeWire s else handFailure x.job (freeWire s) := by
  simp only [handFlying, hwire]

/-- R173: the frame is sent again once, and then the failure is final. -/
theorem noGoodResponse_of_flying {x : InFlight} {b : BayNo} {s : State} (hwire : s.bus.wire = .busy x) (hbay : x.job.bay = some b)
    (order : FailureOrder) : noGoodResponse order s = arbitrate (if x.isRetry then finalFailure x b order s
      else { s with bus := { s.bus with wire := .busy { x with isRetry := true, timer := some 20 } } }) := by
  simp only [noGoodResponse, hwire, hbay]
  rfl

theorem exec_responseTimeout {order : FailureOrder} {s : State} (h : s.resetHeld = false) :
    exec (.responseTimeout order) s = .next (noGoodResponse order s) := event_of_not_held h

theorem exec_no_response {c : Instr} {order : FailureOrder} {s : State} (h : s.resetHeld = false)
    (hc : c = .responseTimeout order ∨ ∃ cause, c = .badResponse cause order) : exec c s = .next (noGoodResponse order s) := by
  rcases hc with rfl | ⟨cause, rfl⟩
  · exact exec_responseTimeout h
  · exact exec_badResponse h

theorem nothing_awaited {s : State} (h : ∀ x, s.bus.wire = .busy x → x.job = .allOff) (order : FailureOrder) :
    noGoodResponse order s = s ∧ ∀ r, takeResponse r order s = s := by
  unfold noGoodResponse takeResponse
  cases hw : s.bus.wire with
  | free => exact ⟨rfl, fun _ => rfl⟩
  | quiet => exact ⟨rfl, fun _ => rfl⟩
  | busy x =>
    have hnone : x.job.bay = none := by rw [h x hw]; rfl
    simp only [hnone]
    exact ⟨trivial, fun _ => trivial⟩

/-! ## What a failure does at its requester -/

theorem silenceHeating_of_none {b : BayNo} {s : State} (h : s.seq.member b = none) : silenceHeating b s = s := by
  simp only [silenceHeating, h]

theorem leaveOnSet_held (b : BayNo) (s : State) : (leaveOnSet b s).seq.held = s.seq.held := by
  unfold leaveOnSet commandHeat
  split
  · rfl
  · split
    · rfl
    · rw [requestHeat_bus]
      rfl

theorem silenceHeating_of_member {b : BayNo} {s : State} {m : Member} (h : s.seq.member b = some m) : silenceHeating b s =
    { leaveOnSet b s with seq := { (leaveOnSet b s).seq with held := s.seq.held.set b (some ⟨m.units, m.feeder⟩) } } := by
  rw [← leaveOnSet_held]
  simp only [silenceHeating, h]
  rfl

theorem commandHeat_commanded (b : BayNo) (on : Bool) (s : State) : (commandHeat b on s).seq.commanded[b].on = on := by
  unfold commandHeat
  split
  · next h => exact h
  · rw [requestHeat_bus]
    exact congrArg Commanded.on (Vector.getElem_set_self b.isLt)

theorem commandHeat_bus_of_silent {b : BayNo} {s : State} (h : s.bus.posts[b].silent = true) (on : Bool) : (commandHeat b on s).bus = s.bus := by
  unfold commandHeat
  split
  · rfl
  · rw [requestHeat_bus]
    exact if_pos h

theorem leaveOnSet_of_silent {b : BayNo} {s : State} {m : Member} (hm : s.seq.member b = some m) (h : s.bus.posts[b].silent = true) :
    (leaveOnSet b s).seq.commanded[b].on = false ∧ (leaveOnSet b s).bus = s.bus := by
  simp only [leaveOnSet, hm]
  exact ⟨commandHeat_commanded b false _, (commandHeat_bus_of_silent (s := s.updSeq _) h false).trans rfl⟩

theorem member_eq_none_of {q : Sequencer} {b : BayNo} (h : ∀ m ∈ q.onSet, m.bay ≠ b) : q.member b = none :=
  List.find?_eq_none.mpr fun m hm => by simpa using h m hm

/-- R10, R12: a failed ident starts the retry timer where an ident is still wanted. -/
theorem handFailure_ident (b : BayNo) (s : State) :
    handFailure (.ident b) s = if (s.bay b).wantsIdent then startRetry b s else s := by
  show takeIdent b .noCoach s = _
  unfold takeIdent identArrived identUnconfirmed
  dsimp only
  rw [ite_self]

theorem wantsIdent_iff (r : Bay) :
    r.wantsIdent = true ↔ r.plug = true ∧ (r.state = .arrived ∨ (r.state = .bound ∧ r.unconfirmed = true)) := by
  simp [Bay.wantsIdent]

/-- R110: a failed step aborts the test that runs on the engine. -/
theorem failStep_of_running {e : EngineNo} {s : State} {y : RunningTest} (hy : s.lamp.engines[e] = .running y) :
    failStep e s = takeAll (if s.bus.posts[y.bay].silent = true then setEngine e .free (s.testAborted e y .busFailed)
      else placeJob (.lampEnd e y.bay) (s.testAborted e y .busFailed)) := by
  have hposts := (testAborted_keeps s e (x := y) rfl .busFailed).2
  refine congrArg takeAll ?_
  cases hs : s.bus.posts[y.bay].silent with
  | true =>
    have hsilent : (s.testAborted e y .busFailed).silent y.bay = true := by
      rw [State.silent, hposts]
      exact hs
    rw [abortTest_of_running hy, startRelease_of_silent hsilent]
    rfl
  | false => exact abortTest_of_responding hy rfl (by simp) hs

theorem failStep_of_not_running {e : EngineNo} {s : State} (h : ∀ y, s.lamp.engines[e] ≠ .running y) : failStep e s = takeAll s := by
  refine congrArg takeAll ?_
  unfold abortTest
  cases hx : s.lamp.engines[e] with
  | free => rfl
  | releasing b => rfl
  | running y => exact absurd hx (h y)

theorem finishRelease_of_not_releasing {e : EngineNo} {s : State} (h : ∀ x, s.lamp.engines[e] ≠ .releasing x) : finishRelease e s = s := by
  unfold finishRelease
  cases hx : s.lamp.engines[e] with
  | free => rfl
  | running y => rfl
  | releasing b => exact absurd hx (h b)

theorem handFailure_signal_of_responding {b : BayNo} {s : State} (a : Aspect) (h : s.bus.posts[b].silent = false) :
    handFailure (.signal b a) s = if s.waits (Job.isSignalFor b) then s else placeJob (.signal b s.clearance.signals[b]) s := by
  unfold handFailure
  dsimp only
  cases hw : s.waits (Job.isSignalFor b) with
  | true => rfl
  | false =>
    have hpost : s.silent b = false := h
    simp [requestSignal, placeOrReplace, hpost, hw]

/-- Settles O46: the retry, the final failure and the third of a post in both orders, the silence of the heating, and each requester. -/
theorem transactionFailures : Obligations.TransactionFailures := by
  unfold Obligations.TransactionFailures
  intro readEnds engine silenced
  have hsilenced : ∀ b s, silenced b s = postSilenced b s := fun _ _ => rfl
  refine ⟨fun x b c order s hheld hwire hbay hc => ?responses, fun c order s hheld hnone hc => ?nothing, fun b s => ?heating,
    fun b e c page s => ?requesters⟩
  case responses =>
    intro freed counting counted failed goes third
    have hgoes : ∀ t, noGoodResponse order s = t → goes t := fun t ht => (exec_no_response hheld hc).trans (congrArg _ ht)
    have hflying := noGoodResponse_of_flying hwire hbay order
    have hfinal : x.isRetry = true → noGoodResponse order s = arbitrate (finalFailure x b order s) := fun h => by rw [hflying, if_pos h]
    have hhanded : handFlying (failureCounted b s) = if x.discarded then counted else handFailure x.job counted := handFlying_of_flying hwire
    refine ⟨fun hretry => hgoes _ ?_, fun hretry hping => hgoes _ ?_, fun hretry hne hthird => ?_, fun hretry hne hthird => ?_⟩
    · rw [hflying, if_neg (Bool.eq_false_iff.mp hretry)]
      exact arbitrate_of_no_grant (.inl (by simp))
    · rw [hfinal hretry, finalFailure_of_ping hping]
      rfl
    · have hlast : ∀ t, (if x.discarded then counted else handFailure x.job counted) = t → goes (arbitrate t) := fun t ht => hgoes _ (by
        rw [hfinal hretry, finalFailure_of_not_third hne hthird, hhanded, ht])
      refine ⟨fun h => hlast _ ?_, fun hd ⟨a, ha⟩ hresponds => hlast _ ?_, fun hd => hlast _ ?_⟩
      · rcases h with hd | hjob | ⟨on, hjob⟩
        · rw [if_pos hd]
        · rw [hjob, show handFailure (.sense b) counted = counted from rfl, ite_self]
        · rw [hjob, show handFailure (.heat b on) counted = counted from rfl, ite_self]
      · rw [hd, ha]
        refine handFailure_signal_of_responding a ?_
        exact (silent_counted b s).trans hresponds
      · rw [hd]
        rfl
    · obtain ⟨h2, hs⟩ := hthird
      have hresult := (hfinal hretry).trans (congrArg arbitrate (finalFailure_of_third hne h2 hs order))
      have hspec := silentAt_arbitrate (silentAt_thirdFailure b (failureCounted b s) order)
      obtain ⟨⟨hposts, hwaiting⟩, hcandidate, honSet, hreading, hdispatch, hworkshop⟩ := hspec
      refine ⟨_, hgoes _ hresult, fun ho => by rw [ho]; rfl, fun ho => by rw [ho]; rfl, ?_, hcandidate, member_eq_none_of honSet, hreading,
        hwaiting, fun l => ?_⟩
      · rw [hposts]
        exact posts_thirdFailure h2
      · cases l
        · exact hdispatch
        · exact hworkshop
  case nothing =>
    rcases hc with hc | hc | ⟨r, rfl⟩
    · rw [exec_no_response hheld (.inl hc), (nothing_awaited hnone order).1]
    · rw [exec_no_response hheld (.inr hc), (nothing_awaited hnone order).1]
    · rw [exec_postResponse hheld, (nothing_awaited hnone order).2]
  case heating =>
    intro t
    refine ⟨silenceHeating_of_none, fun m hm => ⟨silenceHeating_of_member hm, fun hs => ?_⟩⟩
    obtain ⟨hcommanded, hbus⟩ := leaveOnSet_of_silent hm hs
    have ht : t = _ := silenceHeating_of_member hm
    rw [ht]
    exact ⟨rfl, member_eq_none_of (leaveOnSet_onSet b s), hcommanded, hbus⟩
  case requesters =>
    have hsteps : ∀ j ∈ [Job.lampStep e b c, .lampRead e b c], handFailure j s = failStep e s := fun j hj => by
      rcases List.mem_pair.mp hj with rfl | rfl <;> rfl
    refine ⟨failRead_eq b .busFailed s, ⟨fun hasked => ?_, fun hasked => ?_⟩, fun j hj => ⟨fun h => ?_, fun y hy => ?_⟩, fun ⟨x, hx⟩ => ?_,
      finishRelease_of_not_releasing⟩
    · rw [handFailure_ident, if_pos ((wantsIdent_iff _).mpr hasked)]
      rfl
    · rw [handFailure_ident, if_neg (mt (wantsIdent_iff _).mp hasked)]
    · rw [hsteps j hj, failStep_of_not_running h]
    · exact (hsteps j hj).trans (failStep_of_running hy)
    · exact finishRelease_of_releasing hx

end Sys2Proof.Machine

/-! PROOF. The timed events of the stores: a deferral, a pending clearance and an ALERT that expire, and the ages. -/

namespace Sys2Proof.Machine

theorem exec_deferralExpiry {id : Half} {s : State} (h : s.resetHeld = false) :
    exec (.deferralExpiry id) s = .next (expireDeferral id.toNat s) := event_of_not_held h

theorem exec_pendingTimerExpiry {ref : Half} {s : State} (h : s.resetHeld = false) :
    exec (.pendingTimerExpiry ref) s = .next (pendingExpiry ref.toNat s) := event_of_not_held h

theorem exec_alertTimerExpiry {b : BayNo} {s : State} (h : s.resetHeld = false) :
    exec (.alertTimerExpiry b) s = .next (alertExpiry b s) := event_of_not_held h

theorem exec_ageRise {u : TimeUnit} {s : State} (h : s.resetHeld = false) : exec (.ageRise u) s = .next (raiseAges u s) := event_of_not_held h

/-- R145: the entry is OPEN again, and what its action does follows. -/
theorem expireDeferral_of_deferred {id : Nat} {b : BayNo} {d : Defect} {ms : Nat} {s : State} (hd : s.store.find id = some (b, d))
    (hstate : d.state = .deferred ms) : expireDeferral id s =
      (let opened := changeDefect b id (fun e => { e with state := .opened }) s
      arbitrate (match d.action with
        | .block => reportToClearance b opened
        | .inhibit => leaveOnSet b opened
        | .note => opened)) := by
  simp only [expireDeferral, hd, hstate]
  rfl

theorem expireDeferral_of_standing {id : Nat} {b : BayNo} {d : Defect} {s : State} (hd : s.store.find id = some (b, d))
    (hstate : d.state ∈ [.opened, .acknowledged]) : expireDeferral id s = s := by
  rcases List.mem_pair.mp hstate with h | h <;> simp only [expireDeferral, hd, h]

theorem pendingExpiry_of_find {ref : Nat} {p : PendingClearance} {s : State} (hp : s.clearance.find ref = some p) :
    pendingExpiry ref s = refuse ref p.bay (0x400#12 ||| (if s.testActive p.bay then 0x020#12 else 0#12)
      ||| (if s.reader.reading[p.bay] ≠ none then 0x040#12 else 0#12)) s := by
  have hreading : reasonIf (s.isReading p.bay) reasonFaultRead = if s.reader.reading[p.bay] ≠ none then 0x040#12 else 0#12 :=
    if_congr (isReading_iff s p.bay) rfl rfl
  simp only [pendingExpiry, hp]
  rw [← hreading]
  rfl

theorem alertExpiry_of_alert {b : BayNo} {s : State} (h : s.clearance.alerts[b] ≠ none) (ha : s.clearance.signals[b] = .alert) :
    alertExpiry b s = arbitrate (requestSignal b .red { s with clearance := { s.clearance with
      signals := s.clearance.signals.set b .red, alerts := s.clearance.alerts.set b none } }) := by
  obtain ⟨k, hk⟩ := Option.ne_none_iff_exists'.mp h
  have hne : ¬ s.clearance.signals[b] = .red := by rw [ha]; decide
  simp only [alertExpiry, hk]
  rw [if_pos ha, setSignal, if_neg hne]
  rfl

theorem elapse_age (d : Defect) : d.elapse.age = d.age := by
  unfold Defect.elapse
  split <;> rfl

/-- One millisecond leaves the cabins' temperatures and ages their readings. -/
theorem passMillisecond_cabins (s : State) : (passMillisecond s).bays.map (·.cabin)
    = (s.bays.map fun r : Bay => ({ r with cabin := r.cabin.map fun c => { c with age := olderBy 1000 1 c.age } } : Bay)).map (·.cabin) := by
  show ((s.bays.map Bay.elapse).map _).map _ = _
  rw [Vector.map_map, Vector.map_map, Vector.map_map]
  rfl

theorem passMillisecond_defects (s : State) (b : BayNo) :
    (passMillisecond s).store.lists[b].map (·.age) = s.store.lists[b].map fun d => olderBy 60000 1 d.age := by
  have hlist : (passMillisecond s).store.lists[b]
      = (s.store.lists[b].map Defect.elapse).map fun d => { d with age := olderBy 60000 1 d.age } := by
    show ((s.store.lists.map (·.map Defect.elapse)).map (·.map fun d => { d with age := olderBy minuteMs 1 d.age }))[b.val] = _
    rw [Vector.getElem_map, Vector.getElem_map]
    rfl
  rw [hlist, List.map_map, List.map_map]
  exact List.map_congr_left fun d _ => congrArg (olderBy 60000 1) (elapse_age d)

/-- Settles O51: each expiry by whether its timer runs, and the ages by their unit and by the millisecond. -/
theorem timedEvents : Obligations.TimedEvents := by
  unfold Obligations.TimedEvents
  refine ⟨fun id s hheld => ?deferral, fun ref s hheld hk => ?pending, fun b s hheld => ?alert, fun s hheld => ?ages⟩
  case deferral =>
    intro goes
    have hgoes : ∀ t, expireDeferral id.toNat s = t → goes t := fun t ht => by
      simp only [goes, exec_deferralExpiry hheld, ht]
    refine ⟨fun h => hgoes _ ?_, fun b d hd => ?_⟩
    · simp only [expireDeferral, store_find_eq_none h]
    · intro opened
      have hopened : changeDefect b id.toNat (fun e => { e with state := .opened }) s = opened := changeDefect_eq ..
      refine ⟨fun hstate => hgoes _ (expireDeferral_of_standing hd hstate), fun ms hms => ?_⟩
      have hfires := expireDeferral_of_deferred hd hms
      rw [hopened] at hfires
      refine ⟨fun ha => hgoes _ ?_, fun ha => hgoes _ ?_, fun ha => hgoes _ ?_⟩ <;> rw [hfires, ha]
  case pending =>
    intro goes
    have hgoes : ∀ t, pendingExpiry ref.toNat s = t → goes t := fun t ht => by
      simp only [goes, exec_pendingTimerExpiry hheld, ht]
    refine ⟨fun h => hgoes _ ?_, fun p hp => hgoes _ ?_⟩
    · have hnone : s.clearance.find ref.toNat = none := List.find?_eq_none.mpr fun p hp => by simpa using h p hp
      simp only [pendingExpiry, hnone]
    · exact pendingExpiry_of_find hp
  case alert =>
    intro stopped
    refine ⟨fun h => ?_, fun h hne => ?_, fun h ha => ?_⟩
    · rw [exec_alertTimerExpiry hheld]
      simp only [alertExpiry, h]
    · obtain ⟨k, hk⟩ := Option.ne_none_iff_exists'.mp h
      rw [exec_alertTimerExpiry hheld]
      simp only [alertExpiry, hk]
      exact congrArg _ (if_neg hne)
    · intro red
      have hexec : exec (.alertTimerExpiry b) s = .next (arbitrate (requestSignal b .red red)) :=
        (exec_alertTimerExpiry hheld).trans (congrArg _ (alertExpiry_of_alert h ha))
      have hwaits : red.waits (Job.isSignalFor b) = s.waits (Job.isSignalFor b) := rfl
      rw [hexec]
      refine ⟨fun hs => ?_, fun hs hw => ?_, fun hs hw => ?_⟩
      · rw [requestSignal, if_pos (show red.silent b = true from hs)]
      · rw [requestSignal, if_neg (show ¬ red.silent b = true from Bool.eq_false_iff.mp hs), placeOrReplace, hwaits,
          if_neg (Bool.eq_false_iff.mp hw)]
      · rw [requestSignal, if_neg (show ¬ red.silent b = true from Bool.eq_false_iff.mp hs), placeOrReplace, hwaits, if_pos hw]
  case ages =>
    intro up cabins aged
    exact ⟨exec_ageRise hheld, exec_ageRise hheld, rfl, passMillisecond_cabins s, rfl, rfl, rfl, passMillisecond_defects s⟩

end Sys2Proof.Machine

/-! PROOF. The teardown of a bay: each owner's part as one equation, then their composition. -/

namespace Sys2Proof.Machine

/-! ## The parts of a teardown -/

/-- R90: the bus after a commanded OFF. -/
def State.heatOffBus (s : State) (b : BayNo) : Bus :=
  if s.seq.commanded[b].on then (if s.bus.posts[b].silent then s.bus else s.asked (Job.isHeatFor b) (.heat b false)) else s.bus

/-- R90: a commanded OFF, and the HEAT request that the change asks for. -/
theorem commandHeat_off (b : BayNo) (s : State) : commandHeat b false s = { s with
    seq := { s.seq with commanded := if s.seq.commanded[b].on then s.seq.commanded.set b ⟨false, s.now⟩ else s.seq.commanded }
    bus := s.heatOffBus b } := by
  unfold commandHeat State.heatOffBus
  cases hon : s.seq.commanded[b].on with
  | false => rfl
  | true =>
    rw [if_neg (by decide), requestHeat_bus, if_pos rfl, if_pos rfl]
    rfl

theorem commandHeat_off_of_off {b : BayNo} {s : State} (h : s.seq.commanded[b].on = false) : commandHeat b false s = s := if_pos h

/-- R91: the bay's entry that a leave of the on-set marks. -/
def Sequencer.chainLeft (q : Sequencer) (b : BayNo) : List Entry :=
  match q.member b with
  | .none => q.chain
  | some m => markMissed q.chain m.entry

/-- R100: the chain after a teardown at the sequencer. -/
def missWaiting (b : BayNo) (chain : List Entry) : List Entry :=
  chain.map fun e => if e.bay = b ∧ e.status = .waiting then { e with status := .missed } else e

theorem filter_onSet_of_none {q : Sequencer} {b : BayNo} (h : q.member b = none) : q.onSet.filter (·.bay != b) = q.onSet :=
  List.filter_eq_self.mpr fun m hm => by simpa using List.find?_eq_none.mp h m hm

theorem leaveOnSet_chain (b : BayNo) (s : State) : (leaveOnSet b s).seq.chain = s.seq.chainLeft b := by
  unfold leaveOnSet Sequencer.chainLeft
  cases s.seq.member b with
  | none => rfl
  | some m =>
    dsimp only
    rw [commandHeat_off]
    rfl

theorem tearDownHeating_eq (b : BayNo) (s : State) : tearDownHeating b s = { s with
    seq := { s.seq with
      onSet := s.seq.onSet.filter (·.bay != b)
      chain := missWaiting b (leaveOnSet b s).seq.chain
      commanded := if s.seq.commanded[b].on then s.seq.commanded.set b ⟨false, s.now⟩ else s.seq.commanded }
    bus := s.heatOffBus b } := by
  rw [leaveOnSet_chain, State.heatOffBus]
  unfold tearDownHeating leaveOnSet Sequencer.chainLeft
  cases hm : s.seq.member b with
  | none =>
    dsimp only
    rw [commandHeat_off, filter_onSet_of_none hm]
    rfl
  | some m =>
    dsimp only
    have hoff := commandHeat_commanded b false (s.updSeq fun q => { q with onSet := q.onSet.filter (·.bay != b), chain := markMissed q.chain m.entry })
    rw [commandHeat_off_of_off (s := (commandHeat b false _).updSeq _) hoff, commandHeat_off]
    rfl

theorem tearDownStore_eq (b : BayNo) (s : State) : tearDownStore b s = notifyBay .defect b { s with
    bays := modifyAt s.bays b fun r => { r with dropped := s.store.lists[b].length }
    store := { s.store with
      free := s.store.free ++ s.store.lists[b].map (·.slot)
      lists := s.store.lists.set b []
      marks := s.store.marks.set b ⟨false, false, false⟩ } } := by
  have hall : (s.store.lists[b].filter fun _ => true) = s.store.lists[b] := List.filter_true _
  have hnone : modifyAt s.store.lists b (·.filter fun _ => false) = s.store.lists.set b [] :=
    congrArg (s.store.lists.set b ·) (List.filter_false _)
  unfold tearDownStore State.updStore Store.removeWhere
  dsimp only
  rw [hall]
  simp only [Bool.not_true]
  rw [hnone]
  rfl

theorem tearDownReader_eq (b : BayNo) (s : State) : tearDownReader b s = { s with
    bus := s.withdrawn (Job.isPageFor b)
    reader := { s.reader with
      reading := s.reader.reading.set b none
      scan := s.reader.scan.set b none
      readSince := s.reader.readSince.set b false
      last := s.reader.last.set b none } } := by
  unfold tearDownReader
  rw [withdraw_withdrawn]
  rfl

/-- R20: a bay's record without its coach. -/
def Bay.uncoached (r : Bay) : Bay :=
  { r with coach := none, cls := none, cabin := none, cabinAtUnplug := none, unconfirmed := false, retry := none }

theorem clearCoach_eq (b : BayNo) (s : State) : clearCoach b s = { s with
    bus := s.withdrawn (Job.isIdentFor b)
    bays := modifyAt s.bays b Bay.uncoached } := by
  unfold clearCoach withdrawIdent
  rw [withdraw_withdrawn]
  rfl

/-! ## The lamp unit's part -/

/-- R114: an engine after the teardown of a bay; a RELEASING one keeps. -/
def Engine.tornDown (b : BayNo) (silent : Bool) (e : Engine) : Engine :=
  if e.testing = some b then (if silent then .free else .releasing b) else e

theorem map_tornDown_of_none {s : State} {b : BayNo} {silent : Bool} (h : s.engineTesting b = none) :
    s.lamp.engines.map (Engine.tornDown b silent) = s.lamp.engines := by
  refine Vector.ext fun i hi => ?_
  have hne : s.lamp.engines[i].testing ≠ some b := by
    simpa using List.find?_eq_none.mp h ⟨i, hi⟩ (List.mem_finRange _)
  rw [Vector.getElem_map, Engine.tornDown, if_neg hne]

/-- R106, R114: in a sound lamp unit one engine runs the bay's test, and no other is touched. -/
theorem map_tornDown_of_some {s : State} {b : BayNo} {silent : Bool} {e : EngineNo} (hk : s.lamp.sound) (h : s.engineTesting b = some e) :
    s.lamp.engines.map (Engine.tornDown b silent) = s.lamp.engines.set e (if silent then .free else .releasing b) := by
  have htest : s.lamp.engines[e].testing = some b := by simpa using List.find?_some h
  refine Vector.ext fun i hi => ?_
  rw [Vector.getElem_map, Engine.tornDown]
  by_cases hie : e.val = i
  · subst hie
    exact (if_pos htest).trans (Vector.getElem_set_self e.isLt).symm
  · have hne : s.lamp.engines[i].testing ≠ some b := fun hi' => by
      obtain ⟨x, hx, hxb⟩ := (engine_testing_eq_some_iff _ b).mp hi'
      have hother := engineTesting_of_sound (e := ⟨i, hi⟩) hk hx hxb
      rw [h] at hother
      exact hie (congrArg Fin.val (Option.some.inj hother))
    rw [if_neg hne, Vector.getElem_set_ne _ _ hie]

theorem any_testing_iff (s : State) (b : BayNo) :
    (s.lamp.engines.toList.any fun e => e.testing == some b) = (s.engineTesting b).isSome := by
  rw [Bool.eq_iff_iff, State.engineTesting, List.find?_isSome, List.any_eq_true]
  constructor
  · rintro ⟨x, hx, hb⟩
    obtain ⟨i, hi, rfl⟩ := Vector.mem_iff_getElem.mp (Vector.mem_toList_iff.mp hx)
    exact ⟨⟨i, hi⟩, List.mem_finRange _, hb⟩
  · rintro ⟨e, -, hb⟩
    exact ⟨_, Vector.mem_toList_iff.mpr (Vector.getElem_mem e.isLt), hb⟩

/-- R114: the bus after the teardown of a bay under test or not. -/
def State.lampTornBus (s : State) (b : BayNo) : Bus :=
  match s.engineTesting b with
  | none => s.bus
  | some e => if s.bus.posts[b].silent then s.withdrawn (Job.isStepOf e)
    else (placeJob (.lampEnd e b) { s with bus := s.withdrawn (Job.isStepOf e) }).bus

/-- R114: the queue without the bay, its engine released and its result gone. -/
def State.lampTorn (s : State) (b : BayNo) : State :=
  { s with
    lamp := { s.lamp with
      queue := s.lamp.queue.filter (·.bay != b)
      engines := s.lamp.engines.map (Engine.tornDown b s.bus.posts[b].silent)
      results := s.lamp.results.set b none }
    bus := s.lampTornBus b }

theorem endTest_of_unbound {b : BayNo} {s : State} (h : s.book.boundTo b = none) : endTest b s = notifyBay .lamp b s := by
  have hbook : (notifyBay .lamp b s).book.boundTo b = none := h
  simp only [endTest, pendingCompletion, hbook]

theorem startRelease_stopSteps (e : EngineNo) (b : BayNo) (s : State) : startRelease e b (stopSteps e s) = { s with
    lamp := { s.lamp with engines := s.lamp.engines.set e (if s.bus.posts[b].silent then .free else .releasing b) }
    bus := if s.bus.posts[b].silent then s.withdrawn (Job.isStepOf e)
      else (placeJob (.lampEnd e b) { s with bus := s.withdrawn (Job.isStepOf e) }).bus } := by
  rw [stopSteps, withdraw_withdrawn]
  unfold startRelease State.silent
  have hposts : (s.withdrawn (Job.isStepOf e)).posts = s.bus.posts := rfl
  dsimp only
  rw [hposts]
  cases s.bus.posts[b].silent <;> rfl

theorem tearDownLamp_eq {b : BayNo} {s : State} (hbook : s.book.boundTo b = none) (hk : s.lamp.sound) :
    tearDownLamp b s = if s.lamp.queue.any (·.bay == b) || s.lamp.engines.toList.any fun e => e.testing == some b
      then notifyBay .lamp b (s.lampTorn b) else s.lampTorn b := by
  rw [any_testing_iff, State.lampTorn, State.lampTornBus]
  unfold tearDownLamp
  cases he : s.engineTesting b with
  | none =>
    rw [map_tornDown_of_none he]
    simp only [Option.isSome_none, Bool.or_false]
    split
    · exact endTest_of_unbound hbook
    · rfl
  | some e =>
    rw [map_tornDown_of_some hk he]
    simp only [Option.isSome_some, Bool.or_true, if_true]
    rw [startRelease_stopSteps]
    exact endTest_of_unbound hbook

/-! ## The whole -/

/-- R100, R114, R135, R166, R20: the requests a teardown makes and withdraws, in its order. -/
def State.tornBus (s : State) (b : BayNo) : Bus :=
  let released : State := { s with bus := ({ s with bus := s.heatOffBus b } : State).lampTornBus b }
  let unread : State := { s with bus := released.withdrawn (Job.isPageFor b) }
  let red : State := { s with
    bus := if s.clearance.signals[b] = .red ∨ s.bus.posts[b].silent = true then unread.bus else unread.signalled b .red }
  red.withdrawn (Job.isIdentFor b)

/-- R151, R120: the notices of a teardown. -/
def State.tornNotices (s : State) (b : BayNo) : State :=
  if s.lamp.queue.any (·.bay == b) || s.lamp.engines.toList.any fun e => e.testing == some b
    then notifyBay .lamp b (notifyBay .defect b s) else notifyBay .defect b s

theorem exists_heatOffBus (s : State) (b : BayNo) : ∃ rs, s.heatOffBus b = { s.bus with waiting := rs } := by
  unfold State.heatOffBus
  split
  · split
    · exact ⟨_, rfl⟩
    · exact ⟨_, rfl⟩
  · exact ⟨_, rfl⟩

theorem exists_lampTornBus (s : State) (b : BayNo) : ∃ rs wire, s.lampTornBus b = { s.bus with waiting := rs, wire := wire } := by
  unfold State.lampTornBus
  split
  · exact ⟨_, _, rfl⟩
  · split
    · exact ⟨_, _, rfl⟩
    · exact ⟨_, _, rfl⟩

theorem lampTornBus_congr {u v : State} (hlamp : u.lamp = v.lamp) (hbus : u.bus = v.bus) (b : BayNo) : u.lampTornBus b = v.lampTornBus b := by
  cases u
  cases v
  cases hlamp
  cases hbus
  rfl

/-- R135, R166, R20: the parts of the reader, the clearance unit and the bay table. -/
theorem tearDown_last (b : BayNo) (s : State) : clearCoach b (setSignal b .red (tearDownReader b s)) = { s with
    bays := modifyAt s.bays b Bay.uncoached
    reader := { s.reader with
      reading := s.reader.reading.set b none
      scan := s.reader.scan.set b none
      readSince := s.reader.readSince.set b false
      last := s.reader.last.set b none }
    clearance := { s.clearance with
      signals := s.clearance.signals.set b .red
      alerts := if s.clearance.signals[b] = .red then s.clearance.alerts else s.clearance.alerts.set b none }
    bus :=
      let unread : State := { s with bus := s.withdrawn (Job.isPageFor b) }
      let red : State := { s with
        bus := if s.clearance.signals[b] = .red ∨ s.bus.posts[b].silent = true then unread.bus else unread.signalled b .red }
      red.withdrawn (Job.isIdentFor b) } := by
  rw [tearDownReader_eq, setSignal_eq, clearCoach_eq]
  rfl

/-- R20: the state after a teardown. -/
def State.tornAt (s : State) (b : BayNo) : State :=
  { s.tornNotices b with
    bays := modifyAt s.bays b fun r => { r.uncoached with dropped := s.store.lists[b].length }
    seq := (tearDownHeating b s).seq
    store := { s.store with
      free := s.store.free ++ s.store.lists[b].map (·.slot)
      lists := s.store.lists.set b []
      marks := s.store.marks.set b ⟨false, false, false⟩ }
    lamp := (s.lampTorn b).lamp
    reader := { s.reader with
      reading := s.reader.reading.set b none
      scan := s.reader.scan.set b none
      readSince := s.reader.readSince.set b false
      last := s.reader.last.set b none }
    clearance := { s.clearance with
      signals := s.clearance.signals.set b .red
      alerts := if s.clearance.signals[b] = .red then s.clearance.alerts else s.clearance.alerts.set b none }
    bus := s.tornBus b }

theorem tearDown_eq {b : BayNo} {s : State} (hbook : s.book.boundTo b = none) (hk : s.lamp.sound) : tearDown b s = s.tornAt b := by
  unfold State.tornAt
  have hstart := tearDownHeating_eq b s
  have hseq := congrArg State.seq hstart
  dsimp only at hseq
  rw [← hseq] at hstart
  obtain ⟨rs, hoff⟩ := exists_heatOffBus s b
  rw [State.tornBus, hoff]
  rw [hoff] at hstart
  generalize (tearDownHeating b s).seq = q at hstart
  have hstore := tearDownStore_eq b { s with seq := q, bus := { s.bus with waiting := rs } }
  have hlamp : ∀ u : State, u.book = s.book → u.lamp = s.lamp → tearDownLamp b u
      = if s.lamp.queue.any (·.bay == b) || s.lamp.engines.toList.any fun e => e.testing == some b
        then notifyBay .lamp b (u.lampTorn b) else u.lampTorn b := fun u hub hul => by
    rw [← hul]
    exact tearDownLamp_eq (by rw [hub, hbook]) (by rw [hul]; exact hk)
  show clearCoach b (setSignal b .red (tearDownReader b (tearDownLamp b (tearDownStore b (tearDownHeating b s))))) = _
  dsimp only at hstore
  rw [hstart, hstore, hlamp (notifyBay .defect b _) ?book ?lamp, tearDown_last]
  case book | lamp => rfl
  obtain ⟨ws, wire, hrel⟩ := exists_lampTornBus { s with bus := { s.bus with waiting := rs } } b
  rw [State.lampTorn, lampTornBus_congr (v := { s with bus := { s.bus with waiting := rs } }) ?lamp ?bus, hrel]
  case lamp | bus => rfl
  have hbays : modifyAt s.bays b (fun r => { r.uncoached with dropped := s.store.lists[b].length })
      = modifyAt (modifyAt s.bays b fun r => { r with dropped := s.store.lists[b].length }) b Bay.uncoached := by
    simp [modifyAt, Bay.uncoached]
  unfold State.tornNotices
  rw [hbays]
  split
  · rfl
  · rfl

theorem port_tornNotices (s : State) (b : BayNo) (l : Link) : ((s.tornNotices b).port l).notices
    = if s.lamp.queue.any (·.bay == b) || s.lamp.engines.toList.any fun e => e.testing == some b
      then ((s.port l).notices.add .defect (BaySet.single b)).add .lamp (BaySet.single b)
      else (s.port l).notices.add .defect (BaySet.single b) := by
  unfold State.tornNotices
  split
  · rw [port_notifyBay_notices, port_notifyBay_notices]
  · exact port_notifyBay_notices ..

theorem exists_tornNotices (s : State) (b : BayNo) : ∃ n m, s.tornNotices b =
    { s with dispatch := { s.dispatch with notices := n }, workshop := { s.workshop with notices := m } } := by
  unfold State.tornNotices
  split
  · exact ⟨_, _, rfl⟩
  · exact ⟨_, _, rfl⟩

theorem job_of_mem_asked {s : State} {p : Job → Bool} {j : Job} {r : Request} (hr : r ∈ (s.asked p j).waiting) :
    r.job = j ∨ r ∈ s.bus.waiting := by
  simp only [State.asked] at hr
  split at hr
  · obtain ⟨x, hx, rfl⟩ := List.mem_map.mp hr
    split
    · exact .inl rfl
    · exact .inr hx
  · rcases List.mem_append.mp hr with h | h
    · exact .inr h
    · exact .inl (congrArg Request.job (List.mem_singleton.mp h))

/-- R179: of the waiting requests a teardown leaves, none is its ident or page. -/
theorem job_of_mem_tornBus {s : State} {b : BayNo} {r : Request} (hr : r ∈ (s.tornBus b).waiting) :
    r.job ≠ .ident b ∧ r.job.isPageFor b = false := by
  unfold State.tornBus at hr
  obtain ⟨hred, hident⟩ := List.mem_filter.mp hr
  refine ⟨fun h => ?_, ?_⟩
  · rw [h] at hident
    simp [Job.isIdentFor] at hident
  · dsimp only at hred
    split at hred
    · simpa using (List.mem_filter.mp hred).2
    · rcases job_of_mem_asked hred with h | h
      · rw [h]
        rfl
      · simpa using (List.mem_filter.mp h).2

/-- Settles O44: the parts composed, each by the equation of its owner. -/
theorem tornDown : Obligations.TornDown := by
  unfold Obligations.TornDown
  intro b s hbook hk t silent tested asks cuts
  have ht : t = s.tornAt b := tearDown_eq hbook hk
  have hbays : t.bays = (s.updBay b fun r => { r.uncoached with dropped := s.store.lists[b].length }).bays :=
    (congrArg State.bays ht).trans rfl
  have hbay : ∀ x, t.bay x = _ := fun x => congrArg (fun v : Vector Bay 24 => v[x]) hbays
  refine ⟨(hbay b).trans (bay_updBay_same ..), fun x hx => (hbay x).trans (bay_updBay_of_ne _ _ _ _ hx.symm),
    (congrArg State.seq ht).trans (congrArg State.seq (tearDownHeating_eq b s)), (congrArg State.store ht).trans rfl,
    (congrArg State.lamp ht).trans rfl, (congrArg State.reader ht).trans rfl, (congrArg State.clearance ht).trans rfl,
    (congrArg State.bus ht).trans ?bus, fun r hr => job_of_mem_tornBus (b := b) (s := s) ?waiting, fun l => ?notices, ?rest⟩
  case bus =>
    have hoff : (if s.seq.commanded[b].on then asks (Job.isHeatFor b) (.heat b false) s else s) = { s with bus := s.heatOffBus b } := by
      unfold State.heatOffBus
      split
      · simp only [asks, silent]
        split
        · rfl
        · rfl
      · rfl
    have hlast : ∀ u : State, ({ s with bus := (if s.clearance.signals[b] = .red ∨ s.bus.posts[b].silent = true then u.bus
          else u.signalled b .red) } : State).withdrawn (Job.isIdentFor b)
        = (if s.clearance.signals[b] = .red then u else asks (Job.isSignalFor b) (.signal b .red) u).withdrawn (Job.isIdentFor b) := fun u => by
      simp only [asks, silent]
      by_cases hred : s.clearance.signals[b] = .red
      · rw [if_pos (Or.inl hred), if_pos hred]
        rfl
      · rw [if_neg hred]
        by_cases hsilent : s.bus.posts[b].silent = true
        · rw [if_pos (Or.inr hsilent), if_pos hsilent]
          rfl
        · rw [if_neg (not_or.mpr ⟨hred, hsilent⟩), if_neg hsilent]
          rfl
    obtain ⟨rs, hrs⟩ := exists_heatOffBus s b
    show s.tornBus b = _
    unfold State.tornBus
    rw [hoff, hrs]
    unfold State.lampTornBus
    cases he : s.engineTesting b with
    | none =>
      have he' : ({ s with bus := { s.bus with waiting := rs } } : State).engineTesting b = none := he
      simp only [he']
      exact hlast (cuts (Job.isPageFor b) _)
    | some e =>
      have he' : ({ s with bus := { s.bus with waiting := rs } } : State).engineTesting b = some e := he
      simp only [he']
      refine Eq.trans ?_ (hlast (cuts (Job.isPageFor b) _))
      simp only [silent, cuts]
      cases s.bus.posts[b].silent with
      | false => rfl
      | true => rfl
  case waiting =>
    rw [ht] at hr
    exact hr
  case notices =>
    rw [ht]
    exact (show _ = _ by cases l <;> rfl).trans (port_tornNotices s b l)
  case rest =>
    obtain ⟨n, m, hn⟩ := exists_tornNotices s b
    rw [ht, State.tornAt, hn]

end Sys2Proof.Machine

/-! PROOF. The planning computation: its causes bit by bit, the turns as a quotient rounded up, and the inputs of a pass. -/

namespace Sys2Proof.Machine

/-! ## Causes -/

@[simp] theorem getLsbD_causeIf (c : Bool) (x : CauseSet) (i : Nat) : (causeIf c x).getLsbD i = (c && x.getLsbD i) := by
  cases c <;> simp [causeIf]

theorem getElem_causeIf (c : Bool) (x : CauseSet) (i : Nat) (hi : i < 6) : (causeIf c x)[i] = (c && x[i]) := by
  cases c <;> simp [causeIf]

theorem causeIf_or (a b : Bool) (x : CauseSet) : causeIf a x ||| causeIf b x = causeIf (a || b) x := by
  cases a <;> cases b <;> simp [causeIf]

theorem plan_causes_bits (sat clamp satNet late : Bool) :
    let causes := causeIf sat causeSat ||| causeIf clamp causeClamp ||| causeIf satNet causeSat ||| causeIf late causeLate
    causes.getLsbD 0 = (sat || satNet) ∧ causes.getLsbD 2 = clamp ∧ causes.getLsbD 3 = late
    ∧ causes.getLsbD 1 = false ∧ causes.getLsbD 4 = false ∧ causes.getLsbD 5 = false := by
  simp [causeSat, causeClamp, causeLate, getElem_causeIf]

/-- R66: the exact values of the first six stages. -/
def PlanInputs.exact (x : PlanInputs) : List Int :=
  let need := stageNeed x.target x.cabin
  let rise := ceilDiv (planWord need) (stageRounds x.ahead x.roundLength)
  let loss := stageLoss x.rounding x.roundLength x.loss x.cabin x.outdoor
  [need, rise, loss, planWord rise + planWord loss, stageGain x.roundLength x.gain]

/-- R66: one of them lies outside the word. -/
def PlanInputs.saturates (x : PlanInputs) : Bool := x.exact.any fun v => planWord v != v

theorem saturates_iff (x : PlanInputs) : x.saturates = true ↔ ∃ v ∈ x.exact, planWord v ≠ v := by
  simp [PlanInputs.saturates]

/-- R67 to R71: the heat a round needs. -/
def PlanInputs.heat (x : PlanInputs) : Int :=
  max 0 (planWord (planWord (ceilDiv (planWord (stageNeed x.target x.cabin)) (stageRounds x.ahead x.roundLength))
    + planWord (stageLoss x.rounding x.roundLength x.loss x.cabin x.outdoor)))

/-- R72: the heat a turn brings. -/
def PlanInputs.turnGain (x : PlanInputs) : Int := planWord (stageGain x.roundLength x.gain)

/-- R73: the turns before the limit of 16. -/
def PlanInputs.wanted (x : PlanInputs) : Nat := (ceilDiv (16 * x.heat) x.turnGain).toNat

/-- R74: what n turns bring in a round, less the loss. -/
def PlanInputs.net (x : PlanInputs) (n : Nat) : Int :=
  x.turnGain * n / 16 - planWord (stageLoss x.rounding x.roundLength x.loss x.cabin x.outdoor)

/-- R74: the cabin projected for the departure. -/
def PlanInputs.projected (x : PlanInputs) (n : Nat) : Int :=
  clampInt (-960) 1600 (x.cabin + stageRounds x.ahead x.roundLength * planWord (x.net n))

theorem computePlan_of_no_gain {x : PlanInputs} (h : x.turnGain = 0) :
    computePlan x = ⟨0, causeIf x.saturates causeSat ||| causeNoClass⟩ := by
  have h' : planWord (stageGain x.roundLength x.gain) = 0 := h
  simp only [computePlan, h', if_true, planSat, causeIf_or, PlanInputs.saturates, PlanInputs.exact, List.any_cons, List.any_nil, Bool.or_false,
    Bool.or_assoc]

theorem computePlan_of_gain {x : PlanInputs} (h : x.turnGain ≠ 0) :
    computePlan x = ⟨min 16 x.wanted, causeIf x.saturates causeSat ||| causeIf (decide (16 < x.wanted)) causeClamp
      ||| causeIf (x.ahead.isSome && planWord (x.net (min 16 x.wanted)) != x.net (min 16 x.wanted)) causeSat
      ||| causeIf (x.ahead.isSome && decide (x.projected (min 16 x.wanted) < x.target - x.tolerance)) causeLate⟩ := by
  have hsat : planSat (stageNeed x.target x.cabin) ||| planSat (ceilDiv (planWord (stageNeed x.target x.cabin)) (stageRounds x.ahead x.roundLength))
      ||| planSat (stageLoss x.rounding x.roundLength x.loss x.cabin x.outdoor)
      ||| planSat (planWord (ceilDiv (planWord (stageNeed x.target x.cabin)) (stageRounds x.ahead x.roundLength))
        + planWord (stageLoss x.rounding x.roundLength x.loss x.cabin x.outdoor))
      ||| planSat (stageGain x.roundLength x.gain) = causeIf x.saturates causeSat := by
    simp only [planSat, causeIf_or, PlanInputs.saturates, PlanInputs.exact, List.any_cons, List.any_nil, Bool.or_false, Bool.or_assoc]
  unfold computePlan
  dsimp only
  rw [hsat]
  obtain ⟨cabin, outdoor, target, ahead, loss, gain, roundLength, rounding, tolerance⟩ := x
  cases ahead with
  | none =>
    have hfalse : ∀ c d e : CauseSet, c ||| causeIf false d ||| causeIf false e = c := fun c d e => by simp [causeIf]
    exact (if_neg h).trans (congrArg (PlanResult.mk _) (hfalse ..).symm)
  | some m => exact (if_neg h).trans rfl

/-! ## Turns -/

/-- R73: the quotient rounded up. -/
theorem ceilDiv_spec {a b : Int} (hb : 0 < b) : a ≤ ceilDiv a b * b ∧ (ceilDiv a b - 1) * b < a := by
  have hdiv := Int.mul_ediv_add_emod (-a) b
  have hpos := Int.emod_nonneg (-a) (Int.ne_of_gt hb)
  have hlt := Int.emod_lt_of_pos (-a) hb
  unfold ceilDiv
  constructor
  · linarith [neg_mul (-a / b) b, mul_comm (-a / b) b]
  · linarith [sub_mul (-(-a / b)) 1 b, neg_mul (-a / b) b, mul_comm (-a / b) b]

theorem heat_nonneg (x : PlanInputs) : 0 ≤ x.heat := le_max_left _ _

theorem turnGain_nonneg (x : PlanInputs) : 0 ≤ x.turnGain := by
  simp only [PlanInputs.turnGain, planWord, clampInt, stageGain]
  omega

theorem wanted_spec {x : PlanInputs} (h : x.turnGain ≠ 0) :
    16 * x.heat ≤ x.wanted * x.turnGain ∧ (0 < x.wanted → ((x.wanted : Int) - 1) * x.turnGain < 16 * x.heat) := by
  have hgain : 0 < x.turnGain := lt_of_le_of_ne (turnGain_nonneg x) (Ne.symm h)
  have hheat := heat_nonneg x
  obtain ⟨hle, hlt⟩ := ceilDiv_spec (a := 16 * x.heat) hgain
  have hwanted : (x.wanted : Int) = ceilDiv (16 * x.heat) x.turnGain := by
    refine Int.toNat_of_nonneg ?_
    by_contra hneg
    nlinarith
  rw [hwanted]
  exact ⟨hle, fun _ => hlt⟩

/-- R73: the wanted turns exceed n as the heat exceeds what n turns bring. -/
theorem lt_wanted_iff {x : PlanInputs} (h : x.turnGain ≠ 0) (n : Nat) : n < x.wanted ↔ n * x.turnGain < 16 * x.heat := by
  have hgain : 0 < x.turnGain := lt_of_le_of_ne (turnGain_nonneg x) (Ne.symm h)
  obtain ⟨hle, hlt⟩ := wanted_spec h
  constructor
  · intro hn
    have := hlt (by omega)
    have hn' : (n : Int) ≤ (x.wanted : Int) - 1 := by omega
    nlinarith
  · intro hn
    by_contra hle'
    have hn' : (x.wanted : Int) ≤ n := by omega
    nlinarith

/-! ## Passes -/

/-- R64: an input of the pass is stale. -/
def State.planStale (s : State) (b : BayNo) : Bool := s.cabinStale b || s.planner.outdoorStale

theorem planStale_iff (s : State) (b : BayNo) : s.planStale b = true
    ↔ (∀ c, (s.bay b).cabin = some c → 2 * s.planner.inForce < c.age / 1000) ∨ ∀ a, s.planner.outdoorAge = some a → 60 < a / 60000 := by
  unfold State.planStale State.cabinStale Planner.outdoorStale
  rw [Bool.or_eq_true]
  refine or_congr ?_ ?_
  · cases (s.bay b).cabin with
    | none => simp
    | some c => exact decide_eq_true_iff.trans (by simp [ageSeconds, secondMs])
  · cases s.planner.outdoorAge with
    | none => simp
    | some a => exact decide_eq_true_iff.trans (by simp [ageMinutes, minuteMs])

theorem passOf_of_no_class {s : State} {b : BayNo} (h : s.classOf b = none) :
    s.passOf b = ⟨0, causeIf (s.planStale b) causeStale ||| causeNoClass⟩ := by
  simp only [State.passOf, h, State.planStale]

theorem passOf_of_no_cabin {s : State} {b : BayNo} {k : ClassRecord} (h : s.classOf b = some k) (hcabin : (s.bay b).cabin = none) :
    s.passOf b = ⟨0, causeIf (s.planStale b) causeStale⟩ := by
  simp only [State.passOf, h, hcabin, State.planStale]

theorem passOf_of_planned {s : State} {b : BayNo} {k : ClassRecord} {c : Cabin} (h : s.classOf b = some k) (hcabin : (s.bay b).cabin = some c) :
    s.passOf b = ⟨(computePlan (s.planInputs b c k)).turns,
      causeIf (s.planStale b) causeStale ||| (computePlan (s.planInputs b c k)).causes⟩ := by
  simp only [State.passOf, h, hcabin, State.planStale]

theorem computePlan_not_stale (x : PlanInputs) : (computePlan x).causes.getLsbD 4 = false := by
  by_cases h : x.turnGain = 0
  · rw [computePlan_of_no_gain h]
    cases x.saturates <;> decide
  · rw [computePlan_of_gain h]
    exact (plan_causes_bits ..).2.2.2.2.1

/-- R59: STALE joins the causes of the computation, which does not raise it. -/
theorem stale_masked {stale : Bool} (c : CauseSet) (h : c.getLsbD 4 = false) : (causeIf stale causeStale ||| c) &&& 0b101111#6 = c := by
  have hall : ∀ c : CauseSet, c.getLsbD 4 = false → ((0b010000#6 ||| c) &&& 0b101111#6 = c ∧ (0#6 ||| c) &&& 0b101111#6 = c) := by decide
  cases stale with
  | false => exact (hall c h).2
  | true => exact (hall c h).1

theorem passOf_stale (s : State) (b : BayNo) : (s.passOf b).causes.getLsbD 4 = s.planStale b := by
  have hbit : ∀ c : CauseSet, c.getLsbD 4 = false → (causeIf (s.planStale b) causeStale ||| c).getLsbD 4 = s.planStale b := fun c hc => by
    rw [BitVec.getLsbD_or, getLsbD_causeIf, hc, Bool.or_false]
    exact Bool.and_true _
  cases hclass : s.classOf b with
  | none =>
    rw [passOf_of_no_class hclass]
    exact hbit _ rfl
  | some k =>
    cases hcabin : (s.bay b).cabin with
    | none =>
      rw [passOf_of_no_cabin hclass hcabin]
      exact (getLsbD_causeIf ..).trans (Bool.and_true _)
    | some c =>
      rw [passOf_of_planned hclass hcabin]
      exact hbit _ (computePlan_not_stale _)

/-- Settles O52: the computation by whether a turn brings heat, and a pass by its class and cabin. -/
theorem planComputed : Obligations.PlanComputed := by
  unfold Obligations.PlanComputed
  refine ⟨fun x => ?plan, fun b s => ?pass⟩
  case plan =>
    intro word need rounds rise lossExact loss heat gainExact gain r n net projection outside
    have hrounds : rounds = stageRounds x.ahead x.roundLength := by
      unfold stageRounds
      simp only [rounds]
      cases x.ahead with
      | none => rfl
      | some m => rfl
    have hheat : heat = x.heat := by
      simp only [heat, rise, hrounds]
      rfl
    have hgain : gain = x.turnGain := rfl
    have hnet : net = x.net r.turns := rfl
    have hprojection : projection = x.projected r.turns := by
      simp only [projection, hrounds]
      rfl
    have houtside : outside ↔ x.saturates = true := by
      rw [saturates_iff]
      simp only [outside, rise, hrounds]
      rfl
    have hloss : -2048 ≤ loss ∧ loss ≤ 2047 := by
      simp only [loss, word]
      omega
    by_cases hzero : x.turnGain = 0
    · have hr : r = _ := computePlan_of_no_gain hzero
      have hturns : r.turns = 0 := by rw [hr]
      have hcauses : r.causes = causeIf x.saturates causeSat ||| causeNoClass := by rw [hr]
      refine ⟨⟨by omega, hheat ▸ heat_nonneg x, hloss⟩, fun _ => ⟨hturns, ?_, ?_⟩, fun h => absurd hzero (hgain ▸ h)⟩
      · rw [hcauses, houtside]
        rw [BitVec.getLsbD_or, getLsbD_causeIf]
        exact Iff.of_eq (congrArg (· = true) ((Bool.or_false _).trans (Bool.and_true _)))
      · rw [hcauses]
        cases x.saturates with
        | false => decide
        | true => decide
    · have hr : r = _ := computePlan_of_gain hzero
      have hturns : r.turns = min 16 x.wanted := by rw [hr]
      rw [← hturns] at hr
      have hcauses : r.causes = _ := congrArg PlanResult.causes hr
      have hmore := lt_wanted_iff hzero
      refine ⟨⟨by omega, hheat ▸ heat_nonneg x, hloss⟩, fun h => absurd (hgain ▸ h) hzero, fun _ => ⟨⟨fun hfew => ?_, fun hsome => ?_⟩, ?_⟩⟩
      · rw [hheat, hgain]
        exact not_lt.mp fun hlt => absurd ((hmore r.turns).mpr hlt) (by omega)
      · rw [hheat, hgain]
        have hlt := (hmore (r.turns - 1)).mp (by omega)
        rw [Nat.cast_sub hsome] at hlt
        exact hlt
      · obtain ⟨hsat, hclamp, hlate, hrest⟩ := plan_causes_bits x.saturates (decide (16 < x.wanted))
          (x.ahead.isSome && planWord (x.net r.turns) != x.net r.turns)
          (x.ahead.isSome && decide (x.projected r.turns < x.target - x.tolerance))
        rw [hcauses, houtside, hheat, hgain, hnet, hprojection, hsat, hclamp, hlate]
        refine ⟨?_, ?_, ?_, hrest⟩
        · rw [decide_eq_true_iff]
          exact hmore 16
        · simp [Option.isSome_iff_ne_none]
        · simp [Option.isSome_iff_ne_none, word, planWord, clampInt]
  case pass =>
    intro r stale
    have hstale : stale ↔ s.planStale b = true := (planStale_iff s b).symm
    refine ⟨?_, fun hclass => ?_, fun hcabin => ?_, fun k c hclass hcabin => ⟨s.planInputs b c k, ?_, ⟨rfl, rfl, rfl, rfl⟩, ⟨rfl, rfl, rfl⟩,
      fun hnone => ?_, fun d hd => ?_⟩⟩
    · rw [hstale, ← passOf_stale]
    · have hr : r = _ := passOf_of_no_class hclass
      rw [hr]
      exact ⟨rfl, by cases s.planStale b <;> decide⟩
    · cases hclass : s.classOf b with
      | none =>
        have hr : r = _ := passOf_of_no_class hclass
        rw [hr]
        exact ⟨rfl, by cases s.planStale b <;> decide⟩
      | some k =>
        have hr : r = _ := passOf_of_no_cabin hclass hcabin
        have hbit : (causeIf (s.planStale b) causeStale).getLsbD 1 = false := (getLsbD_causeIf ..).trans (Bool.and_false _)
        rw [hr]
        exact ⟨rfl, iff_of_false (Bool.eq_false_iff.mp hbit) (Option.some_ne_none k)⟩
    · have hr : r = _ := passOf_of_planned hclass hcabin
      rw [hr]
      exact ⟨rfl, stale_masked _ (computePlan_not_stale _)⟩
    · have hforce : s.inForce b = none := by rw [State.inForce, hnone]; rfl
      simp only [State.planInputs, hforce, Option.map_none, and_self]
    · intro m
      have hm : d.ahead s.clock.minute = m := ahead_eq ..
      refine ⟨fun h => ?_, fun hstate hlead => ?_⟩
      · have hforce : s.inForce b = some d := by
          rw [State.inForce, hd, Option.filter_some, if_pos (by simpa [hm] using h)]
        simp only [State.planInputs, hforce]
        exact ⟨congrArg some hm, rfl⟩
      · have hforce : s.inForce b = none := by
          rw [State.inForce, hd, Option.filter_some, if_neg (by simpa [hm, hstate] using hlead)]
        simp only [State.planInputs, hforce, Option.map_none, and_self]

end Sys2Proof.Machine

/-! PROOF. Ident retries and ident results: the requests, the binding that a result brings, the coach replaced under the plug, and the late pass
of a binding. -/

namespace Sys2Proof.Machine

/-! ## Requests -/

theorem exec_identRetryExpiry {b : BayNo} {s : State} (h : s.resetHeld = false) :
    exec (.identRetryExpiry b) s = .next (retryExpiry b s) := event_of_not_held h

theorem requestIdent_of_not {b : BayNo} {s : State} (h : (s.bay b).wantsIdent = false ∨ s.outstanding (Job.isIdentFor b) = true) :
    requestIdent b s = s := by
  refine if_pos ?_
  rcases h with h | h <;> simp [h]

theorem requestIdent_of_silent {b : BayNo} {s : State} (hwants : (s.bay b).wantsIdent = true) (hout : s.outstanding (Job.isIdentFor b) = false)
    (h : s.silent b = true) : requestIdent b s = startRetry b s := by
  rw [requestIdent, if_neg (by simp [hwants, hout]), if_pos h]

theorem requestIdent_of_responding {b : BayNo} {s : State} (hwants : (s.bay b).wantsIdent = true)
    (hout : s.outstanding (Job.isIdentFor b) = false) (h : s.silent b = false) : requestIdent b s = placeJob (.ident b) s := by
  rw [requestIdent, if_neg (by simp [hwants, hout]), if_neg (Bool.eq_false_iff.mp h)]

theorem retryExpiry_of_runs {b : BayNo} {s : State} (h : (s.bay b).retry ≠ none) :
    retryExpiry b s = arbitrate (requestIdent b (stopRetry b s)) := by
  obtain ⟨k, hk⟩ := Option.ne_none_iff_exists'.mp h
  simp only [retryExpiry, hk]

theorem wantsIdent_stopRetry (b : BayNo) (s : State) : ((stopRetry b s).bay b).wantsIdent = (s.bay b).wantsIdent := by
  rw [stopRetry, bay_updBay_same]
  rfl

theorem startRetry_stopRetry (b : BayNo) (s : State) : startRetry b (stopRetry b s) = startRetry b s := updBay_updBay ..

/-! ## Notices -/

/-- R187: a notice posted again adds nothing. -/
theorem notifyBay_notifyBay (k : NoticeKind) (b : BayNo) (s : State) : notifyBay k b (notifyBay k b s) = notifyBay k b s := by
  have hadd : ∀ n : Notices, (n.add k (BaySet.single b)).add k (BaySet.single b) = n.add k (BaySet.single b) := fun n => by
    cases k <;> simp [Notices.add, BitVec.or_assoc]
  have hpost : ∀ u : State, notifyBay k b u = { u with
      dispatch := { u.dispatch with notices := u.dispatch.notices.add k (BaySet.single b) }
      workshop := { u.workshop with notices := u.workshop.notices.add k (BaySet.single b) } } := fun _ => rfl
  rw [hpost (notifyBay k b s), hpost s]
  dsimp only
  rw [hadd, hadd]

theorem updBay_notifyBay (k : NoticeKind) (b c : BayNo) (f : Bay → Bay) (s : State) :
    (notifyBay k b s).updBay c f = notifyBay k b (s.updBay c f) := rfl

/-! ## Binding -/

/-- R11: what follows the bay table's part of a binding. -/
def handOn (b : BayNo) (s : State) : State :=
  let s := latePass b (bindFirst b s)
  startScanning b (if s.autoTests b then requestAutoTest b s else s)

/-- R11: a bay's record at a binding. -/
def Bay.bind (coach : Nat) (cls : Option (Fin 16)) (r : Bay) : Bay :=
  { r with state := .bound, coach := some coach, cls := cls, unconfirmed := false, retry := none, conflict := false }

theorem bindBay_eq {b : BayNo} {s : State} (h : (s.bay b).state ≠ .bound) (coach : Nat) (cls : Option (Fin 16)) :
    bindBay b coach cls s = notifyBay .bay b (s.updBay b (Bay.bind coach cls)) := by
  unfold bindBay setBayState
  dsimp only
  rw [bay_updBay_same, if_neg h, updBay_updBay]
  unfold setConflict
  have hbay : ∀ u : State, (notifyBay .bay b u).bay b = u.bay b := fun _ => rfl
  rw [hbay, bay_updBay_same]
  by_cases hconflict : (s.bay b).conflict = false
  · refine (if_pos hconflict).trans ?_
    have hsame : (s.bays.set b (Bay.bind coach cls (s.bay b))) = s.bays.set b { s.bay b with
        state := .bound, coach := some coach, cls := cls, unconfirmed := false, retry := none } := by
      rw [Bay.bind, ← hconflict]
    show _ = notifyBay .bay b { s with bays := s.bays.set b (Bay.bind coach cls (s.bay b)) }
    rw [hsame]
    rfl
  · refine (if_neg hconflict).trans ?_
    rw [updBay_notifyBay, notifyBay_notifyBay, updBay_updBay]
    rfl

theorem bayOfCoach_eq_none_iff (s : State) (id : Nat) :
    s.bayOfCoach id = none ↔ ¬ ∃ x : BayNo, (s.bay x).state ∈ [.bound, .cleared, .leaving] ∧ (s.bay x).coach = some id := by
  simp only [← isBound_eq_true_iff, State.bayOfCoach, allBays, State.boundAt]
  simp

/-- R12: what a coach id read in ARRIVED does. -/
theorem identArrived_coach_of_none {b : BayNo} {id : Nat} {cls : Option (Fin 16)} {s : State} (h : s.bayOfCoach id = none)
    (hstate : (s.bay b).state ≠ .bound) :
    identArrived b (.coach id cls) s = handOn b (notifyBay .bay b (s.updBay b (Bay.bind id cls))) := by
  rw [← bindBay_eq hstate]
  simp only [identArrived, h]
  rfl

theorem identArrived_coach_of_some {b : BayNo} {id : Nat} {cls : Option (Fin 16)} {s : State} (h : s.bayOfCoach id ≠ none) :
    identArrived b (.coach id cls) s = startRetry b (setConflict b true s) := by
  obtain ⟨k, hk⟩ := Option.ne_none_iff_exists'.mp h
  simp only [identArrived, hk]

/-! ## A coach replaced under the plug -/

section Unbound

variable {st : BayState} (hst : st.isBound = false) {b : BayNo}

theorem keptByFailures_notState (hst : st.isBound = false) (b : BayNo) : KeptByFailures fun s => (s.bay b).state ≠ st := by
  have hbay : ∀ (c : BayNo) (f : Bay → Bay) (s : State), (∀ r, (f r).state = r.state) → (s.bay b).state ≠ st →
      ((s.updBay c f).bay b).state ≠ st := fun c f s hf h => by
    by_cases hcb : c = b
    · rw [hcb, bay_updBay_same, hf]
      exact h
    · rw [bay_updBay_of_ne s c b f hcb]
      exact h
  exact {
    notices := fun _ _ _ h => h
    book := fun _ _ h => h
    clearance := fun _ _ h => h
    store := fun _ _ h => h
    onSet := fun _ _ _ _ h => h
    bayState := fun c st' s hst' h => by
      by_cases hcb : c = b
      · rw [hcb, bay_updBay_same]
        rintro rfl
        exact Bool.false_ne_true (hst.symm.trans hst')
      · rw [bay_updBay_of_ne s c b _ hcb]
        exact h
    heat := fun _ _ _ _ h => h
    signal := fun _ _ _ _ h => h
    withdrawn := fun _ _ h => h
    lamp := fun _ _ h => h
    retry := fun c s h => hbay c _ s (fun _ => rfl) h
    reader := fun _ _ _ _ h => h
    lampStep := fun _ _ _ _ _ h => h
    lampEnd := fun _ _ _ _ h => h
    free := fun _ h => h }

theorem notState_updBay {s : State} {f : Bay → Bay} (hf : ∀ r, (f r).state = r.state) (h : (s.bay b).state ≠ st) :
    ((s.updBay b f).bay b).state ≠ st := by
  rw [bay_updBay_same, hf]
  exact h

theorem tearDownHeating_notState {s : State} (h : (s.bay b).state ≠ st) : ((tearDownHeating b s).bay b).state ≠ st := by
  rw [tearDownHeating_frame]
  exact h

theorem tearDownStore_notState {s : State} (h : (s.bay b).state ≠ st) : ((tearDownStore b s).bay b).state ≠ st := by
  rw [tearDownStore_eq]
  exact notState_updBay (f := fun r => { r with dropped := s.store.lists[b].length }) (fun _ => rfl) h

include hst

theorem tearDownLamp_notState {s : State} (h : (s.bay b).state ≠ st) : ((tearDownLamp b s).bay b).state ≠ st := by
  have K := keptByFailures_notState hst b
  unfold tearDownLamp
  dsimp only
  split
  · next e _ => exact K.endTest (K.lamp _ _ (K.startRelease (K.withdraw h (Job.isStepOf e)) e b)) b
  · split
    · exact K.endTest (K.lamp _ s h) b
    · exact K.lamp _ s h

theorem tearDown_notState {s : State} (h : (s.bay b).state ≠ st) : ((tearDown b s).bay b).state ≠ st := by
  have hlamp := tearDownLamp_notState hst (tearDownStore_notState (tearDownHeating_notState h))
  show ((clearCoach b (setSignal b .red (tearDownReader b (tearDownLamp b (tearDownStore b (tearDownHeating b s)))))).bay b).state ≠ st
  rw [tearDown_last]
  exact notState_updBay (f := Bay.uncoached) (fun _ => rfl) hlamp

end Unbound

theorem setBayState_arrived {b : BayNo} {s : State} (h : (s.bay b).state ≠ .arrived) :
    setBayState b .arrived s = notifyBay .bay b (s.updBay b fun r => { r with state := .arrived }) := if_neg h

/-! ## The late pass (R61, R86) -/

theorem placeable_iff (s : State) (b : BayNo) : s.placeable b = true ↔ (s.bay b).plug = true ∧ s.bus.posts[b].silent = false
    ∧ (s.bay b).hold = false ∧ s.inhibited b = false ∧ s.classOf b ≠ none ∧ s.seq.feedAlarm = false := by
  have hsilent : s.silent b = s.bus.posts[b].silent := rfl
  rw [← hsilent]
  simp [State.placeable, Option.isSome_iff_ne_none, and_assoc]

theorem handedOf_count (s : State) (b : BayNo) (turns : Nat) : (s.handedOf b turns).count = if (s.bay b).plug = true ∧ s.bus.posts[b].silent = false
    ∧ (s.bay b).hold = false ∧ s.inhibited b = false ∧ s.classOf b ≠ none ∧ s.seq.feedAlarm = false then turns else 0 :=
  if_congr (placeable_iff s b) rfl rfl

theorem plannedOf_eq (q : Sequencer) (b : BayNo) : q.plannedOf b = q.chain.countP fun e => e.bay == b && !e.pinned :=
  List.countP_congr fun e _ => by rw [Bool.and_comm]

/-- R75, R76: the causes of a pass that places n entries of the count. -/
def PlanResult.cappedAt (r : PlanResult) (n count : Nat) : CauseSet := if n < count then r.causes ||| 0b100000#6 else r.causes

/-- R61, R86: a late pass before its notices. -/
def State.passedLate (s : State) (b : BayNo) (n : Nat) (causes : CauseSet) : State :=
  { s with
    seq := { s.seq with chain := s.seq.chain ++ List.replicate n ⟨b, false, .waiting⟩ }
    planner := { s.planner with
      results := s.planner.results.set b ⟨(s.passOf b).turns, causes⟩
      sticky := s.planner.sticky ||| causes } }

theorem endPass_eq (b : BayNo) (s : State) : endPass b s =
    notifyPlanner .workshop b s.planner.results[b].causes (notifyPlanner .dispatch b s.planner.results[b].causes
      { s with planner := { s.planner with sticky := s.planner.sticky ||| s.planner.results[b].causes } }) := rfl

theorem latePass_eq (b : BayNo) (s : State) :
    let count := (s.handedOf b (s.passOf b).turns).count
    let n := s.seq.lateCount b count
    let causes := (s.passOf b).cappedAt n count
    latePass b s = notifyPlanner .workshop b causes (notifyPlanner .dispatch b causes (s.passedLate b n causes)) := by
  intro count n causes
  have hset : ∀ (v : Vector PlanResult 24) (r : PlanResult), (v.set b r)[b] = r := fun v r => Vector.getElem_set_self b.isLt
  have hplaced : (if n < count then raiseCapped b ((setPlan b (s.passOf b) s).updSeq (·.lateAppend b count))
      else (setPlan b (s.passOf b) s).updSeq (·.lateAppend b count)) = { s with
        seq := { s.seq with chain := s.seq.chain ++ List.replicate n ⟨b, false, .waiting⟩ }
        planner := { s.planner with results := s.planner.results.set b ⟨(s.passOf b).turns, causes⟩ } } := by
    by_cases hcapped : n < count
    · have hcauses : causes = (s.passOf b).causes ||| 0b100000#6 := if_pos hcapped
      have hresults : modifyAt (s.planner.results.set b (s.passOf b)) b (fun r => { r with causes := r.causes ||| causeCapped })
          = s.planner.results.set b ⟨(s.passOf b).turns, causes⟩ := by
        rw [modifyAt, hset, Vector.set_set, hcauses]
        rfl
      rw [if_pos hcapped, ← hresults]
      rfl
    · have hcauses : causes = (s.passOf b).causes := if_neg hcapped
      rw [if_neg hcapped, hcauses]
      rfl
  show endPass b (if n < count then raiseCapped b ((setPlan b (s.passOf b) s).updSeq (·.lateAppend b count))
      else (setPlan b (s.passOf b) s).updSeq (·.lateAppend b count)) = _
  rw [hplaced, endPass_eq]
  dsimp only
  rw [hset]
  rfl

theorem notifyPlanner_frame (l : Link) (b : BayNo) (causes : CauseSet) (s : State) : ∃ n m, notifyPlanner l b causes s =
    { s with dispatch := { s.dispatch with notices := n }, workshop := { s.workshop with notices := m } } := by
  unfold notifyPlanner
  split
  · cases l <;> exact ⟨_, _, rfl⟩
  · exact ⟨_, _, rfl⟩

theorem port_notifyPlanner (l k : Link) (b : BayNo) (causes : CauseSet) (s : State) :
    ((notifyPlanner l b causes s).port k).plannerMask = (s.port k).plannerMask
    ∧ ((notifyPlanner l b causes s).port k).notices = if l = k ∧ causes &&& (s.port k).plannerMask ≠ 0#6
        then (s.port k).notices.add .planner (BaySet.single b) else (s.port k).notices := by
  unfold notifyPlanner
  by_cases hcauses : causes &&& (s.port l).plannerMask = 0#6
  · rw [if_neg (by simpa using hcauses), if_neg (by rintro ⟨rfl, h⟩; exact h hcauses)]
    exact ⟨rfl, rfl⟩
  · rw [if_pos (by simpa using hcauses)]
    by_cases hlk : l = k
    · subst hlk
      rw [if_pos ⟨rfl, hcauses⟩]
      cases l <;> exact ⟨rfl, rfl⟩
    · rw [if_neg fun h => hlk h.1]
      rw [postTo, port_updPort_of_ne s l k _ hlk]
      exact ⟨rfl, rfl⟩

/-- R77: each port is told by its own mask. -/
theorem port_notifyPlanners (b : BayNo) (causes : CauseSet) (s : State) (l : Link) :
    ((notifyPlanner .workshop b causes (notifyPlanner .dispatch b causes s)).port l).notices
      = if causes &&& (s.port l).plannerMask = 0#6 then (s.port l).notices else (s.port l).notices.add .planner (BaySet.single b) := by
  rw [(port_notifyPlanner .workshop l b causes _).2, (port_notifyPlanner .dispatch l b causes s).1, (port_notifyPlanner .dispatch l b causes s).2]
  cases l <;> simp [ite_not]

/-! ## Results -/

theorem handSuccess_ident_nothing {b : BayNo} {st : PostStatus} {p : PostPayload} {s : State} (h : (st ≠ .ok ∧ p = .empty)
    ∨ (st = .ok ∧ ∃ id cls, p = .coach id cls ∧ (id = 0#16 ∨ id = 0xFFFF#16))) : handSuccess (.ident b) st p s = takeIdent b .noCoach s := by
  rcases h with ⟨-, rfl⟩ | ⟨-, id, cls, rfl, hid⟩
  · rfl
  · simp only [handSuccess, identOf, if_pos hid]

theorem handSuccess_ident_coach {b : BayNo} {st : PostStatus} {id : Half} {cls : Byte} {s : State} (h0 : id ≠ 0#16) (hf : id ≠ 0xFFFF#16) :
    handSuccess (.ident b) st (.coach id cls) s = takeIdent b (.coach id.toNat (classNumber cls)) s := by
  simp only [handSuccess, identOf, if_neg (not_or.mpr ⟨h0, hf⟩)]

theorem takeIdent_of_not {b : BayNo} {s : State} (h : (s.bay b).wantsIdent = false) (x : IdentResult) : takeIdent b x s = s :=
  if_neg (Bool.eq_false_iff.mp h)

theorem takeIdent_arrived {b : BayNo} {s : State} (h : (s.bay b).plug = true ∧ (s.bay b).state = .arrived) (x : IdentResult) :
    takeIdent b x s = identArrived b x s := by
  rw [takeIdent, if_pos ((wantsIdent_iff _).mpr ⟨h.1, .inl h.2⟩), if_pos h.2]

theorem takeIdent_unconfirmed {b : BayNo} {s : State}
    (h : (s.bay b).plug = true ∧ (s.bay b).state = .bound ∧ (s.bay b).unconfirmed = true) (x : IdentResult) :
    takeIdent b x s = identUnconfirmed b x s := by
  obtain ⟨hplug, hbound, hunconfirmed⟩ := h
  have hne : ¬ (s.bay b).state = .arrived := by rw [hbound]; decide
  rw [takeIdent, if_pos ((wantsIdent_iff _).mpr ⟨hplug, .inr ⟨hbound, hunconfirmed⟩⟩), if_neg hne]

/-- R12: the same coach confirmed. -/
theorem identUnconfirmed_same {b : BayNo} {id : Nat} {cls : Option (Fin 16)} {s : State} (h : (s.bay b).coach = some id) :
    identUnconfirmed b (.coach id cls) s =
      let t := s.updBay b fun r => { r with unconfirmed := false, cls := cls }
      if (s.classOf b).isSome && (t.classOf b).isNone then leaveOnSet b t else t := by
  simp only [identUnconfirmed, if_pos h]

theorem identUnconfirmed_other {b : BayNo} {id : Nat} {cls : Option (Fin 16)} {s : State} (h : (s.bay b).coach ≠ some id) :
    identUnconfirmed b (.coach id cls) s = identArrived b (.coach id cls) (replaceCoach b s) := by
  simp only [identUnconfirmed, if_neg h]

theorem leaveBook_of_none {b : BayNo} {s : State} (h : s.book.boundTo b = none) : leaveBook b s = s := by
  simp only [leaveBook, h]

/-- R45: a departure returned to BOOKED with no bay. -/
def State.returned (s : State) (b : BayNo) (d : Departure) : State :=
  notifyBay .departure b { s with book := { s.book with
    records := s.book.records.map fun x => if x.ref = d.ref then { x with state := .booked, bay := none } else x } }

theorem leaveBook_of_bound {b : BayNo} {s : State} {d : Departure} (h : s.book.boundTo b = some d) (hstate : d.state ≠ .clearing) :
    leaveBook b s = s.returned b d := by
  simp only [leaveBook, h, if_neg hstate]
  rfl

theorem leaveBook_of_clearing {b : BayNo} {s : State} {d : Departure} (h : s.book.boundTo b = some d) (hstate : d.state = .clearing) :
    leaveBook b s = notifyBay .clearance b { s.returned b d with clearance := { s.clearance with
      pending := s.clearance.pending.filter (·.ref != d.ref) } } := by
  simp only [leaveBook, h, if_pos hstate]
  rfl

/-- R12: the departure returned, the bay torn down and ARRIVED again. -/
theorem replaceCoach_eq {b : BayNo} {s : State} (h : ((leaveBook b s).bay b).state ≠ .arrived) : replaceCoach b s =
    notifyBay .bay b ((takeAll (tearDown b (leaveBook b s))).updBay b fun r => { r with state := .arrived }) :=
  setBayState_arrived ((keptByFailures_notState rfl b).takeAll (tearDown_notState rfl h))

theorem autoTests_eq (s : State) (b : BayNo) : s.autoTests b = (s.classOf b).any (·.autoTest) := by
  unfold State.autoTests
  cases s.classOf b <;> rfl

/-- Settles O43: the expiry by the conditions of a request, the results by the bay's state, and the late pass. -/
theorem identTaken : Obligations.IdentTaken := by
  unfold Obligations.IdentTaken
  refine ⟨fun b s hheld => ?retry, fun b st p a order s hheld hflies ha => ?result, fun b s => ?late⟩
  case retry =>
    intro r with_ goes wants
    have hwants : wants ↔ ((stopRetry b s).bay b).wantsIdent = true := by
      rw [wantsIdent_stopRetry]
      exact (wantsIdent_iff r).symm
    have hgoes : ∀ t, r.retry ≠ none → requestIdent b (stopRetry b s) = t → goes (arbitrate t) := fun t hr ht => by
      simp only [goes]
      rw [exec_identRetryExpiry hheld, retryExpiry_of_runs hr, ht]
    refine ⟨fun hr => ?_, fun hr h => hgoes _ hr (requestIdent_of_not ?_), fun hr hw hout => ⟨fun hsilent => ?_, fun hsilent => ?_⟩⟩
    · have hr' : (s.bay b).retry = none := hr
      simp only [goes]
      rw [exec_identRetryExpiry hheld, retryExpiry]
      simp only [hr']
    · rw [hwants, Bool.not_eq_true] at h
      exact h
    · refine hgoes _ hr ?_
      rw [requestIdent_of_silent (hwants.mp hw) hout hsilent, startRetry_stopRetry]
      rfl
    · exact hgoes _ hr (requestIdent_of_responding (hwants.mp hw) hout hsilent)
  case result =>
    intro r freed record answers arrived unconfirmed nothing
    have hrec : ∀ (u : State) (f : Bay → Bay), u.updBay b f = record u (f (u.bay b)) := fun _ _ => rfl
    have hanswers : ∀ t, handSuccess (.ident b) st p freed = t → answers t := fun t ht => by
      obtain ⟨retry, timer, hwire⟩ := hflies
      simp only [answers]
      rw [exec_postResponse_of_answersTo hheld hwire rfl ha]
      exact congrArg (Host.Outcome.next ∘ arbitrate) ht
    have hwants : (freed.bay b).wantsIdent = true ↔ arrived ∨ unconfirmed := by
      rw [wantsIdent_iff]
      simp only [arrived, unconfirmed, ← and_or_left]
      rfl
    have hbay : freed.bay b = r := rfl
    have hbook : freed.book = s.book := rfl
    have hpending : freed.clearance = s.clearance := rfl
    have hclass : freed.classOf b = s.classOf b := rfl
    clear_value freed
    have harrived : arrived → (freed.bay b).plug = true ∧ (freed.bay b).state = .arrived := fun h => by
      rw [hbay]
      exact h
    have hunconfirmed : unconfirmed → (freed.bay b).plug = true ∧ (freed.bay b).state = .bound ∧ (freed.bay b).unconfirmed = true := fun h => by
      rw [hbay]
      exact h
    have hneither : ¬ arrived → ¬ unconfirmed → (freed.bay b).wantsIdent = false := fun h1 h2 =>
      Bool.eq_false_iff.mpr fun h => (hwants.mp h).elim h1 h2
    refine ⟨fun hn => ⟨fun h => hanswers _ ?_, fun h1 h2 => hanswers _ ?_⟩, fun id cls hst hp h0 hf => ?_⟩
    · rw [handSuccess_ident_nothing hn]
      refine (handFailure_ident b freed).trans ((if_pos (hwants.mpr h)).trans ?_)
      rw [startRetry, hrec, hbay]
      rfl
    · rw [handSuccess_ident_nothing hn, takeIdent_of_not (hneither h1 h2)]
    · intro c handOn' settles
      subst hp
      have hcoach : ∀ t, takeIdent b (.coach id.toNat c) freed = t → answers t := fun t ht =>
        hanswers t ((handSuccess_ident_coach h0 hf).trans ht)
      have hsettles : ∀ u, (u.bay b).state = .arrived → takeIdent b (.coach id.toNat c) freed = identArrived b (.coach id.toNat c) u →
          settles u := fun u hstate hu => by
        have hhand : ∀ v : State, handOn b v = handOn' v := fun v => by
          simp only [handOn, handOn', autoTests_eq]
          rfl
        refine ⟨fun helse => hcoach _ ?_, fun helse hconflict => hcoach _ ?_, fun helse hconflict => hcoach _ ?_⟩
        · have hnone := (bayOfCoach_eq_none_iff u id.toNat).mpr helse
          have hunbound : (u.bay b).state ≠ .bound := by rw [hstate]; decide
          rw [hu, identArrived_coach_of_none hnone hunbound, hhand]
          rfl
        · have hsome := mt (bayOfCoach_eq_none_iff u id.toNat).mp (not_not.mpr helse)
          rw [hu, identArrived_coach_of_some hsome, setConflict, if_pos hconflict]
          rfl
        · have hsome := mt (bayOfCoach_eq_none_iff u id.toNat).mp (not_not.mpr helse)
          have hne : ¬ (u.bay b).conflict = true := Bool.eq_false_iff.mp hconflict
          rw [hu, identArrived_coach_of_some hsome, setConflict, if_neg hne, startRetry, updBay_notifyBay, updBay_updBay]
          rfl
      refine ⟨fun h1 h2 => hcoach _ (takeIdent_of_not (hneither h1 h2) _), fun h => hsettles freed (harrived h).2 (takeIdent_arrived (harrived h) _),
        fun h hsame => ?_, fun h hother => ?_⟩
      · intro t
        have ht : freed.updBay b (fun r => { r with unconfirmed := false, cls := c }) = t := by rw [hrec, hbay]
        have hresult := (takeIdent_unconfirmed (hunconfirmed h) _).trans (identUnconfirmed_same (cls := c) (by rw [hbay]; exact hsame))
        dsimp only at hresult
        rw [ht, hclass] at hresult
        refine ⟨fun hlost => hcoach _ (hresult.trans (if_pos ?_)), fun hkept => hcoach _ (hresult.trans (if_neg ?_))⟩
        · rw [Bool.and_eq_true, Option.isSome_iff_ne_none, Option.isNone_iff_eq_none]
          exact hlost
        · rw [Bool.and_eq_true, Option.isSome_iff_ne_none, Option.isNone_iff_eq_none]
          exact fun hboth => hkept.elim hboth.1 (absurd hboth.2)
      · intro replaced
        have hreplaced : ∀ v, leaveBook b freed = v → (v.bay b).state = .bound → settles (replaced v) := fun v hv hbound => by
          have hne : ((leaveBook b freed).bay b).state ≠ .arrived := by rw [hv, hbound]; decide
          refine hsettles _ ?_ ?_
          · exact congrArg Bay.state (Vector.getElem_set_self b.isLt)
          · rw [takeIdent_unconfirmed (hunconfirmed h), identUnconfirmed_other (by rw [hbay]; exact hother), replaceCoach_eq hne, hv]
            rfl
        have hbound : (freed.bay b).state = .bound := by
          rw [hbay]
          exact h.2.1
        refine ⟨fun hnone => hreplaced _ (leaveBook_of_none (by rw [hbook, hnone])) hbound, fun d hd => ?_⟩
        intro back
        have hd' : freed.book.boundTo b = some d := by rw [hbook, hd]
        refine ⟨fun hstate => hreplaced _ ?_ hbound, fun hstate => hreplaced _ ?_ hbound⟩
        · rw [leaveBook_of_bound hd' hstate, State.returned, hbook]
        · rw [leaveBook_of_clearing hd' hstate, State.returned, hbook, hpending]
          rfl
  case late =>
    intro r count planned n causes t
    have hcount : (s.handedOf b r.turns).count = count := handedOf_count s b r.turns
    have hn : s.seq.lateCount b count = n := by
      rw [Sequencer.lateCount, plannedOf_eq]
      rfl
    have ht : t = notifyPlanner .workshop b causes (notifyPlanner .dispatch b causes (s.passedLate b n causes)) := by
      have h := latePass_eq b s
      dsimp only at h
      rw [hcount, hn] at h
      exact h
    obtain ⟨k, m, hframe⟩ := notifyPlanner_frame .dispatch b causes (s.passedLate b n causes)
    obtain ⟨k', m', hframe'⟩ := notifyPlanner_frame .workshop b causes (notifyPlanner .dispatch b causes (s.passedLate b n causes))
    have hport := fun l => port_notifyPlanners b causes (s.passedLate b n causes) l
    rw [← ht] at hport hframe'
    rw [hframe] at hframe'
    refine ⟨?_, ?_, fun l => (hport l).trans ?_, ?_⟩
    · rw [hframe']
      rfl
    · rw [hframe']
      rfl
    · cases l <;> rfl
    · rw [hframe']
      rfl

end Sys2Proof.Machine

/-! PROOF. The slot walk entry by entry: the state of the walk before each position, and what it knows of the members that have joined. -/

namespace Sys2Proof.Machine

/-! ## The walk at one entry (R88, step 3) -/

/-- R88: the counted load leaves no room, or the entry's bay has joined already. -/
def WalkState.stopsAt (w : WalkState) (s : State) (e : Entry) : Prop :=
  s.seq.total ≤ memberUnits w.joined + fixedUnits w.stuck ∨ (s.eligible e.bay = true ∧ ∃ m ∈ w.joined, m.bay = e.bay)

/-- R88: the walk passes the entry by: it has stopped, or the entry does not wait. -/
def WalkState.skips (w : WalkState) (e : Entry) : Prop := w.stopped = true ∨ e.status ≠ .waiting

/-- R89: the entry's units fit, the stuck units of its own bay not counted. -/
def WalkState.fitsAt (w : WalkState) (s : State) (e : Entry) : Prop :=
  w.fits s.seq (w.stuck.set e.bay none) (s.unitsOf e.bay) (s.bay e.bay).feeder = true

section Entries

variable {s : State} {w : WalkState} {i : Nat} {e : Entry}

theorem walkEntry_of_skips (h : w.skips e) : walkEntry s w i e = (w, e) := if_pos (by simpa [WalkState.skips] using h)

theorem walkEntry_of_not_skips (h : ¬ w.skips e) : walkEntry s w i e =
    if s.seq.total ≤ memberUnits w.joined + fixedUnits w.stuck then ({ w with stopped := true }, e)
    else if !s.eligible e.bay then (w, { e with status := .missed })
    else if w.joined.any (·.bay == e.bay) then ({ w with stopped := true }, e)
    else if w.fits s.seq (w.stuck.set e.bay none) (s.unitsOf e.bay) (s.bay e.bay).feeder then (w.join s i e, { e with status := .taken })
    else (w, e) := if_neg (by simpa [WalkState.skips] using h)

theorem walkEntry_of_stops (h : ¬ w.skips e) (hstop : w.stopsAt s e) : walkEntry s w i e = ({ w with stopped := true }, e) := by
  rw [walkEntry_of_not_skips h]
  rcases hstop with hfull | ⟨heligible, m, hm, hb⟩
  · exact if_pos hfull
  · have hany : w.joined.any (·.bay == e.bay) = true := List.any_eq_true.mpr ⟨m, hm, by simpa using hb⟩
    simp [heligible, hany]

theorem walkEntry_of_not_eligible (h : ¬ w.skips e) (hgo : ¬ w.stopsAt s e) (hel : s.eligible e.bay = false) :
    walkEntry s w i e = (w, { e with status := .missed }) := by
  rw [walkEntry_of_not_skips h, if_neg fun hfull => hgo (.inl hfull)]
  simp [hel]

theorem walkEntry_of_eligible (h : ¬ w.skips e) (hgo : ¬ w.stopsAt s e) (hel : s.eligible e.bay = true) :
    walkEntry s w i e =
      if w.fits s.seq (w.stuck.set e.bay none) (s.unitsOf e.bay) (s.bay e.bay).feeder then (w.join s i e, { e with status := .taken })
      else (w, e) := by
  have hnone : w.joined.any (·.bay == e.bay) = false := List.any_eq_false.mpr fun m hm hb =>
    hgo (.inr ⟨hel, m, hm, by simpa using hb⟩)
  rw [walkEntry_of_not_skips h, if_neg fun hfull => hgo (.inl hfull)]
  simp [hel, hnone]

theorem walkEntry_of_fits (h : ¬ w.skips e) (hgo : ¬ w.stopsAt s e) (hel : s.eligible e.bay = true) (hfits : w.fitsAt s e) :
    walkEntry s w i e = (w.join s i e, { e with status := .taken }) := (walkEntry_of_eligible h hgo hel).trans (if_pos hfits)

theorem walkEntry_of_not_fits (h : ¬ w.skips e) (hgo : ¬ w.stopsAt s e) (hel : s.eligible e.bay = true) (hfits : ¬ w.fitsAt s e) :
    walkEntry s w i e = (w, e) := (walkEntry_of_eligible h hgo hel).trans (if_neg hfits)

/-- R88: the walk at an entry does one of five things. -/
theorem walkEntry_split (s : State) (w : WalkState) (i : Nat) (e : Entry) :
    (w.skips e ∧ walkEntry s w i e = (w, e))
    ∨ (¬ w.skips e ∧ w.stopsAt s e ∧ walkEntry s w i e = ({ w with stopped := true }, e))
    ∨ (¬ w.skips e ∧ ¬ w.stopsAt s e ∧ s.eligible e.bay = false ∧ walkEntry s w i e = (w, { e with status := .missed }))
    ∨ (¬ w.skips e ∧ ¬ w.stopsAt s e ∧ s.eligible e.bay = true ∧ w.fitsAt s e ∧ walkEntry s w i e = (w.join s i e, { e with status := .taken }))
    ∨ (¬ w.skips e ∧ ¬ w.stopsAt s e ∧ s.eligible e.bay = true ∧ ¬ w.fitsAt s e ∧ walkEntry s w i e = (w, e)) := by
  by_cases hskip : w.skips e
  · exact .inl ⟨hskip, walkEntry_of_skips hskip⟩
  · by_cases hstop : w.stopsAt s e
    · exact .inr (.inl ⟨hskip, hstop, walkEntry_of_stops hskip hstop⟩)
    · cases hel : s.eligible e.bay with
      | false => exact .inr (.inr (.inl ⟨hskip, hstop, rfl, walkEntry_of_not_eligible hskip hstop hel⟩))
      | true =>
        by_cases hfits : w.fitsAt s e
        · exact .inr (.inr (.inr (.inl ⟨hskip, hstop, rfl, hfits, walkEntry_of_fits hskip hstop hel hfits⟩)))
        · exact .inr (.inr (.inr (.inr ⟨hskip, hstop, rfl, hfits, walkEntry_of_not_fits hskip hstop hel hfits⟩)))

end Entries

/-! ## The walk before a position -/

/-- R88: the walk's state before position i of the chain. -/
def State.walkAt (s : State) (i : Nat) : WalkState := (walkFrom s ⟨[], s.seq.stuck, [], false⟩ 0 (s.seq.chain.take i)).1

theorem walkFrom_append (s : State) (w : WalkState) (i : Nat) (es fs : List Entry) : walkFrom s w i (es ++ fs) =
    ((walkFrom s (walkFrom s w i es).1 (i + es.length) fs).1,
      (walkFrom s w i es).2 ++ (walkFrom s (walkFrom s w i es).1 (i + es.length) fs).2) := by
  induction es generalizing w i with
  | nil => rfl
  | cons e es ih =>
    simp only [List.cons_append, walkFrom, List.length_cons]
    rw [ih, Nat.add_assoc, Nat.add_comm 1]

theorem walkFrom_getElem? (s : State) (w : WalkState) (k i : Nat) (es : List Entry) : (walkFrom s w k es).2[i]? =
    es[i]?.map fun e => (walkEntry s (walkFrom s w k (es.take i)).1 (k + i) e).2 := by
  induction es generalizing w k i with
  | nil => rfl
  | cons e es ih =>
    cases i with
    | zero => rfl
    | succ i =>
      simp only [walkFrom, List.getElem?_cons_succ, List.take_succ_cons]
      rw [ih, Nat.add_assoc, Nat.add_comm 1]

theorem walkFrom_length (s : State) (w : WalkState) (k : Nat) (es : List Entry) : (walkFrom s w k es).2.length = es.length := by
  induction es generalizing w k with
  | nil => rfl
  | cons e es ih => simp only [walkFrom, List.length_cons, ih]

theorem walkAt_zero (s : State) : s.walkAt 0 = ⟨[], s.seq.stuck, [], false⟩ := rfl

theorem walkAt_succ {s : State} {i : Nat} {e : Entry} (h : s.seq.chain[i]? = some e) :
    s.walkAt (i + 1) = (walkEntry s (s.walkAt i) i e).1 := by
  have hi : i < s.seq.chain.length := (List.getElem?_eq_some_iff.mp h).1
  have hlen : (s.seq.chain.take i).length = i := List.length_take_of_le (Nat.le_of_lt hi)
  rw [State.walkAt, List.take_add_one, h, walkFrom_append, hlen, Nat.zero_add]
  rfl

theorem walkAt_of_length_le {s : State} {i : Nat} (h : s.seq.chain.length ≤ i) :
    s.walkAt i = (walkFrom s ⟨[], s.seq.stuck, [], false⟩ 0 s.seq.chain).1 := by
  rw [State.walkAt, List.take_of_length_le h]

theorem walked_getElem? (s : State) (i : Nat) : (walkFrom s ⟨[], s.seq.stuck, [], false⟩ 0 s.seq.chain).2[i]? =
    s.seq.chain[i]?.map fun e => (walkEntry s (s.walkAt i) i e).2 := by
  rw [walkFrom_getElem?, Nat.zero_add]
  rfl

/-- A property of the walk holds at every position when the entries keep it. -/
theorem walkAt_induction {s : State} {P : Nat → WalkState → Prop} (hstart : P 0 (s.walkAt 0))
    (hstep : ∀ (i : Nat) (e : Entry), s.seq.chain[i]? = some e → P i (s.walkAt i) → P (i + 1) (walkEntry s (s.walkAt i) i e).1)
    (hend : ∀ (i : Nat) (w : WalkState), P i w → P (i + 1) w) (i : Nat) : P i (s.walkAt i) := by
  induction i with
  | zero => exact hstart
  | succ i ih =>
    cases he : s.seq.chain[i]? with
    | some e =>
      rw [walkAt_succ he]
      exact hstep i e he ih
    | none =>
      have hlen : s.seq.chain.length ≤ i := List.getElem?_eq_none_iff.mp he
      rw [walkAt_of_length_le (Nat.le_succ_of_le hlen), ← walkAt_of_length_le hlen]
      exact hend i _ ih

/-! ## The members that have joined -/

/-- R88: the member that the entry at position k makes. -/
def State.joins (s : State) (k : Nat) (m : Member) : Prop :=
  ∃ (e : Entry) (c : ClassRecord), s.seq.chain[k]? = some e ∧ ¬ (s.walkAt k).skips e ∧ ¬ (s.walkAt k).stopsAt s e ∧ s.eligible e.bay = true
    ∧ s.classOf e.bay = some c ∧ (s.walkAt k).fitsAt s e ∧ m = ⟨e.bay, c.units, (s.bay e.bay).feeder, some k⟩

theorem exists_classOf_of_eligible {s : State} {b : BayNo} (h : s.eligible b = true) : ∃ c, s.classOf b = some c ∧ s.unitsOf b = c.units := by
  have hclass : (s.classOf b).isSome = true := by
    simp only [State.eligible, Bool.and_eq_true] at h
    exact h.1.2
  obtain ⟨c, hc⟩ := Option.isSome_iff_exists.mp hclass
  exact ⟨c, hc, by simp only [State.unitsOf, hc]⟩

/-- R88: the members before a position are made by the entries before it. -/
theorem walkAt_joins (s : State) (i : Nat) : ∀ m ∈ (s.walkAt i).joined, ∃ k, k < i ∧ s.joins k m := by
  refine walkAt_induction (P := fun i w => ∀ m ∈ w.joined, ∃ k, k < i ∧ s.joins k m) (fun m hm => absurd hm List.not_mem_nil)
    (fun i e he ih => ?_) (fun i w ih m hm => ?_) i
  · have hold : ∀ m ∈ (s.walkAt i).joined, ∃ k, k < i + 1 ∧ s.joins k m := fun m hm => by
      obtain ⟨k, hk, hjoins⟩ := ih m hm
      exact ⟨k, by omega, hjoins⟩
    rcases walkEntry_split s (s.walkAt i) i e with ⟨-, h⟩ | ⟨-, -, h⟩ | ⟨-, -, -, h⟩ | ⟨hskip, hstop, hel, hfits, h⟩ | ⟨-, -, -, -, h⟩ <;>
      rw [h]
    · exact hold
    · exact hold
    · exact hold
    · intro m hm
      obtain ⟨c, hc, hunits⟩ := exists_classOf_of_eligible hel
      rcases List.mem_append.mp hm with hm | hm
      · exact hold m hm
      · refine ⟨i, by omega, e, c, he, hskip, hstop, hel, hc, hfits, ?_⟩
        rw [List.mem_singleton.mp hm, hunits]
    · exact hold
  · obtain ⟨k, hk, hjoins⟩ := ih m hm
    exact ⟨k, by omega, hjoins⟩

/-- R88: an entry that joins is in the on-set from its position on. -/
theorem joins_mem {s : State} {k : Nat} {m : Member} (h : s.joins k m) : m ∈ (s.walkAt (k + 1)).joined := by
  obtain ⟨e, c, he, hskip, hstop, hel, hc, hfits, rfl⟩ := h
  have hunits : s.unitsOf e.bay = c.units := by simp only [State.unitsOf, hc]
  rw [walkAt_succ he, walkEntry_of_fits hskip hstop hel hfits]
  refine List.mem_append.mpr (.inr (List.mem_singleton.mpr ?_))
  rw [hunits]

theorem joined_walkAt_le (s : State) {i j : Nat} (h : i ≤ j) : ∃ ms, (s.walkAt j).joined = (s.walkAt i).joined ++ ms
    ∧ ∀ m ∈ ms, ∃ k, i ≤ k ∧ k < j ∧ m.entry = some k := by
  induction j, h using Nat.le_induction with
  | base => exact ⟨[], by simp, by simp⟩
  | succ j hij ih =>
    obtain ⟨ms, hms, hentries⟩ := ih
    have hold : ∀ m ∈ ms, ∃ k, i ≤ k ∧ k < j + 1 ∧ m.entry = some k := fun m hm => by
      obtain ⟨k, hik, hkj, hk⟩ := hentries m hm
      exact ⟨k, hik, by omega, hk⟩
    cases he : s.seq.chain[j]? with
    | none =>
      have hlen : s.seq.chain.length ≤ j := List.getElem?_eq_none_iff.mp he
      rw [walkAt_of_length_le (Nat.le_succ_of_le hlen), ← walkAt_of_length_le hlen]
      exact ⟨ms, hms, hold⟩
    | some e =>
      rw [walkAt_succ he]
      rcases walkEntry_split s (s.walkAt j) j e with ⟨-, h⟩ | ⟨-, -, h⟩ | ⟨-, -, -, h⟩ | ⟨-, -, -, -, h⟩ | ⟨-, -, -, -, h⟩ <;> rw [h]
      · exact ⟨ms, hms, hold⟩
      · exact ⟨ms, hms, hold⟩
      · exact ⟨ms, hms, hold⟩
      · refine ⟨ms ++ [⟨e.bay, s.unitsOf e.bay, (s.bay e.bay).feeder, some j⟩], ?_, fun m hm => ?_⟩
        · rw [WalkState.join, hms, List.append_assoc]
        · rcases List.mem_append.mp hm with hm | hm
          · exact hold m hm
          · exact ⟨j, hij, by omega, by rw [List.mem_singleton.mp hm]⟩
      · exact ⟨ms, hms, hold⟩

/-- R88: the members before a position are those whose entry stands before it. -/
theorem filter_joined (s : State) {i j : Nat} (h : i ≤ j) :
    ((s.walkAt j).joined.filter fun m => m.entry.any (· < i)) = (s.walkAt i).joined := by
  obtain ⟨ms, hms, hentries⟩ := joined_walkAt_le s h
  have hkeep : (s.walkAt i).joined.filter (fun m => m.entry.any (· < i)) = (s.walkAt i).joined := List.filter_eq_self.mpr fun m hm => by
    obtain ⟨k, hk, e, c, -, -, -, -, -, -, rfl⟩ := walkAt_joins s i m hm
    simpa using hk
  have hdrop : ms.filter (fun m => m.entry.any (· < i)) = [] := List.filter_eq_nil_iff.mpr fun m hm => by
    obtain ⟨k, hik, -, hk⟩ := hentries m hm
    simp [hk, hik]
  rw [hms, List.filter_append, hkeep, hdrop, List.append_nil]

/-- R88: the members join in the order of the chain. -/
theorem entries_pairwise (s : State) (i : Nat) : ((s.walkAt i).joined.filterMap Member.entry).Pairwise (· < ·) := by
  refine walkAt_induction (P := fun _ w => (w.joined.filterMap Member.entry).Pairwise (· < ·)) List.Pairwise.nil (fun i e he ih => ?_)
    (fun _ _ h => h) i
  rcases walkEntry_split s (s.walkAt i) i e with ⟨-, h⟩ | ⟨-, -, h⟩ | ⟨-, -, -, h⟩ | ⟨-, -, -, -, h⟩ | ⟨-, -, -, -, h⟩ <;> rw [h]
  · exact ih
  · exact ih
  · exact ih
  · rw [WalkState.join, List.filterMap_append]
    refine List.pairwise_append.mpr ⟨ih, by simp, fun k hk n hn => ?_⟩
    obtain ⟨m, hm, hmk⟩ := List.mem_filterMap.mp hk
    obtain ⟨k', hk', e', c, -, -, -, -, -, -, rfl⟩ := walkAt_joins s i m hm
    have hn' : n = i := by simpa using hn
    have hk'' : k' = k := by simpa using hmk
    omega
  · exact ih

/-- R89, R99: the stuck units of a bay count until it joins. -/
theorem stuck_walkAt (s : State) (i : Nat) (b : BayNo) :
    (s.walkAt i).stuck[b] = if (s.walkAt i).joined.any (·.bay == b) then none else s.seq.stuck[b] := by
  refine walkAt_induction (P := fun _ w => w.stuck[b] = if w.joined.any (·.bay == b) then none else s.seq.stuck[b]) rfl (fun i e he ih => ?_)
    (fun _ _ h => h) i
  rcases walkEntry_split s (s.walkAt i) i e with ⟨-, h⟩ | ⟨-, -, h⟩ | ⟨-, -, -, h⟩ | ⟨-, -, -, -, h⟩ | ⟨-, -, -, -, h⟩ <;> rw [h]
  · exact ih
  · exact ih
  · exact ih
  · rw [WalkState.join]
    dsimp only
    rw [List.any_append]
    by_cases hb : e.bay = b
    · subst hb
      simp
    · have hset : ((s.walkAt i).stuck.set e.bay none)[b] = (s.walkAt i).stuck[b] :=
        Vector.getElem_set_ne _ _ fun h => hb (Fin.ext h)
      rw [hset, ih]
      simp [hb]
  · exact ih

/-- R88: the walk has stopped at a position when an entry before it stops it. -/
theorem stopped_walkAt_iff (s : State) (i : Nat) : (s.walkAt i).stopped = true ↔
    ∃ k e, k < i ∧ s.seq.chain[k]? = some e ∧ e.status = .waiting ∧ (s.walkAt k).stopsAt s e := by
  induction i with
  | zero =>
    rw [walkAt_zero]
    exact iff_of_false Bool.false_ne_true fun ⟨k, e, hk, _⟩ => absurd hk (by omega)
  | succ i ih =>
    have hsplit : (∃ k e, k < i + 1 ∧ s.seq.chain[k]? = some e ∧ e.status = .waiting ∧ (s.walkAt k).stopsAt s e)
        ↔ (s.walkAt i).stopped = true ∨ ∃ e, s.seq.chain[i]? = some e ∧ e.status = .waiting ∧ (s.walkAt i).stopsAt s e := by
      rw [ih]
      constructor
      · rintro ⟨k, e, hk, hrest⟩
        rcases Nat.lt_succ_iff_lt_or_eq.mp hk with hk | rfl
        · exact .inl ⟨k, e, hk, hrest⟩
        · exact .inr ⟨e, hrest⟩
      · rintro (⟨k, e, hk, hrest⟩ | ⟨e, hrest⟩)
        · exact ⟨k, e, by omega, hrest⟩
        · exact ⟨i, e, by omega, hrest⟩
    rw [hsplit]
    cases he : s.seq.chain[i]? with
    | none =>
      have hlen : s.seq.chain.length ≤ i := List.getElem?_eq_none_iff.mp he
      rw [walkAt_of_length_le (Nat.le_succ_of_le hlen), ← walkAt_of_length_le hlen]
      simp
    | some e =>
      rw [walkAt_succ he]
      rcases walkEntry_split s (s.walkAt i) i e with ⟨hskip, h⟩ | ⟨hskip, hstop, h⟩ | ⟨hskip, hstop, -, h⟩ | ⟨hskip, hstop, -, -, h⟩
          | ⟨hskip, hstop, -, -, h⟩ <;> rw [h]
      · refine ⟨.inl, fun h => h.elim id fun ⟨e', he', hw, _⟩ => ?_⟩
        obtain rfl := Option.some.inj he'
        exact hskip.resolve_right (not_not.mpr hw)
      · refine ⟨fun _ => .inr ⟨e, rfl, ?_, hstop⟩, fun _ => rfl⟩
        exact not_not.mp fun hw => hskip (.inr hw)
      all_goals
        refine ⟨.inl, fun h => h.elim id fun ⟨e', he', _, hs⟩ => ?_⟩
        obtain rfl := Option.some.inj he'
        exact absurd hs hstop

/-! ## The contactor changes of a walk (R88, step 5; R90) -/

theorem waits_asked_of_other {s : State} {p q : Job → Bool} {j : Job} (hpq : ∀ k, p k = true → q k = false) (h : s.waits q = true) :
    ({ s with bus := s.asked p j } : State).waits q = true := by
  obtain ⟨r, hr, hq⟩ := List.any_eq_true.mp h
  have hp : p r.job = false := by
    by_contra hp
    rw [hpq r.job (Bool.eq_true_of_not_eq_false hp)] at hq
    exact Bool.false_ne_true hq
  refine List.any_eq_true.mpr ⟨r, ?_, hq⟩
  simp only [State.asked]
  split
  · exact List.mem_map.mpr ⟨r, hr, by simp [hp]⟩
  · exact List.mem_append.mpr (.inl hr)

theorem waits_asked {s : State} {p q : Job → Bool} {j : Job} (hq : q j = true) : ({ s with bus := s.asked p j } : State).waits q = true := by
  by_cases h : (s.bus.waiting.any fun r => p r.job) = true
  · obtain ⟨r, hr, hp⟩ := List.any_eq_true.mp h
    refine List.any_eq_true.mpr ⟨{ r with job := j }, ?_, hq⟩
    simp only [State.asked, h, if_true]
    exact List.mem_map.mpr ⟨r, hr, by simp [hp]⟩
  · refine List.any_eq_true.mpr ⟨⟨j, s.bus.event⟩, ?_, hq⟩
    simp only [State.asked, if_neg h]
    exact List.mem_append.mpr (.inr (List.mem_singleton.mpr rfl))

/-- R90: from s to t the bays p are commanded on or off, each that changes with a HEAT request unless its post is SILENT. -/
structure State.commands (s t : State) (p : BayNo → Bool) (on : Bool) : Prop where
  frame : ∃ cs rs, t = { s with seq := { s.seq with commanded := cs }, bus := { s.bus with waiting := rs } }
  commanded : ∀ b : BayNo, t.seq.commanded[b] = if p b = true ∧ s.seq.commanded[b].on ≠ on then ⟨on, s.now⟩ else s.seq.commanded[b]
  keeps : ∀ (b : BayNo) (v : Bool), p b = false ∨ s.seq.commanded[b].on = on → s.waits (· == .heat b v) = true → t.waits (· == .heat b v) = true
  asks : ∀ b : BayNo, p b = true → s.seq.commanded[b].on ≠ on → s.bus.posts[b].silent = false → t.waits (· == .heat b on) = true

theorem commands_none {s : State} {p : BayNo → Bool} {on : Bool} (h : ∀ b : BayNo, p b = true → s.seq.commanded[b].on = on) :
    s.commands s p on where
  frame := ⟨_, _, rfl⟩
  commanded b := (if_neg fun hb => hb.2 (h b hb.1)).symm
  keeps _ _ _ hw := hw
  asks b hb hne := absurd (h b hb) hne

theorem commandHeat_changes {b : BayNo} {on : Bool} {s : State} (h : s.seq.commanded[b].on ≠ on) : commandHeat b on s = { s with
    seq := { s.seq with commanded := s.seq.commanded.set b ⟨on, s.now⟩ }
    bus := if s.bus.posts[b].silent then s.bus else s.asked (Job.isHeatFor b) (.heat b on) } := by
  rw [commandHeat, if_neg h, requestHeat_bus]
  rfl

theorem commands_commandHeat (b : BayNo) (on : Bool) (s : State) : s.commands (commandHeat b on s) (· == b) on := by
  by_cases h : s.seq.commanded[b].on = on
  · have hsame : commandHeat b on s = s := if_pos h
    rw [hsame]
    exact commands_none fun c hc => by rw [eq_of_beq hc, h]
  · rw [commandHeat_changes h]
    refine ⟨?_, fun c => ?_, fun c v hc hw => ?_, fun c hc _ hpost => ?_⟩
    · cases s.bus.posts[b].silent with
      | true => exact ⟨_, s.bus.waiting, rfl⟩
      | false => exact ⟨_, _, rfl⟩
    · by_cases hcb : c = b
      · subst hcb
        exact (Vector.getElem_set_self c.isLt).trans (if_pos ⟨beq_self_eq_true c, h⟩).symm
      · exact (Vector.getElem_set_ne b.isLt c.isLt fun hv => hcb (Fin.ext hv.symm)).trans (if_neg fun hc => hcb (eq_of_beq hc.1)).symm
    · have hcb : c ≠ b := fun hcb => by
        subst hcb
        exact hc.elim (fun hc => by simp at hc) h
      split
      · exact hw
      · refine waits_asked_of_other (fun k hk => ?_) hw
        cases k with
        | heat c' on' =>
          have hc' : c' = b := by simpa [Job.isHeatFor] using hk
          simp [hc', Ne.symm hcb]
        | _ => simp [Job.isHeatFor] at hk
    · have hcb : c = b := eq_of_beq hc
      subst hcb
      rw [hpost, if_neg Bool.false_ne_true]
      exact waits_asked (s := s) (q := (· == Job.heat c on)) (beq_self_eq_true _)

theorem State.commands.trans {s t u : State} {p q : BayNo → Bool} {on : Bool} (h : s.commands t p on) (h' : t.commands u q on) :
    s.commands u (fun b => p b || q b) on := by
  obtain ⟨cs, rs, ht⟩ := h.frame
  have hposts : t.bus.posts = s.bus.posts := by rw [ht]
  have hnow : t.now = s.now := by rw [ht]
  have hon : ∀ b : BayNo, p b = true ∨ s.seq.commanded[b].on = on → t.seq.commanded[b].on = on := fun b hb => by
    rw [h.commanded b]
    split
    · rfl
    · next hn =>
      by_contra hne
      exact hn ⟨hb.resolve_right hne, hne⟩
  have hsame : ∀ b : BayNo, p b = false → t.seq.commanded[b] = s.seq.commanded[b] := fun b hb => by
    rw [h.commanded b, if_neg fun hp => by rw [hb] at hp; exact Bool.false_ne_true hp.1]
  refine ⟨?_, fun b => ?_, fun b v hb hw => ?_, fun b hb hne hpost => ?_⟩
  · obtain ⟨cs', rs', hu⟩ := h'.frame
    rw [ht] at hu
    exact ⟨cs', rs', hu⟩
  · rw [h'.commanded b, hnow]
    cases hp : p b with
    | false => rw [hsame b hp, Bool.false_or]
    | true =>
      rw [if_neg fun hq => hq.2 (hon b (.inl hp)), h.commanded b, hp]
      rfl
  · rcases hb with hb | hb
    · obtain ⟨hp, hq⟩ := Bool.or_eq_false_iff.mp hb
      exact h'.keeps b v (.inl hq) (h.keeps b v (.inl hp) hw)
    · exact h'.keeps b v (.inr (hon b (.inr hb))) (h.keeps b v (.inr hb) hw)
  · cases hp : p b with
    | true => exact h'.keeps b on (.inr (hon b (.inl hp))) (h.asks b hp hne hpost)
    | false =>
      have hq : q b = true := by rwa [hp, Bool.false_or] at hb
      refine h'.asks b hq ?_ ?_
      · rw [hsame b hp]
        exact hne
      · rw [hposts]
        exact hpost

theorem commands_foldl (ms : List Member) (on : Bool) (s : State) :
    s.commands (ms.foldl (fun s m => commandHeat m.bay on s) s) (fun b => ms.any (·.bay == b)) on := by
  induction ms generalizing s with
  | nil => exact commands_none fun b hb => absurd hb Bool.false_ne_true
  | cons m ms ih =>
    have h := (commands_commandHeat m.bay on s).trans (ih (commandHeat m.bay on s))
    have hany : (fun b => (b == m.bay) || ms.any (·.bay == b)) = fun b => (m :: ms).any (·.bay == b) := funext fun b => by
      rw [List.any_cons, Bool.beq_comm]
    rw [hany] at h
    exact h

/-! ## The findings of a walk (R99) -/

theorem currentEnded_updated (d : Defect) : addsBlock d (Finding.currentEnded.updated d) = false := by
  cases h : d.action <;> simp [addsBlock, Finding.updated, h]

theorem applyPost_currentEnded (st : Store) (b : BayNo) :
    (st.applyPost b .currentEnded).2.inhibits = false ∧ (st.applyPost b .currentEnded).2.blocks = false
    ∧ (st.applyPost b .currentEnded).2.lost = false := by
  unfold Store.applyPost
  cases hd : st.lists[b].find? Finding.currentEnded.keys with
  | some d =>
    rw [applyFinding_of_found hd]
    simp only [if_true]
    rw [settleMark_of_kept rfl rfl]
    exact ⟨rfl, currentEnded_updated d, rfl⟩
  | none =>
    rw [applyFinding_of_not_created hd rfl]
    exact ⟨rfl, rfl, rfl⟩

/-- R99: the end of a current is a write of the store and a notice. -/
theorem postFinding_currentEnded (b : BayNo) (s : State) : ∃ st n m, postFinding b .currentEnded s = { s with
    store := st
    dispatch := { s.dispatch with notices := n }
    workshop := { s.workshop with notices := m } } := by
  unfold postFinding
  split
  · obtain ⟨hinhibits, hblocks, hlost⟩ := applyPost_currentEnded s.store b
    simp only [reportWrite, hinhibits, hblocks, hlost]
    cases (s.store.applyPost b .currentEnded).2.applied with
    | false => exact ⟨_, s.dispatch.notices, s.workshop.notices, rfl⟩
    | true => exact ⟨_, _, _, rfl⟩
  · exact ⟨s.store, s.dispatch.notices, s.workshop.notices, rfl⟩

theorem foldl_currentEnded (bs : List BayNo) (s : State) : ∃ st n m, bs.foldl (fun s b => postFinding b .currentEnded s) s = { s with
    store := st
    dispatch := { s.dispatch with notices := n }
    workshop := { s.workshop with notices := m } } := by
  induction bs generalizing s with
  | nil => exact ⟨s.store, s.dispatch.notices, s.workshop.notices, rfl⟩
  | cons b bs ih =>
    obtain ⟨st, n, m, hb⟩ := postFinding_currentEnded b s
    rw [List.foldl_cons, hb]
    exact ih _

/-! ## The walk as a whole -/

/-- R88, steps 1 and 2: the units held are released and the on-set is empty. -/
def State.slotEnded (s : State) : State := s.updSeq fun q => { q with held := Vector.replicate 24 none, onSet := [] }

/-- R88: the walk does not begin: the feed alarm is asserted, or the stuck units alone exceed a limit. -/
def State.walkBarred (s : State) : Bool := s.seq.feedAlarm || s.slotEnded.seq.stuckExceed

/-- R88: the state after a walk, before its commands and findings. -/
def State.walked (s : State) : State :=
  if s.walkBarred then s.slotEnded
  else s.slotEnded.updSeq fun q => { q with
    onSet := (walkFrom s.slotEnded ⟨[], s.seq.stuck, [], false⟩ 0 s.seq.chain).1.joined
    stuck := (walkFrom s.slotEnded ⟨[], s.seq.stuck, [], false⟩ 0 s.seq.chain).1.stuck
    chain := (walkFrom s.slotEnded ⟨[], s.seq.stuck, [], false⟩ 0 s.seq.chain).2 }

/-- R88: what a walk commands on and off. -/
theorem commandChanges_spec (old new : List Member) (s : State) : ∃ u,
    s.commands u (fun b => old.any (·.bay == b) && !new.any (·.bay == b)) false
    ∧ u.commands (commandChanges old new s) (fun b => new.any (·.bay == b) && !old.any (·.bay == b)) true := by
  have hany : ∀ (xs ys : List Member) (b : BayNo),
      (xs.filter fun m => !ys.any (·.bay == m.bay)).any (·.bay == b) = (xs.any (·.bay == b) && !ys.any (·.bay == b)) := fun xs ys b => by
    rw [List.any_filter]
    induction xs with
    | nil => rfl
    | cons m xs ih =>
      rw [List.any_cons, List.any_cons, ih, Bool.and_or_distrib_right]
      by_cases hb : m.bay = b
      · rw [hb, Bool.and_comm]
      · rw [beq_false_of_ne hb, Bool.and_false, Bool.false_and]
  have hoff := commands_foldl (old.filter fun m => !new.any (·.bay == m.bay)) false s
  have hon := commands_foldl (new.filter fun m => !old.any (·.bay == m.bay)) true
    ((old.filter fun m => !new.any (·.bay == m.bay)).foldl (fun s m => commandHeat m.bay false s) s)
  simp only [hany] at hoff hon
  exact ⟨_, hoff, hon⟩

/-- R88: a walk lays the on-set, commands what changes, and reports the currents that ended. -/
theorem slotWalk_spec (s : State) : ∃ u v st n m,
    s.walked.commands u (fun b => s.seq.onSet.any (·.bay == b) && !s.walked.seq.onSet.any (·.bay == b)) false
    ∧ u.commands v (fun b => s.walked.seq.onSet.any (·.bay == b) && !s.seq.onSet.any (·.bay == b)) true
    ∧ slotWalk s = { v with
        store := st
        dispatch := { v.dispatch with notices := n }
        workshop := { v.workshop with notices := m } } := by
  cases hbarred : s.walkBarred with
  | true =>
    have hwalked : s.walked = s.slotEnded := if_pos hbarred
    have hwalk : slotWalk s = commandChanges s.seq.onSet [] s.slotEnded := if_pos hbarred
    obtain ⟨u, hoff, hon⟩ := commandChanges_spec s.seq.onSet [] s.slotEnded
    rw [hwalked, hwalk]
    exact ⟨u, _, _, _, _, hoff, hon, rfl⟩
  | false =>
    have hwalked : s.walked = _ := if_neg (Bool.eq_false_iff.mp hbarred)
    obtain ⟨u, hoff, hon⟩ := commandChanges_spec s.seq.onSet s.walked.seq.onSet s.walked
    obtain ⟨st, n, m, hended⟩ := foldl_currentEnded (walkFrom s.slotEnded ⟨[], s.seq.stuck, [], false⟩ 0 s.seq.chain).1.ended
      (commandChanges s.seq.onSet s.walked.seq.onSet s.walked)
    refine ⟨u, _, st, n, m, hoff, hon, ?_⟩
    rw [← hended, hwalked]
    exact if_neg (Bool.eq_false_iff.mp hbarred)

/-! ## What a walk leaves (R88) -/

theorem walked_frame (s : State) : ∃ ms stuck chain, s.walked = { s with
    seq := { s.seq with held := Vector.replicate 24 none, onSet := ms, stuck := stuck, chain := chain } } := by
  unfold State.walked
  split
  · exact ⟨_, _, _, rfl⟩
  · exact ⟨_, _, _, rfl⟩

/-- A walk changes the sequencer by its commands and the state beyond by its requests and findings. -/
theorem slotWalk_frame (s : State) : ∃ cs rs st n m, slotWalk s = { s with
    seq := { s.walked.seq with commanded := cs }
    bus := { s.bus with waiting := rs }
    store := st
    dispatch := { s.dispatch with notices := n }
    workshop := { s.workshop with notices := m } } := by
  obtain ⟨u, v, st, n, m, hoff, hon, hwalk⟩ := slotWalk_spec s
  obtain ⟨cs, rs, hu⟩ := hoff.frame
  obtain ⟨cs', rs', hv⟩ := hon.frame
  obtain ⟨ms, stuck, chain, hwalked⟩ := walked_frame s
  rw [hv, hu] at hwalk
  rw [hwalk, hwalked]
  exact ⟨cs', rs', st, n, m, rfl⟩

theorem slotWalk_seq (s : State) : ∃ cs, (slotWalk s).seq = { s.walked.seq with commanded := cs } := by
  obtain ⟨cs, rs, st, n, m, h⟩ := slotWalk_frame s
  exact ⟨cs, congrArg State.seq h⟩

theorem walked_loadSound (s : State) : s.walked.seq.loadSound := by
  unfold State.walked
  cases hbarred : s.walkBarred with
  | true => exact (loadSound_iff _).mpr (.inl rfl)
  | false =>
    have hstuck : s.slotEnded.seq.stuckExceed = false := (Bool.or_eq_false_iff.mp hbarred).2
    exact loadSound_walk (s := s.slotEnded) rfl hstuck

theorem slotWalk_loadSound (s : State) : (slotWalk s).seq.loadSound := by
  obtain ⟨cs, h⟩ := slotWalk_seq s
  rw [h]
  exact loadSound_of_loads (walked_loadSound s) rfl rfl rfl rfl

/-- R88, step 5: a bay's commanded state follows the on-set, with a HEAT request where it changes. -/
theorem slotWalk_commands (s : State) (b : BayNo) :
    let was := s.seq.onSet.any (·.bay == b)
    let is := s.walked.seq.onSet.any (·.bay == b)
    (slotWalk s).seq.commanded[b] = (if was = is ∨ s.seq.commanded[b].on = is then s.seq.commanded[b] else ⟨is, s.now⟩)
    ∧ ((slotWalk s).seq.commanded[b].on ≠ s.seq.commanded[b].on → s.bus.posts[b].silent = false →
        (slotWalk s).waits (· == .heat b is) = true) := by
  intro was is
  obtain ⟨u, v, st, n, m, hoff, hon, hwalk⟩ := slotWalk_spec s
  have hwaits : ∀ p, (slotWalk s).waits p = v.waits p := fun p => by rw [hwalk]; rfl
  have hseq : (slotWalk s).seq = v.seq := by rw [hwalk]
  obtain ⟨ms, stuck, chain, hwalked⟩ := walked_frame s
  have hstart : s.walked.seq.commanded = s.seq.commanded ∧ s.walked.now = s.now ∧ s.walked.bus = s.bus := by
    rw [hwalked]
    exact ⟨rfl, rfl, rfl⟩
  obtain ⟨hcommanded, hnow, hbus⟩ := hstart
  obtain ⟨cs, rs, hu⟩ := hoff.frame
  have hu' : u.now = s.now ∧ u.bus.posts = s.bus.posts := by
    rw [hu, ← hnow, ← hbus]
    exact ⟨rfl, rfl⟩
  have h1 := hoff.commanded b
  have h2 := hon.commanded b
  have h3 := hoff.asks b
  have h4 := hon.asks b
  have h5 := hon.keeps b false
  simp only [hcommanded, hnow, hbus] at h1 h3
  simp only [hu'.1, hu'.2] at h2 h4
  rw [hseq, hwaits]
  have hwas : s.seq.onSet.any (·.bay == b) = was := rfl
  have his : s.walked.seq.onSet.any (·.bay == b) = is := rfl
  rw [hwas, his] at h1 h2 h3 h4 h5
  clear_value was is
  have hstays : v.seq.commanded[b] = s.seq.commanded[b] → was = is ∨ s.seq.commanded[b].on = is →
      v.seq.commanded[b] = (if was = is ∨ s.seq.commanded[b].on = is then s.seq.commanded[b] else ⟨is, s.now⟩)
      ∧ (v.seq.commanded[b].on ≠ s.seq.commanded[b].on → s.bus.posts[b].silent = false → v.waits (· == .heat b is) = true) := fun h hc =>
    ⟨h.trans (if_pos hc).symm, fun hne => absurd (congrArg Commanded.on h) hne⟩
  have hchanges : v.seq.commanded[b] = ⟨is, s.now⟩ → ¬ (was = is ∨ s.seq.commanded[b].on = is) →
      (s.bus.posts[b].silent = false → v.waits (· == .heat b is) = true) →
      v.seq.commanded[b] = (if was = is ∨ s.seq.commanded[b].on = is then s.seq.commanded[b] else ⟨is, s.now⟩)
      ∧ (v.seq.commanded[b].on ≠ s.seq.commanded[b].on → s.bus.posts[b].silent = false → v.waits (· == .heat b is) = true) := fun h hc hw =>
    ⟨h.trans (if_neg hc).symm, fun _ => hw⟩
  by_cases hsame : was = is
  · have hoff' : (was && !is) = false := by rw [hsame, Bool.and_not_self]
    have hon' : (is && !was) = false := by rw [hsame, Bool.and_not_self]
    rw [hoff', if_neg fun h => Bool.false_ne_true h.1] at h1
    rw [hon', if_neg fun h => Bool.false_ne_true h.1, h1] at h2
    exact hstays h2 (.inl hsame)
  · cases is with
    | true =>
      obtain rfl : was = false := Bool.eq_false_iff.mpr hsame
      rw [Bool.false_and, if_neg fun h => Bool.false_ne_true h.1] at h1
      rw [h1] at h2 h4
      by_cases hcommand : s.seq.commanded[b].on = true
      · exact hstays (h2.trans (if_neg fun h => h.2 hcommand)) (.inr hcommand)
      · exact hchanges (h2.trans (if_pos ⟨rfl, hcommand⟩)) (not_or.mpr ⟨hsame, hcommand⟩) (h4 rfl hcommand)
    | false =>
      obtain rfl : was = true := Bool.eq_true_of_not_eq_false hsame
      rw [Bool.false_and, if_neg fun h => Bool.false_ne_true h.1] at h2
      by_cases hcommand : s.seq.commanded[b].on = false
      · exact hstays (h2.trans (h1.trans (if_neg fun h => h.2 hcommand))) (.inr hcommand)
      · exact hchanges (h2.trans (h1.trans (if_pos ⟨rfl, hcommand⟩))) (not_or.mpr ⟨hsame, hcommand⟩)
          fun hpost => h5 (.inl rfl) (h3 rfl hcommand hpost)

/-! ## What the obligation says of a walk, in the walk's own terms -/

theorem eligible_iff (s : State) (b : BayNo) : s.eligible b = true ↔
    (s.bay b).state ∈ [.bound, .cleared] ∧ (s.bay b).plug = true ∧ s.bus.posts[b].silent = false
      ∧ (s.bay b).hold = false ∧ (∀ d ∈ s.store.lists[b], d.action = .inhibit → d.state ∉ [.opened, .acknowledged])
      ∧ (∀ e : EngineNo, s.lamp.engines[e] ≠ .releasing b ∧ ∀ x, s.lamp.engines[e] = .running x → x.bay ≠ b) ∧ s.classOf b ≠ none
      ∧ s.seq.feedAlarm = false := by
  have hinhibited : s.inhibited b = false ↔ ∀ d ∈ s.store.lists[b], d.action = .inhibit → d.state ∉ [.opened, .acknowledged] := by
    simp only [State.inhibited, List.any_eq_false, Bool.and_eq_true, beq_iff_eq, standing_iff, not_and]
  have htest : s.underTest b = false ↔ ∀ e : EngineNo, s.lamp.engines[e] ≠ .releasing b ∧ ∀ x, s.lamp.engines[e] = .running x → x.bay ≠ b := by
    rw [Bool.eq_false_iff, ne_eq, underTest_iff]
    simp [not_or]
  have hsilent : s.silent b = s.bus.posts[b].silent := rfl
  rw [← hinhibited, ← htest, ← hsilent]
  simp [State.eligible, Option.isSome_iff_ne_none, and_assoc]

theorem walkBarred_iff (s : State) : s.walkBarred = true ↔ s.seq.feedAlarm = true
    ∨ s.seq.total < unitsIn (s.seq.stuck.toList.filterMap id)
    ∨ ∃ f : Fin 4, s.seq.feeders[f] < unitsInOn f (s.seq.stuck.toList.filterMap id) := by
  have hstuck : s.slotEnded.seq.stuckExceed = s.seq.stuckExceed := rfl
  rw [State.walkBarred, hstuck]
  simp [Sequencer.stuckExceed, fixedUnits_eq, fixedUnitsOn_eq, allFeeders]

/-- R89: the stuck units that count, of the bays q leaves out. -/
theorem stuck_filterMap (v : Vector (Option UnitsOn) 24) (s : State) (p : BayNo → Bool)
    (h : ∀ b : BayNo, v[b] = if p b then none else s.seq.stuck[b]) :
    v.toList.filterMap id = (List.finRange 24).filterMap fun b => if p b then none else s.seq.stuck[b] := by
  have hv : v.toList = (List.finRange 24).map fun b => v[b] := by
    refine List.ext_getElem (by simp) fun i h1 h2 => ?_
    simp
  rw [hv, List.filterMap_map]
  exact List.filterMap_congr fun b _ => h b

/-! ## A walk that is not barred -/

section Walked

variable {s : State} (hfree : s.walkBarred = false)
include hfree

theorem walked_of_free : s.walked.seq.onSet = (s.slotEnded.walkAt s.seq.chain.length).joined
    ∧ s.walked.seq.stuck = (s.slotEnded.walkAt s.seq.chain.length).stuck
    ∧ ∀ i : Nat, s.walked.seq.chain[i]? = s.seq.chain[i]?.map fun e => (walkEntry s.slotEnded (s.slotEnded.walkAt i) i e).2 := by
  have hwalked : s.walked = _ := if_neg (Bool.eq_false_iff.mp hfree)
  have hend := walkAt_of_length_le (s := s.slotEnded) (i := s.seq.chain.length) le_rfl
  refine ⟨?_, ?_, fun i => ?_⟩
  · rw [hend, hwalked]
    rfl
  · rw [hend, hwalked]
    rfl
  · rw [hwalked]
    exact walked_getElem? s.slotEnded i

theorem joined_before {i : Nat} (hi : i ≤ s.seq.chain.length) :
    (s.walked.seq.onSet.filter fun m => m.entry.any (· < i)) = (s.slotEnded.walkAt i).joined := by
  rw [(walked_of_free hfree).1]
  exact filter_joined s.slotEnded hi

/-- R88: the member's entry waits and is TAKEN. -/
theorem walked_member {m : Member} (hm : m ∈ s.walked.seq.onSet) : ∃ (i : Nat) (e : Entry) (c : ClassRecord), s.seq.chain[i]? = some e
    ∧ e.status = .waiting ∧ e.bay = m.bay ∧ s.classOf m.bay = some c ∧ m = ⟨e.bay, c.units, (s.bay e.bay).feeder, some i⟩
    ∧ s.walked.seq.chain[i]? = some { e with status := .taken } := by
  obtain ⟨honSet, -, hchain⟩ := walked_of_free hfree
  rw [honSet] at hm
  obtain ⟨i, -, e, c, he, hskip, hstop, hel, hc, hfits, rfl⟩ := walkAt_joins s.slotEnded _ m hm
  refine ⟨i, e, c, he, not_not.mp fun hw => hskip (.inr hw), rfl, hc, rfl, ?_⟩
  have he' : s.seq.chain[i]? = some e := he
  rw [hchain, he', Option.map_some, walkEntry_of_fits hskip hstop hel hfits]

theorem walked_stuck (b : BayNo) : s.walked.seq.stuck[b] = if s.walked.seq.onSet.any (·.bay == b) then none else s.seq.stuck[b] := by
  obtain ⟨honSet, hstuck, -⟩ := walked_of_free hfree
  have h := stuck_walkAt s.slotEnded s.seq.chain.length b
  rw [← honSet, ← hstuck] at h
  exact h

end Walked

/-- R89: the units that a walk counts before a position, the stuck units of the bays q left out. -/
def State.countedAt (s : State) (i : Nat) (q : BayNo → Bool) : List UnitsOn :=
  (s.slotEnded.walkAt i).joined.map (fun m => (⟨m.units, m.feeder⟩ : UnitsOn))
    ++ (List.finRange 24).filterMap fun b => if q b || (s.slotEnded.walkAt i).joined.any (·.bay == b) then none else s.seq.stuck[b]

theorem countedAt_units {s : State} {i : Nat} {q : BayNo → Bool} {v : Vector (Option UnitsOn) 24}
    (hv : ∀ b : BayNo, v[b] = if q b then none else (s.slotEnded.walkAt i).stuck[b]) :
    unitsIn (s.countedAt i q) = memberUnits (s.slotEnded.walkAt i).joined + fixedUnits v
    ∧ ∀ f, unitsInOn f (s.countedAt i q) = memberUnitsOn f (s.slotEnded.walkAt i).joined + fixedUnitsOn f v := by
  have hstuck := stuck_filterMap v s (fun b => q b || (s.slotEnded.walkAt i).joined.any (·.bay == b)) fun b => by
    rw [hv, stuck_walkAt]
    cases q b with
    | true => rfl
    | false => rfl
  rw [State.countedAt, ← hstuck]
  refine ⟨?_, fun f => ?_⟩
  · rw [unitsIn_append, memberUnits_eq, fixedUnits_eq]
    rfl
  · rw [unitsInOn_append, memberUnitsOn_eq, fixedUnitsOn_eq]
    rfl

theorem stopsAt_iff (s : State) (i : Nat) (e : Entry) : (s.slotEnded.walkAt i).stopsAt s.slotEnded e ↔
    s.seq.total ≤ unitsIn (s.countedAt i fun _ => false)
      ∨ (s.eligible e.bay = true ∧ ∃ m ∈ (s.slotEnded.walkAt i).joined, m.bay = e.bay) := by
  rw [(countedAt_units (v := (s.slotEnded.walkAt i).stuck) fun b => by rw [if_neg Bool.false_ne_true]).1]
  rfl

theorem fitsAt_iff {s : State} {i : Nat} {e : Entry} {c : ClassRecord} (hc : s.classOf e.bay = some c) :
    (s.slotEnded.walkAt i).fitsAt s.slotEnded e ↔
      unitsIn (s.countedAt i (· == e.bay)) + c.units ≤ s.seq.total
      ∧ unitsInOn (s.bay e.bay).feeder (s.countedAt i (· == e.bay)) + c.units ≤ s.seq.feeders[(s.bay e.bay).feeder] := by
  obtain ⟨htotal, hfeeder⟩ := countedAt_units (s := s) (i := i) (q := (· == e.bay)) (v := (s.slotEnded.walkAt i).stuck.set e.bay none) fun b => by
    by_cases hb : b = e.bay
    · subst hb
      exact (Vector.getElem_set_self e.bay.isLt).trans (if_pos (beq_self_eq_true _)).symm
    · exact (Vector.getElem_set_ne e.bay.isLt b.isLt fun h => hb (Fin.ext h.symm)).trans (if_neg fun h => hb (eq_of_beq h)).symm
  have hunits : s.slotEnded.unitsOf e.bay = c.units := by
    have hc' : s.slotEnded.classOf e.bay = some c := hc
    simp only [State.unitsOf, hc']
  rw [htotal, hfeeder, WalkState.fitsAt, hunits, WalkState.fits, Bool.and_eq_true, decide_eq_true_iff, decide_eq_true_iff]
  exact Iff.rfl

/-- R88: the walk skips an entry that does not wait and every entry behind one that has stopped it. -/
theorem skips_or_stops_iff {s : State} {i : Nat} {e : Entry} (he : s.seq.chain[i]? = some e) :
    (s.slotEnded.walkAt i).skips e ∨ (s.slotEnded.walkAt i).stopsAt s.slotEnded e ↔ e.status ≠ .waiting
      ∨ ∃ k e', k ≤ i ∧ s.seq.chain[k]? = some e' ∧ e'.status = .waiting ∧ (s.slotEnded.walkAt k).stopsAt s.slotEnded e' := by
  rw [WalkState.skips, stopped_walkAt_iff]
  constructor
  · rintro ((⟨k, e', hk, hrest⟩ | hw) | hstop)
    · exact .inr ⟨k, e', by omega, hrest⟩
    · exact .inl hw
    · by_cases hw : e.status = .waiting
      · exact .inr ⟨i, e, le_rfl, he, hw, hstop⟩
      · exact .inl hw
  · rintro (hw | ⟨k, e', hk, he', hw, hstop⟩)
    · exact .inl (.inr hw)
    · rcases Nat.lt_or_eq_of_le hk with hk | rfl
      · exact .inl (.inl ⟨k, e', hk, he', hw, hstop⟩)
      · rw [he] at he'
        obtain rfl := Option.some.inj he'
        exact .inr hstop

/-- R88: what becomes of an entry. -/
theorem walked_entry {s : State} (hfree : s.walkBarred = false) {i : Nat} {e : Entry} (he : s.seq.chain[i]? = some e) :
    let goes := ¬ (s.slotEnded.walkAt i).skips e ∧ ¬ (s.slotEnded.walkAt i).stopsAt s.slotEnded e
    (¬ goes → s.walked.seq.chain[i]? = some e)
    ∧ (goes → s.eligible e.bay = false → s.walked.seq.chain[i]? = some { e with status := .missed })
    ∧ (goes → s.eligible e.bay = true → (s.slotEnded.walkAt i).fitsAt s.slotEnded e →
        s.walked.seq.chain[i]? = some { e with status := .taken })
    ∧ (goes → s.eligible e.bay = true → ¬ (s.slotEnded.walkAt i).fitsAt s.slotEnded e → s.walked.seq.chain[i]? = some e) := by
  intro goes
  have hchain := (walked_of_free hfree).2.2 i
  rw [he, Option.map_some] at hchain
  rw [hchain]
  refine ⟨fun hnot => congrArg some ?_, fun ⟨hskip, hstop⟩ hel => congrArg some ?_, fun ⟨hskip, hstop⟩ hel hfits => congrArg some ?_,
    fun ⟨hskip, hstop⟩ hel hfits => congrArg some ?_⟩
  · by_cases hskip : (s.slotEnded.walkAt i).skips e
    · rw [walkEntry_of_skips hskip]
    · rw [walkEntry_of_stops hskip (not_not.mp fun hstop => hnot ⟨hskip, hstop⟩)]
  · rw [walkEntry_of_not_eligible hskip hstop hel]
  · rw [walkEntry_of_fits hskip hstop hel hfits]
  · rw [walkEntry_of_not_fits hskip hstop hel hfits]

/-- R88: an entry that joins puts its bay in the on-set. -/
theorem walked_joins {s : State} (hfree : s.walkBarred = false) {i : Nat} {e : Entry} {c : ClassRecord} (he : s.seq.chain[i]? = some e)
    (hskip : ¬ (s.slotEnded.walkAt i).skips e) (hstop : ¬ (s.slotEnded.walkAt i).stopsAt s.slotEnded e) (hel : s.eligible e.bay = true)
    (hc : s.classOf e.bay = some c) (hfits : (s.slotEnded.walkAt i).fitsAt s.slotEnded e) :
    ⟨e.bay, c.units, (s.bay e.bay).feeder, some i⟩ ∈ s.walked.seq.onSet := by
  have hjoins : s.slotEnded.joins i ⟨e.bay, c.units, (s.bay e.bay).feeder, some i⟩ := ⟨e, c, he, hskip, hstop, hel, hc, hfits, rfl⟩
  have hi : i + 1 ≤ s.seq.chain.length := (List.getElem?_eq_some_iff.mp he).1
  obtain ⟨ms, hms, -⟩ := joined_walkAt_le s.slotEnded hi
  rw [(walked_of_free hfree).1, hms]
  exact List.mem_append.mpr (.inl (joins_mem hjoins))

/-! ## The parts of a full pass (R60, R75 to R77) -/

theorem foldl_setPlan (f : BayNo → PlanResult) (bs : List BayNo) (s : State) : ∃ rs,
    (bs.map fun b => (b, f b)).foldl (fun s r => setPlan r.1 r.2 s) s = { s with planner := { s.planner with results := rs } }
    ∧ ∀ b : BayNo, rs[b] = if b ∈ bs then f b else s.planner.results[b] := by
  induction bs generalizing s with
  | nil => exact ⟨s.planner.results, rfl, fun b => (if_neg List.not_mem_nil).symm⟩
  | cons c bs ih =>
    obtain ⟨rs, hfold, hrs⟩ := ih (setPlan c (f c) s)
    refine ⟨rs, hfold, fun b => ?_⟩
    rw [hrs b]
    by_cases hb : b ∈ bs
    · rw [if_pos hb, if_pos (List.mem_cons_of_mem c hb)]
    · rw [if_neg hb]
      by_cases hbc : b = c
      · subst hbc
        rw [if_pos List.mem_cons_self]
        exact Vector.getElem_set_self b.isLt
      · rw [if_neg fun h => (List.mem_cons.mp h).elim hbc hb]
        exact Vector.getElem_set_ne c.isLt b.isLt fun h => hbc (Fin.ext h.symm)

theorem foldl_raiseCapped (hs : List Handed) (s : State) : ∃ rs,
    hs.foldl (fun s h => raiseCapped h.bay s) s = { s with planner := { s.planner with results := rs } }
    ∧ ∀ b : BayNo, rs[b] = if b ∈ hs.map (·.bay) then
        { s.planner.results[b] with causes := s.planner.results[b].causes ||| 0b100000#6 } else s.planner.results[b] := by
  induction hs generalizing s with
  | nil => exact ⟨s.planner.results, rfl, fun b => (if_neg List.not_mem_nil).symm⟩
  | cons h hs ih =>
    obtain ⟨rs, hfold, hrs⟩ := ih (raiseCapped h.bay s)
    have hraised : ∀ b : BayNo, (raiseCapped h.bay s).planner.results[b] = if b = h.bay then
        { s.planner.results[b] with causes := s.planner.results[b].causes ||| 0b100000#6 } else s.planner.results[b] := fun b => by
      by_cases hb : b = h.bay
      · subst hb
        rw [if_pos rfl]
        exact Vector.getElem_set_self h.bay.isLt
      · rw [if_neg hb]
        exact Vector.getElem_set_ne h.bay.isLt b.isLt fun hv => hb (Fin.ext hv.symm)
    refine ⟨rs, hfold, fun b => ?_⟩
    rw [hrs b, hraised b, List.map_cons]
    by_cases hb : b = h.bay
    · rw [if_pos hb, if_pos (List.mem_cons.mpr (.inl hb))]
      split
      · simp [BitVec.or_assoc]
      · rfl
    · rw [if_neg hb]
      exact if_congr (by simp [hb]) rfl rfl

/-- R76, R77: what the ends of passes leave: the results, more sticky flags, more notices. -/
structure State.ends (s t : State) (bs : List BayNo) : Prop where
  frame : ∃ sticky n m, t = { s with
    planner := { s.planner with sticky := sticky }
    dispatch := { s.dispatch with notices := n }
    workshop := { s.workshop with notices := m } }
  grows : ∃ more, t.planner.sticky = s.planner.sticky ||| more
  sticky : ∀ b ∈ bs, s.planner.results[b].causes &&& ~~~t.planner.sticky = 0#6
  keeps : ∀ (l : Link) (b : BayNo), (s.port l).notices.planner.getLsbD b = true → (t.port l).notices.planner.getLsbD b = true
  tells : ∀ b ∈ bs, ∀ l, s.planner.results[b].causes &&& (s.port l).plannerMask ≠ 0#6 → (t.port l).notices.planner.getLsbD b = true

theorem add_planner_getLsbD (n : Notices) (bs : BaySet) (b : BayNo) :
    (n.add .planner bs).planner.getLsbD b = (n.planner.getLsbD b || bs.getLsbD b) := BitVec.getLsbD_or ..

theorem and_not_or_self (a b : CauseSet) : b &&& ~~~(a ||| b) = 0#6 := by
  refine BitVec.eq_of_getLsbD_eq fun i hi => ?_
  cases ha : a.getLsbD i <;> cases hb : b.getLsbD i <;> simp_all

theorem ends_endPass (b : BayNo) (s : State) : s.ends (endPass b s) [b] := by
  have hmask : ∀ l, (({ s with planner := { s.planner with sticky := s.planner.sticky ||| s.planner.results[b].causes } } : State).port l)
      = s.port l := fun l => by cases l <;> rfl
  have hport := fun l => port_notifyPlanners b s.planner.results[b].causes
    { s with planner := { s.planner with sticky := s.planner.sticky ||| s.planner.results[b].causes } } l
  simp only [hmask] at hport
  obtain ⟨n, m, hframe⟩ := notifyPlanner_frame .dispatch b s.planner.results[b].causes
    { s with planner := { s.planner with sticky := s.planner.sticky ||| s.planner.results[b].causes } }
  obtain ⟨n', m', hframe'⟩ := notifyPlanner_frame .workshop b s.planner.results[b].causes
    (notifyPlanner .dispatch b s.planner.results[b].causes
      { s with planner := { s.planner with sticky := s.planner.sticky ||| s.planner.results[b].causes } })
  rw [← endPass_eq] at hport hframe'
  rw [hframe] at hframe'
  have hsticky : (endPass b s).planner.sticky = s.planner.sticky ||| s.planner.results[b].causes := by rw [hframe']
  refine ⟨⟨_, n', m', hframe'⟩, ⟨_, hsticky⟩, fun c hc => ?_, fun l c hold => ?_, fun c hc l hshown => ?_⟩
  · rw [List.mem_singleton.mp hc, hsticky]
    exact and_not_or_self ..
  · rw [hport l]
    split
    · exact hold
    · rw [add_planner_getLsbD, hold, Bool.true_or]
  · rw [List.mem_singleton.mp hc] at hshown ⊢
    rw [hport l, if_neg hshown, add_planner_getLsbD, single_getLsbD, Bool.or_true]

theorem State.ends.trans {s t u : State} {bs cs : List BayNo} (h : s.ends t bs) (h' : t.ends u cs) : s.ends u (bs ++ cs) := by
  obtain ⟨sticky, n, m, ht⟩ := h.frame
  have hresults : t.planner.results = s.planner.results := by rw [ht]
  have hmask : ∀ l, (t.port l).plannerMask = (s.port l).plannerMask := fun l => by
    rw [ht]
    cases l <;> rfl
  obtain ⟨more, hmore⟩ := h.grows
  obtain ⟨more', hmore'⟩ := h'.grows
  refine ⟨?_, ⟨more ||| more', ?_⟩, fun b hb => ?_, fun l b hold => h'.keeps l b (h.keeps l b hold), fun b hb l hshown => ?_⟩
  · obtain ⟨sticky', n', m', hu⟩ := h'.frame
    rw [ht] at hu
    exact ⟨sticky', n', m', hu⟩
  · rw [hmore', hmore, BitVec.or_assoc]
  · rcases List.mem_append.mp hb with hb | hb
    · have hkept := h.sticky b hb
      rw [hmore', BitVec.not_or, ← BitVec.and_assoc, hkept, BitVec.zero_and]
    · rw [← hresults]
      exact h'.sticky b hb
  · rcases List.mem_append.mp hb with hb | hb
    · exact h'.keeps l b (h.tells b hb l hshown)
    · refine h'.tells b hb l ?_
      rw [hresults, hmask]
      exact hshown

theorem ends_foldl (bs : List BayNo) (s : State) : s.ends (bs.foldl (fun s b => endPass b s) s) bs := by
  induction bs generalizing s with
  | nil => exact ⟨⟨_, s.dispatch.notices, s.workshop.notices, rfl⟩, ⟨0#6, (BitVec.or_zero).symm⟩, fun b hb => absurd hb List.not_mem_nil,
      fun _ _ h => h, fun b hb => absurd hb List.not_mem_nil⟩
  | cons b bs ih => exact (ends_endPass b s).trans (ih (endPass b s))

/-! ## The layout (R85) -/

/-- R85: the entries of passes 1 to n, of the bays in their order and with their counts. -/
def roundEntries (order : List BayNo) (count : BayNo → Nat) (n : Nat) : List Entry :=
  (List.range n).flatMap fun p => (order.filter fun b => decide (p < count b)).map fun b => (⟨b, false, .waiting⟩ : Entry)

theorem layout_eq {hs : List Handed} {count : BayNo → Nat} (h : ∀ x ∈ hs, x.count = count x.bay) :
    layout hs = roundEntries ((sortBy Handed.before hs).map (·.bay)) count 16 := by
  have hsorted : ∀ x ∈ sortBy Handed.before hs, x.count = count x.bay := fun x hx => h x ((sortBy_perm _ hs).mem_iff.mp hx)
  unfold layout roundEntries
  generalize sortBy Handed.before hs = xs at hsorted
  refine List.flatMap_congr fun p _ => ?_
  rw [List.filter_map, List.map_map]
  have hfilter : xs.filter (fun x => decide (p < x.count)) = xs.filter ((fun b => decide (p < count b)) ∘ (·.bay)) :=
    List.filter_congr fun x hx => by rw [Function.comp, hsorted x hx]
  rw [hfilter]
  rfl

/-- R85: a bay has an entry of a pass only while its count is above the pass's number. -/
theorem countP_roundEntries {order : List BayNo} (hn : order.Nodup) (count : BayNo → Nat) (b : BayNo) (n : Nat) :
    (roundEntries order count n).countP (fun e => e.bay == b && !e.pinned) ≤ min n (count b) := by
  have hpass : ∀ p, ((order.filter fun b => decide (p < count b)).map fun b => (⟨b, false, .waiting⟩ : Entry)).countP
      (fun e => e.bay == b && !e.pinned) ≤ if p < count b then 1 else 0 := fun p => by
    rw [List.countP_map]
    have hcount : ((fun e : Entry => e.bay == b && !e.pinned) ∘ fun b => (⟨b, false, .waiting⟩ : Entry)) = (· == b) :=
      funext fun c => Bool.and_true _
    rw [hcount]
    split
    · exact List.nodup_iff_count_le_one.mp (hn.filter _) b
    · next hp =>
      refine Nat.le_of_eq (List.countP_eq_zero.mpr fun c hc hcb => ?_)
      rw [eq_of_beq hcb] at hc
      exact hp (of_decide_eq_true (List.mem_filter.mp hc).2)
  induction n with
  | zero => exact Nat.zero_le _
  | succ n ih =>
    have hn' := hpass n
    rw [roundEntries, List.range_succ, List.flatMap_append, List.countP_append, List.flatMap_singleton]
    rw [roundEntries] at ih
    split at hn' <;> omega

/-! ## A full pass as a whole (R60) -/

/-- R60: the bays of a full pass. -/
theorem mem_passedBays (s : State) (b : BayNo) : b ∈ s.passedBays ↔
    (decide (b.val < s.bayCount) && ((s.bay b).state == .bound || (s.bay b).state == .cleared)) = true := by
  simp [State.passedBays, allBays, State.fitted]

theorem passedBays_nodup (s : State) : s.passedBays.Nodup := (List.nodup_finRange 24).filter _

/-- R62: what a full pass hands the sequencer. -/
def State.handedAll (s : State) : List Handed := s.passedBays.map fun b => s.handedOf b (s.passOf b).turns

/-- R85: the bays of a full pass in the order of the layout. -/
def State.passOrder (s : State) : List BayNo := (sortBy Handed.before s.handedAll).map (·.bay)

theorem handedAll_bays (s : State) : s.handedAll.map (·.bay) = s.passedBays := by
  rw [State.handedAll, List.map_map]
  exact List.map_id _

theorem passOrder_perm (s : State) : s.passOrder.Perm s.passedBays := by
  rw [← handedAll_bays]
  exact (sortBy_perm _ _).map _

/-- R62: the count a pass hands on. -/
def State.passCount (s : State) (b : BayNo) : Nat := (s.handedOf b (s.passOf b).turns).count

theorem mem_capped {s : State} {q : Sequencer} {b : BayNo} (hb : b ∈ s.passedBays) :
    b ∈ (s.handedAll.filter fun h => decide (q.plannedOf h.bay < h.count)).map (·.bay) ↔ q.plannedOf b < s.passCount b := by
  simp only [List.mem_map, List.mem_filter, State.handedAll, decide_eq_true_iff]
  constructor
  · rintro ⟨h, ⟨⟨c, -, rfl⟩, hcapped⟩, rfl⟩
    exact hcapped
  · exact fun h => ⟨_, ⟨⟨b, hb, rfl⟩, h⟩, rfl⟩

theorem fullPass_spec (s : State) : ∃ rs : Vector PlanResult 24,
    let laid : State := { s with seq := s.seq.layOut s.handedAll, planner := { s.planner with results := rs } }
    laid.ends (fullPass s) s.passedBays
    ∧ (∀ b : BayNo, b ∉ s.passedBays → rs[b] = ⟨0, 0#6⟩)
    ∧ ∀ b ∈ s.passedBays, rs[b] = ⟨(s.passOf b).turns, (s.passOf b).cappedAt ((s.seq.layOut s.handedAll).plannedOf b) (s.passCount b)⟩ := by
  obtain ⟨rs, hplans, hrs⟩ := foldl_setPlan s.passOf s.passedBays (s.updPlanner fun p => { p with results := Vector.replicate 24 PlanResult.zero })
  obtain ⟨rs', hcapped, hrs'⟩ := foldl_raiseCapped
    (s.handedAll.filter fun h => decide ((s.seq.layOut s.handedAll).plannedOf h.bay < h.count))
    { s with seq := s.seq.layOut s.handedAll, planner := { s.planner with results := rs } }
  have hpass : fullPass s = s.passedBays.foldl (fun s b => endPass b s)
      { s with seq := s.seq.layOut s.handedAll, planner := { s.planner with results := rs' } } := by
    have hhanded : (s.passedBays.map fun b => (b, s.passOf b)).map (fun r => s.handedOf r.1 r.2.turns) = s.handedAll := by
      rw [List.map_map]
      rfl
    unfold fullPass
    dsimp only
    rw [hplans, hhanded]
    exact congrArg (fun u => s.passedBays.foldl (fun s b => endPass b s) u) hcapped
  refine ⟨rs', ?_, fun b hb => ?_, fun b hb => ?_⟩
  · rw [hpass]
    exact ends_foldl ..
  · have hnot : b ∉ (s.handedAll.filter fun h => decide ((s.seq.layOut s.handedAll).plannedOf h.bay < h.count)).map (·.bay) := fun h => by
      obtain ⟨x, hx, rfl⟩ := List.mem_map.mp h
      exact hb (by rw [← handedAll_bays]; exact List.mem_map_of_mem (List.mem_filter.mp hx).1)
    rw [hrs', if_neg hnot]
    dsimp only
    rw [hrs, if_neg hb]
    exact Vector.getElem_replicate b.isLt
  · rw [hrs']
    dsimp only
    rw [hrs, if_pos hb, PlanResult.cappedAt]
    by_cases hc : (s.seq.layOut s.handedAll).plannedOf b < s.passCount b
    · rw [if_pos ((mem_capped hb).mpr hc), if_pos hc]
    · rw [if_neg fun h => hc ((mem_capped hb).mp h), if_neg hc]

theorem exec_slotTimerExpiry {s : State} (h : s.resetHeld = false) : exec .slotTimerExpiry s = .next (arbitrate (nextSlot s)) :=
  event_of_not_held (f := fun s => arbitrate (nextSlot s)) h

/-! ## The round boundary (R84) -/

/-- R84: the pins of the chain, waiting again. -/
def State.roundPins (s : State) : List Entry := (s.seq.chain.filter (·.pinned)).map fun e => { e with status := .waiting }

/-- R83, R84: the entries of a bay that the round leaves MISSED. -/
def State.roundMissed (s : State) (b : BayNo) : Nat :=
  s.seq.chain.countP fun e => e.bay == b && (e.status == .waiting || e.status == .missed)

/-- R84: the state at the beginning of a round, before its full pass. -/
def State.roundBegun (s : State) : State := beginRound (closeRound s)

/-- R84: an entry at the close of a round: one that waits becomes MISSED. -/
def Entry.closed (e : Entry) : Entry := if e.status = .waiting then { e with status := .missed } else e

theorem closed_key (e : Entry) : e.closed.bay = e.bay ∧ e.closed.pinned = e.pinned := by
  unfold Entry.closed
  split <;> exact ⟨rfl, rfl⟩

theorem closed_waiting (e : Entry) : { e.closed with status := .waiting } = { e with status := .waiting } := by
  unfold Entry.closed
  split <;> rfl

theorem closed_missed (e : Entry) : (e.closed.status == .missed) = (e.status == .waiting || e.status == .missed) := by
  obtain ⟨b, p, st⟩ := e
  cases st <;> rfl

theorem closed_pins (es : List Entry) :
    ((es.map Entry.closed).filter (·.pinned)).map (fun e => ({ e with status := .waiting } : Entry))
      = (es.filter (·.pinned)).map fun e => { e with status := .waiting } := by
  rw [List.filter_map, List.map_map]
  have hpinned : (Entry.pinned ∘ Entry.closed) = Entry.pinned := funext fun e => (closed_key e).2
  rw [hpinned]
  exact List.map_congr_left fun e _ => closed_waiting e

theorem closed_countP (es : List Entry) (b : BayNo) : (es.map Entry.closed).countP (fun e => e.status == .missed && e.bay == b)
    = es.countP fun e => e.bay == b && (e.status == .waiting || e.status == .missed) := by
  rw [List.countP_map]
  refine List.countP_congr fun e _ => ?_
  rw [Function.comp, closed_missed, (closed_key e).1, Bool.and_comm]

theorem roundBegun_eq (s : State) : ∃ missed, s.roundBegun = { s with
      seq := { s.seq with chain := s.roundPins, missed := missed, index := 0, timer := s.planner.slotLength * 1000 }
      planner := { s.planner with inForce := s.planner.slotLength } }
    ∧ ∀ b : BayNo, b.val < s.bayCount → missed[b] = s.roundMissed b := by
  refine ⟨Vector.ofFn fun b => if s.fitted b then (s.seq.chain.map Entry.closed).countP (fun e => e.status == .missed && e.bay == b)
    else s.seq.missed[b], ?_, fun b hb => ?_⟩
  · rw [State.roundPins, ← closed_pins]
    rfl
  · have hfitted : s.fitted b = true := decide_eq_true hb
    refine (Vector.getElem_ofFn b.isLt).trans ((if_pos hfitted).trans ?_)
    exact closed_countP s.seq.chain b

theorem nextSlot_of_lt {s : State} (h : s.seq.index < 15) : nextSlot s =
    slotWalk { s with seq := { s.seq with index := s.seq.index + 1, timer := s.planner.inForce * 1000 } } := if_pos h

theorem nextSlot_of_le {s : State} (h : 15 ≤ s.seq.index) : nextSlot s = slotWalk (fullPass s.roundBegun) := if_neg (by omega)

theorem slotWalk_index (s : State) : (slotWalk s).seq.index = s.seq.index ∧ (slotWalk s).seq.timer = s.seq.timer := by
  obtain ⟨cs, h⟩ := slotWalk_seq s
  obtain ⟨ms, stuck, chain, hwalked⟩ := walked_frame s
  rw [h, hwalked]
  exact ⟨rfl, rfl⟩

/-- R85: the place of a bay in the layout: its departure's in the book, when one is in force. -/
def State.basis (s : State) (b : BayNo) : Option Nat := (s.inForce b).map fun d => s.book.position d.ref

/-- R85: not before, by the positions. -/
theorem handedBefore_eq_false_iff (x y : Handed) : y.before x = false ↔ match x.position, y.position with
    | some p, some q => p ≤ q
    | some _, none => True
    | none, some _ => False
    | none, none => x.bay ≤ y.bay := by
  unfold Handed.before
  cases x.position <;> cases y.position <;> simp

theorem handedBefore_trans (x y z : Handed) (hyx : y.before x = false) (hzy : z.before y = false) : z.before x = false := by
  rw [handedBefore_eq_false_iff] at *
  cases hx : x.position <;> cases hy : y.position <;> cases hz : z.position <;> simp only [hx, hy, hz] at * <;>
    exact le_trans hyx hzy

theorem handedBefore_asymm (x y : Handed) (h : x.before y = true) : y.before x = false := by
  by_contra hyx
  rw [handedBefore_eq_false_iff] at hyx
  have hxy := (handedBefore_eq_false_iff y x).not.mp (ne_of_eq_of_ne h Bool.noConfusion)
  cases hx : x.position <;> cases hy : y.position <;> simp only [hx, hy] at hxy hyx
  · exact hxy (le_of_lt (not_le.mp hyx))
  · exact hxy trivial
  · exact hyx trivial
  · exact hxy (le_of_lt (not_le.mp hyx))

/-- R85: departures in book order, then the others in bay order. -/
theorem passOrder_pairwise (s : State) : s.passOrder.Pairwise fun x y => match s.basis x, s.basis y with
    | some p, some q => p ≤ q
    | some _, none => True
    | none, some _ => False
    | none, none => x ≤ y := by
  have hsorted := sortBy_pairwise (before := Handed.before) handedBefore_asymm handedBefore_trans s.handedAll
  have hposition : ∀ x ∈ sortBy Handed.before s.handedAll, x.position = s.basis x.bay := fun x hx => by
    obtain ⟨b, -, rfl⟩ := List.mem_map.mp ((sortBy_perm _ _).mem_iff.mp hx)
    rfl
  refine List.pairwise_map.mpr (List.Pairwise.imp_of_mem (fun {x y} hx hy hbefore => ?_) hsorted)
  rw [← hposition x hx, ← hposition y hy]
  exact (handedBefore_eq_false_iff x y).mp hbefore

theorem walked_length {s : State} (hfree : s.walkBarred = false) : s.walked.seq.chain.length = s.seq.chain.length := by
  have hwalked : s.walked = _ := if_neg (Bool.eq_false_iff.mp hfree)
  rw [hwalked]
  exact walkFrom_length ..

theorem walked_nodup {s : State} (hfree : s.walkBarred = false) : (s.walked.seq.onSet.map (·.bay)).Nodup := by
  have hwalked : s.walked = _ := if_neg (Bool.eq_false_iff.mp hfree)
  rw [hwalked]
  exact walk_nodup _ _ _ _ List.nodup_nil

theorem fullPass_index (s : State) : (fullPass s.roundBegun).seq.index = 0
    ∧ (fullPass s.roundBegun).seq.timer = s.planner.slotLength * 1000 := by
  obtain ⟨rs, hends, -⟩ := fullPass_spec s.roundBegun
  obtain ⟨sticky, n, m, hu⟩ := hends.frame
  rw [hu]
  exact ⟨rfl, rfl⟩

/-- R85: the pins apart, a bay has at most its count of entries. -/
theorem placed_le {pins : List Entry} (hpins : ∀ e ∈ pins, e.pinned = true) {order : List BayNo} (hn : order.Nodup) (count : BayNo → Nat)
    (b : BayNo) : ((pins ++ roundEntries order count 16).take 64).countP (fun e => e.bay == b && !e.pinned) ≤ count b := by
  have hnone : pins.countP (fun e => e.bay == b && !e.pinned) = 0 := List.countP_eq_zero.mpr fun e he => by simp [hpins e he]
  calc ((pins ++ roundEntries order count 16).take 64).countP (fun e => e.bay == b && !e.pinned)
      ≤ (pins ++ roundEntries order count 16).countP (fun e => e.bay == b && !e.pinned) := (List.take_sublist _ _).countP_le
    _ = (roundEntries order count 16).countP (fun e => e.bay == b && !e.pinned) := by rw [List.countP_append, hnone, Nat.zero_add]
    _ ≤ count b := (countP_roundEntries hn count b 16).trans (Nat.min_le_right _ _)

/-- Settles O50: the expiry by the slot's number, the round boundary by its parts, and the walk entry by entry. -/
theorem slotsAndRounds : Obligations.SlotsAndRounds := by
  unfold Obligations.SlotsAndRounds
  refine ⟨fun s hheld => ?expiry, fun s => ?walk⟩
  case expiry =>
    refine ⟨_, exec_slotTimerExpiry hheld, ?_, fun hlt => congrArg arbitrate (nextSlot_of_lt hlt),
      fun hle => ⟨fullPass s.roundBegun, congrArg arbitrate (nextSlot_of_le hle), ?_⟩⟩
    · intro ms
      show (nextSlot s).seq.index = _ ∧ (nextSlot s).seq.timer = ms
      simp only [ms]
      by_cases hlt : s.seq.index < 15
      · rw [nextSlot_of_lt hlt, if_pos hlt, if_pos hlt]
        exact slotWalk_index _
      · rw [nextSlot_of_le (not_lt.mp hlt), if_neg hlt, if_neg hlt, (slotWalk_index _).1, (slotWalk_index _).2]
        exact fullPass_index s
    · intro begun passed count ahead basis pins
      obtain ⟨missed, hbegun, hmissed⟩ := roundBegun_eq s
      have hpassOf : ∀ b, s.roundBegun.passOf b = begun.passOf b := fun b => by
        rw [hbegun]
        rfl
      have hpassed : ∀ b, b ∈ s.roundBegun.passedBays ↔ passed b = true := fun b => by
        rw [mem_passedBays, hbegun]
        rfl
      have hcount : ∀ b, s.roundBegun.passCount b = count b := fun b => by
        rw [State.passCount, handedOf_count, hpassOf, hbegun]
        rfl
      have hbasis : ∀ b, s.roundBegun.basis b = basis b := fun b => by
        have hahead : ahead = fun d => d.ahead s.clock.minute := funext fun d => (ahead_eq _ d).symm
        simp only [basis]
        rw [hahead, hbegun]
        rfl
      obtain ⟨rs, hends, hzero, hrs⟩ := fullPass_spec s.roundBegun
      obtain ⟨sticky, n, m, hu⟩ := hends.frame
      have hstart : s.roundBegun.seq.chain = pins := by
        rw [hbegun]
        rfl
      have hlaid : s.roundBegun.seq.layOut s.roundBegun.handedAll
          = { s.roundBegun.seq with chain := (pins ++ roundEntries s.roundBegun.passOrder count 16).take 64 } := by
        rw [Sequencer.layOut, layout_eq (count := count) fun h hh => ?_, hstart]
        · rfl
        · obtain ⟨b, -, rfl⟩ := List.mem_map.mp hh
          exact hcount b
      have hseq : (fullPass s.roundBegun).seq = { s.roundBegun.seq with chain := (pins ++ roundEntries s.roundBegun.passOrder count 16).take 64 } := by
        rw [hu]
        exact hlaid
      refine ⟨⟨s.roundBegun.passOrder, ?_, fun b => ?_, ?_, ?_⟩, ?_, fun b hb => ?_, ?_, fun b hb => ?_, fun b hb => ?_, ?_⟩
      · exact (passOrder_perm _).nodup_iff.mpr (passedBays_nodup _)
      · rw [(passOrder_perm _).mem_iff, hpassed]
      · refine (passOrder_pairwise s.roundBegun).imp fun {x y} h => ?_
        rw [hbasis, hbasis] at h
        exact h
      · rw [hseq]
        rfl
      · rw [hseq, hbegun]
      · rw [hseq, hbegun]
        exact hmissed b hb
      · rw [hu, hbegun]
      · rw [hu]
        exact hzero b fun h => Bool.false_ne_true (hb.symm.trans ((hpassed b).mp h))
      · intro r placed causes
        have hmem := (hpassed b).mpr hb
        have hplaced : (s.roundBegun.seq.layOut s.roundBegun.handedAll).plannedOf b = placed := by
          simp only [placed]
          rw [plannedOf_eq, hseq, hlaid]
        have hresult : rs[b] = ⟨r.turns, causes⟩ := by
          rw [hrs b hmem, hplaced, hcount, hpassOf]
          rfl
        have hcauses : rs[b].causes = causes := congrArg PlanResult.causes hresult
        have hsticky := hends.sticky b hmem
        have htells := hends.tells b hmem
        have hport : ∀ l, (({ s.roundBegun with
            seq := s.roundBegun.seq.layOut s.roundBegun.handedAll
            planner := { s.roundBegun.planner with results := rs } } : State).port l).plannerMask = (s.port l).plannerMask := fun l => by
          rw [hbegun]
          cases l <;> rfl
        dsimp only at hsticky htells
        rw [hcauses] at hsticky
        refine ⟨?_, ?_, hsticky, fun l hl => htells l ?_⟩
        · rw [hu]
          exact hresult
        · simp only [placed]
          rw [hseq]
          dsimp only
          exact placed_le (fun e he => by
            obtain ⟨e', he', rfl⟩ := List.mem_map.mp he
            exact (List.mem_filter.mp he').2) ((passOrder_perm _).nodup_iff.mpr (passedBays_nodup _)) count b
        · rw [hport l, hcauses]
          exact hl
      · rw [hu, hbegun]
  case walk =>
    intro t units on standing noWalk eligible joined counted stops stopped fits
    have hseq : ∃ cs, t.seq = { s.walked.seq with commanded := cs } := slotWalk_seq s
    obtain ⟨cs, hseq⟩ := hseq
    have honSet : t.seq.onSet = s.walked.seq.onSet := by rw [hseq]
    have hchain : t.seq.chain = s.walked.seq.chain := by rw [hseq]
    have hstuck : t.seq.stuck = s.walked.seq.stuck := by rw [hseq]
    have hnoWalk : noWalk ↔ s.walkBarred = true := (walkBarred_iff s).symm
    have heligible : ∀ b, eligible b ↔ s.eligible b = true := fun b => (eligible_iff s b).symm
    obtain ⟨ms, stuck, chain, hwalked⟩ := walked_frame s
    refine ⟨fun b => ?_, slotWalk_loadSound s, fun hbar => ?_, fun hgo => ?_, fun b => ?_, ?_, ?_⟩
    · rw [hseq, hwalked]
      exact Vector.getElem_replicate b.isLt
    · have hended : s.walked = s.slotEnded := if_pos (hnoWalk.mp hbar)
      rw [honSet, hchain, hstuck, hended]
      exact ⟨rfl, rfl, rfl⟩
    · have hfree : s.walkBarred = false := Bool.eq_false_iff.mpr fun h => hgo (hnoWalk.mpr h)
      have hjoined : ∀ {i : Nat}, i ≤ s.seq.chain.length → joined i = (s.slotEnded.walkAt i).joined := fun hi => by
        simp only [joined]
        rw [honSet]
        exact joined_before hfree hi
      have hcounted : ∀ {i : Nat} (p : BayNo → Bool), i ≤ s.seq.chain.length → counted i p = s.countedAt i p := fun p hi => by
        simp only [counted, State.countedAt]
        rw [hjoined hi]
      have hlt : ∀ {i : Nat} {e : Entry}, s.seq.chain[i]? = some e → i ≤ s.seq.chain.length := fun he =>
        Nat.le_of_lt (List.getElem?_eq_some_iff.mp he).1
      have hstops : ∀ {i : Nat} {e : Entry}, s.seq.chain[i]? = some e → (stops i e ↔ (s.slotEnded.walkAt i).stopsAt s.slotEnded e) :=
        fun {i e} he => by
          simp only [stops]
          rw [stopsAt_iff, hcounted _ (hlt he), hjoined (hlt he), heligible]
          rfl
      have hstopped : ∀ {i : Nat} {e : Entry}, s.seq.chain[i]? = some e → (e.status ≠ .waiting ∨ stopped i ↔
          (s.slotEnded.walkAt i).skips e ∨ (s.slotEnded.walkAt i).stopsAt s.slotEnded e) := fun {i e} he => by
        rw [skips_or_stops_iff he]
        refine or_congr_right (exists_congr fun k => exists_congr fun e' => and_congr_right fun _ => and_congr_right fun he' => ?_)
        rw [hstops he']
      have hgoes : ∀ {i : Nat} {e : Entry}, s.seq.chain[i]? = some e → e.status = .waiting → ¬ stopped i →
          ¬ (s.slotEnded.walkAt i).skips e ∧ ¬ (s.slotEnded.walkAt i).stopsAt s.slotEnded e := fun he hw hs =>
        not_or.mp fun h => ((hstopped he).mpr h).elim (fun hne => hne hw) hs
      have hfits' : ∀ {i : Nat} {e : Entry} {c : ClassRecord}, s.seq.chain[i]? = some e → s.classOf e.bay = some c →
          (fits i e.bay c ↔ (s.slotEnded.walkAt i).fitsAt s.slotEnded e) := fun {i e c} he hc => by
        simp only [fits]
        rw [fitsAt_iff hc, hcounted _ (hlt he)]
        rfl
      refine ⟨?_, ?_, ?_, fun m hm => ?_, fun i e he => ?_, fun b => ?_⟩
      · rw [hchain]
        exact walked_length hfree
      · rw [honSet, (walked_of_free hfree).1]
        exact entries_pairwise ..
      · rw [honSet]
        exact walked_nodup hfree
      · rw [honSet] at hm
        rw [hchain]
        exact walked_member hfree hm
      · intro stands
        obtain ⟨hstays, hmissed, htaken, hleft⟩ := walked_entry hfree he
        rw [← hchain] at hstays hmissed htaken hleft
        refine ⟨fun h => hstays fun hboth => ?_, fun hw hs => ⟨fun hel => hmissed (hgoes he hw hs) ?_, fun c hel hc => ⟨fun hfits => ?_,
          fun hfits => hleft (hgoes he hw hs) ((heligible _).mp hel) ?_⟩⟩⟩
        · exact ((hstopped he).mp h).elim hboth.1 hboth.2
        · exact Bool.eq_false_iff.mpr fun h => hel ((heligible _).mpr h)
        · have hfit := (hfits' he hc).mp hfits
          obtain ⟨hskip, hstop⟩ := hgoes he hw hs
          have hel' := (heligible _).mp hel
          refine ⟨htaken ⟨hskip, hstop⟩ hel' hfit, ?_⟩
          rw [honSet]
          exact walked_joins hfree he hskip hstop hel' hc hfit
        · exact fun h => hfits ((hfits' he hc).mpr h)
      · rw [hstuck, honSet]
        exact walked_stuck hfree b
    · intro was is
      have his : is = s.walked.seq.onSet.any (·.bay == b) := by
        simp only [is]
        rw [honSet]
      rw [his]
      exact slotWalk_commands s b
    · rw [hseq, hwalked]
    · obtain ⟨cs', rs, st, n, m, hframe⟩ := slotWalk_frame s
      have ht : t = _ := hframe
      rw [ht]

end Sys2Proof.Machine

/-! PROOF. Sense records: the countdown, the loss of the plug, the plug, link and occupancy fields, the heater current checks, and the record
as a whole. -/

namespace Sys2Proof.Machine

/-! ## The sense countdown (R4) -/

theorem exec_senseCountdownExpiry {b : BayNo} {s : State} (h : s.resetHeld = false) :
    exec (.senseCountdownExpiry b) s = .next (senseExpiry b s) := event_of_not_held h

/-- R4: an expiry reloads the countdown and asks for a SENSE, unless the bay or its post is held. -/
theorem senseExpired (b : BayNo) (s : State) :
    let reloaded : State := { s with bays := s.bays.set b { s.bay b with sense := some 5000 } }
    let held := (s.bay b).state = .closed ∨ s.bus.posts[b].silent = true ∨ s.outstanding (Job.isSenseFor b) = true
    ((s.bay b).sense = none → senseExpiry b s = s)
    ∧ ((s.bay b).sense ≠ none → held → senseExpiry b s = arbitrate reloaded)
    ∧ ((s.bay b).sense ≠ none → ¬ held → senseExpiry b s = arbitrate (placeJob (.sense b) reloaded)) := by
  intro reloaded held
  have hstate : (reloaded.bay b).state = (s.bay b).state :=
    (congrArg Bay.state (bay_updBay_same s b fun r => { r with sense := some 5000 })).trans rfl
  have hheld : ((reloaded.bay b).state = .closed ∨ reloaded.silent b = true ∨ reloaded.outstanding (Job.isSenseFor b) = true) ↔ held := by
    rw [hstate]
    rfl
  have hruns : (s.bay b).sense ≠ none → senseExpiry b s = arbitrate (requestSense b reloaded) := fun h => by
    obtain ⟨k, hk⟩ := Option.ne_none_iff_exists'.mp h
    simp only [senseExpiry, hk]
    rfl
  refine ⟨fun h => by simp only [senseExpiry, h], fun h hh => (hruns h).trans ?_, fun h hh => (hruns h).trans ?_⟩
  · rw [requestSense, if_pos (hheld.mpr hh)]
  · rw [requestSense, if_neg (hheld.not.mpr hh)]

/-! ## The loss of the plug (R22, R113, R128) -/

theorem withdrawn_eq (p : Job → Bool) (s : State) : ({ s.bus with
    waiting := s.bus.waiting.filter fun q => !p q.job
    wire := match s.bus.wire with
      | .busy y => .busy { y with discarded := y.discarded || p y.job }
      | .free => .free
      | .quiet => .quiet } : Bus) = s.withdrawn p := rfl

theorem losePlug_eq (b : BayNo) (s : State) : losePlug b s = readFailed b .plugRemoved (abortTestOn b .plugRemoved (leaveOnSet b s)) := by
  rw [losePlug, failRead_eq]

theorem losePlug_of_untested {b : BayNo} {s : State} (h : s.engineTesting b = none) :
    losePlug b s = readFailed b .plugRemoved (leaveOnSet b s) := by
  have hnone : (leaveOnSet b s).engineTesting b = none := by
    rw [State.engineTesting, leaveOnSet_lamp]
    exact h
  rw [losePlug_eq]
  simp only [abortTestOn, hnone]

theorem losePlug_of_not_running {b : BayNo} {s : State}
    (h : ∀ (e : EngineNo) (y : RunningTest), s.lamp.engines[e] = .running y → y.bay ≠ b) :
    losePlug b s = readFailed b .plugRemoved (leaveOnSet b s) :=
  losePlug_of_untested (engineTesting_eq_none fun e ⟨y, hy, hb⟩ => h e y hy hb)

theorem losePlug_of_running {b : BayNo} {s : State} {e : EngineNo} {y : RunningTest} (hpost : s.bus.posts[b].silent = false)
    (hy : s.lamp.engines[e] = .running y) (hb : y.bay = b)
    (hmin : ∀ (f : EngineNo) (z : RunningTest), f < e → s.lamp.engines[f] = .running z → z.bay ≠ b) :
    losePlug b s = readFailed b .plugRemoved (takeAll (placeJob (.lampEnd e b) ((leaveOnSet b s).testAborted e y .plugRemoved))) := by
  have hlamp := leaveOnSet_lamp b s
  have hy' : (leaveOnSet b s).lamp.engines[e] = .running y := by rw [hlamp, hy]
  have hsome : (leaveOnSet b s).engineTesting b = some e := engineTesting_eq_some hy' hb fun f hf ⟨z, hz, hzb⟩ => by
    rw [hlamp] at hz
    exact hmin f z hf hz hzb
  have hpost' : (leaveOnSet b s).bus.posts[b].silent = false := (silent_leaveOnSet b b s).trans hpost
  rw [losePlug_eq]
  simp only [abortTestOn, hsome]
  rw [abortTest_of_responding hy' hb (by decide) hpost']

/-! ## The record of one bay -/

/-- The state with a bay's record put in place. -/
def State.put (s : State) (b : BayNo) (q : Bay) : State := { s with bays := s.bays.set b q }

theorem updBay_eq_put (s : State) (b : BayNo) (f : Bay → Bay) : s.updBay b f = s.put b (f (s.bay b)) := rfl

theorem bay_put (s : State) (b : BayNo) (q : Bay) : (s.put b q).bay b = q := Vector.getElem_set_self b.isLt

theorem put_put (s : State) (b : BayNo) (q q' : Bay) : (s.put b q).put b q' = s.put b q' := by
  unfold State.put
  dsimp only
  rw [Vector.set_set]

theorem updBay_put (s : State) (b : BayNo) (q : Bay) (f : Bay → Bay) : (s.put b q).updBay b f = s.put b (f q) := by
  rw [updBay_eq_put, bay_put, put_put]

theorem put_self (s : State) (b : BayNo) : s.put b (s.bay b) = s := by
  unfold State.put State.bay
  exact congrArg (fun v => { s with bays := v }) (Vector.set_getElem_self b.isLt)

theorem put_notifyBay (k : NoticeKind) (s : State) (b : BayNo) (q : Bay) : (notifyBay k b s).put b q = notifyBay k b (s.put b q) := rfl

/-- R9, R10: an ident request where one is wanted. -/
def askIdent (b : BayNo) (v : State) : State :=
  if v.outstanding (Job.isIdentFor b) = true then v
  else if v.bus.posts[b].silent = true then { v with bays := v.bays.set b { v.bay b with retry := some 30000 } }
  else placeJob (.ident b) v

theorem requestIdent_of_wants {b : BayNo} {s : State} (h : (s.bay b).wantsIdent = true) : requestIdent b s = askIdent b s := by
  unfold requestIdent askIdent
  rw [h]
  rfl

theorem requestIdent_of_unwanted {b : BayNo} {s : State} (h : (s.bay b).wantsIdent = false) : requestIdent b s = s :=
  requestIdent_of_not (.inl h)

/-- R9, R179: the ident request withdrawn. -/
def dropIdent (b : BayNo) (v : State) : State := { v with bus := v.withdrawn (Job.isIdentFor b) }

theorem withdrawIdent_eq (b : BayNo) (v : State) : withdrawIdent b v = dropIdent b v := withdraw_withdrawn ..

theorem dropIdent_put (s : State) (b : BayNo) (q : Bay) : dropIdent b (s.put b q) = (dropIdent b s).put b q := rfl

theorem setBayState_put {s : State} {b : BayNo} {q : Bay} {st : BayState} (h : q.state ≠ st) :
    setBayState b st (s.put b q) = notifyBay .bay b (s.put b { q with state := st }) := by
  have hne : ¬ ((s.put b q).bay b).state = st := by
    rw [bay_put]
    exact h
  rw [setBayState, if_neg hne, updBay_put]

/-! ## The plug (R7) -/

section Plug

variable {b : BayNo} {s : State}

theorem takePlug_same {now : Bool} (h : now = (s.bay b).plug) : takePlug b now s = s := by
  have hput : s.updBay b (fun r => { r with plug := now }) = s := by
    rw [updBay_eq_put, h]
    exact put_self s b
  unfold takePlug
  dsimp only
  rw [hput, if_pos h.symm]

theorem takePlug_in (h : (s.bay b).plug = false) : takePlug b true s = plugIn b (s.put b { s.bay b with plug := true }) := by
  unfold takePlug
  dsimp only
  rw [h, if_neg (by decide), if_pos rfl]
  rfl

theorem takePlug_out (h : (s.bay b).plug = true) : takePlug b false s = plugOut b (s.put b { s.bay b with plug := false }) := by
  unfold takePlug
  dsimp only
  rw [h, if_neg (by decide), if_neg (by decide)]
  rfl

theorem plugIn_of_arrived (h : (s.bay b).state = .arrived) : plugIn b s = requestIdent b s := by simp only [plugIn, h]

theorem plugIn_of_bound (h : (s.bay b).state = .bound) :
    plugIn b s = requestIdent b (s.updBay b fun r => { r with cabinAtUnplug := none, unconfirmed := true }) := by simp only [plugIn, h]

theorem plugIn_of_leaving (h : (s.bay b).state = .leaving) :
    plugIn b s = setBayState b .cleared (s.updBay b fun r => { r with cabinAtUnplug := none }) := by simp only [plugIn, h]

theorem plugIn_of_other (h : (s.bay b).state ∈ [.closed, .empty, .cleared]) : plugIn b s = s := by
  rcases List.mem_cons.mp h with h | h
  · simp only [plugIn, h]
  · rcases List.mem_pair.mp h with h | h <;> simp only [plugIn, h]

theorem plugOut_of_arrived (h : (s.bay b).state = .arrived) :
    plugOut b s = setConflict b false (stopRetry b (withdrawIdent b s)) := by simp only [plugOut, h]

theorem plugOut_of_bound (h : (s.bay b).state = .bound) :
    plugOut b s = losePlug b (recordUnplug b (stopRetry b (withdrawIdent b s))) := by simp only [plugOut, h]

theorem plugOut_of_cleared (h : (s.bay b).state = .cleared) :
    plugOut b s = losePlug b (stopRetry b (withdrawIdent b (setBayState b .leaving (recordUnplug b s)))) := by simp only [plugOut, h]

theorem plugOut_of_leaving (h : (s.bay b).state = .leaving) : plugOut b s = losePlug b s := by simp only [plugOut, h]

theorem plugOut_of_other (h : (s.bay b).state ∈ [.closed, .empty]) : plugOut b s = s := by
  rcases List.mem_pair.mp h with h | h <;> simp only [plugOut, h]

theorem plugIn_put (q : Bay) :
    (q.state ∈ [.closed, .empty, .cleared] → plugIn b (s.put b q) = s.put b q)
    ∧ (q.state = .arrived → q.plug = true → plugIn b (s.put b q) = askIdent b (s.put b q))
    ∧ (q.state = .bound → q.plug = true →
        plugIn b (s.put b q) = askIdent b (s.put b { q with cabinAtUnplug := none, unconfirmed := true }))
    ∧ (q.state = .leaving → plugIn b (s.put b q) = notifyBay .bay b (s.put b { q with cabinAtUnplug := none, state := .cleared })) := by
  have hstate : ∀ {st}, q.state = st → ((s.put b q).bay b).state = st := fun h => by rw [bay_put, h]
  refine ⟨fun h => plugIn_of_other (by rw [bay_put]; exact h), fun h hp => ?_, fun h hp => ?_, fun h => ?_⟩
  · rw [plugIn_of_arrived (hstate h)]
    refine requestIdent_of_wants ?_
    rw [bay_put]
    exact (wantsIdent_iff _).mpr ⟨hp, .inl h⟩
  · rw [plugIn_of_bound (hstate h), updBay_put]
    refine requestIdent_of_wants ?_
    rw [bay_put]
    exact (wantsIdent_iff _).mpr ⟨hp, .inr ⟨h, rfl⟩⟩
  · rw [plugIn_of_leaving (hstate h), updBay_put, setBayState_put]
    exact ne_of_eq_of_ne h (by decide)

theorem plugOut_put (q : Bay) :
    (q.state ∈ [.closed, .empty] → plugOut b (s.put b q) = s.put b q)
    ∧ (q.state = .arrived → q.conflict = false → plugOut b (s.put b q) = dropIdent b (s.put b { q with retry := none }))
    ∧ (q.state = .arrived → q.conflict = true →
        plugOut b (s.put b q) = dropIdent b (notifyBay .bay b (s.put b { q with retry := none, conflict := false })))
    ∧ (q.state = .bound → plugOut b (s.put b q)
        = losePlug b (dropIdent b (s.put b { q with retry := none, cabinAtUnplug := q.cabin.map (·.temperature) })))
    ∧ (q.state = .cleared → plugOut b (s.put b q) = losePlug b (dropIdent b (notifyBay .bay b
        (s.put b { q with retry := none, cabinAtUnplug := q.cabin.map (·.temperature), state := .leaving }))))
    ∧ (q.state = .leaving → plugOut b (s.put b q) = losePlug b (s.put b q)) := by
  have hstate : ∀ {st}, q.state = st → ((s.put b q).bay b).state = st := fun h => by rw [bay_put, h]
  have hstop : stopRetry b (withdrawIdent b (s.put b q)) = (dropIdent b s).put b { q with retry := none } := by
    rw [withdrawIdent_eq, dropIdent_put, stopRetry, updBay_put]
  refine ⟨fun h => plugOut_of_other (by rw [bay_put]; exact h), fun h hc => ?_, fun h hc => ?_, fun h => ?_, fun h => ?_,
    fun h => plugOut_of_leaving (hstate h)⟩
  · rw [plugOut_of_arrived (hstate h), hstop, setConflict, bay_put, if_pos hc]
    rfl
  · rw [plugOut_of_arrived (hstate h), hstop, setConflict, bay_put, if_neg (ne_of_eq_of_ne hc (by decide)), updBay_put]
    rfl
  · rw [plugOut_of_bound (hstate h), hstop, recordUnplug, updBay_put]
    rfl
  · rw [plugOut_of_cleared (hstate h), recordUnplug, updBay_put,
      setBayState_put (q := { q with cabinAtUnplug := q.cabin.map (·.temperature) }) (ne_of_eq_of_ne h (by decide)), withdrawIdent_eq]
    have hdrop : ∀ x : Bay, stopRetry b (dropIdent b (notifyBay .bay b (s.put b x)))
        = dropIdent b (notifyBay .bay b (s.put b { x with retry := none })) := fun x => by
      show (notifyBay .bay b (dropIdent b (s.put b x))).updBay b _ = _
      rw [updBay_notifyBay, dropIdent_put, updBay_put]
      rfl
    rw [hdrop]

end Plug

/-! ## The coach link and the occupancy (R6, R8, R19) -/

section Occupancy

variable {b : BayNo} {s : State}

theorem takeLink_of_rises (hlink : (s.bay b).link = false) (hretry : (s.bay b).retry ≠ none) (hwants : (s.bay b).wantsIdent = true) :
    takeLink b true s = askIdent b (s.put b { s.bay b with link := true, retry := none }) := by
  have hsome : (s.bay b).retry.isSome = true := Option.isSome_iff_ne_none.mpr hretry
  unfold takeLink
  dsimp only
  rw [updBay_eq_put, bay_put, hlink]
  rw [if_pos (by simpa [hsome, Bay.wantsIdent] using hwants), stopRetry, updBay_put]
  refine requestIdent_of_wants ?_
  rw [bay_put]
  exact hwants

theorem takeLink_of_not {up : Bool} (h : ¬ (up = true ∧ (s.bay b).link = false ∧ (s.bay b).retry ≠ none ∧ (s.bay b).wantsIdent = true)) :
    takeLink b up s = s.put b { s.bay b with link := up } := by
  unfold takeLink
  dsimp only
  rw [updBay_eq_put, bay_put, if_neg]
  simpa [Bay.wantsIdent, Option.isSome_iff_ne_none, and_assoc] using h

theorem takeOccupancy_same {now : Bool} (h : now = (s.bay b).occupied) : takeOccupancy b now s = s.put b { s.bay b with candidate := none } := by
  unfold takeOccupancy
  dsimp only
  rw [if_pos h]
  rfl

theorem takeOccupancy_new {now : Bool} (h : now ≠ (s.bay b).occupied) (hc : (s.bay b).candidate ≠ some now) :
    takeOccupancy b now s = s.put b { s.bay b with candidate := some now } := by
  unfold takeOccupancy
  dsimp only
  rw [if_neg h, if_neg hc]
  rfl

theorem takeOccupancy_accepted {now : Bool} (h : now ≠ (s.bay b).occupied) (hc : (s.bay b).candidate = some now) :
    takeOccupancy b now s = acceptOccupancy b now s := by
  unfold takeOccupancy
  dsimp only
  rw [if_neg h, if_pos hc]

/-- R19: the bay EMPTY, its hold and its conflict gone, with the BAY notice. -/
def vacate (b : BayNo) (v : State) : State :=
  notifyBay .bay b { v with bays := v.bays.set b { v.bay b with state := .empty, hold := false, conflict := false } }

theorem setBayState_setConflict {v : State} {st : BayState} (h : (v.bay b).state ≠ st) : setBayState b st (setConflict b false v)
    = notifyBay .bay b (v.put b { v.bay b with state := st, conflict := false }) := by
  by_cases hc : (v.bay b).conflict = false
  · have hsame : setConflict b false v = v := if_pos hc
    have hbay : ({ v.bay b with state := st, conflict := false } : Bay) = { v.bay b with state := st } := by rw [← hc]
    rw [hsame, hbay, setBayState, if_neg h]
    rfl
  · have hset : setConflict b false v = notifyBay .bay b (v.put b { v.bay b with conflict := false }) := if_neg hc
    have hstate : ¬ ((notifyBay .bay b (v.put b { v.bay b with conflict := false })).bay b).state = st := fun hs =>
      h (hs ▸ (congrArg Bay.state (bay_put v b { v.bay b with conflict := false })).symm)
    rw [hset, setBayState, if_neg hstate, updBay_notifyBay, updBay_put, notifyBay_notifyBay]

theorem enterEmpty_eq {v : State} (h : (v.bay b).state ≠ .empty) : enterEmpty b v = vacate b v := by
  have hstate : ((v.put b { v.bay b with hold := false }).bay b).state ≠ .empty := by
    rw [bay_put]
    exact h
  unfold enterEmpty
  rw [updBay_eq_put, setBayState_setConflict hstate, bay_put, put_put]
  rfl

theorem leaveBook_bays (b : BayNo) (s : State) : (leaveBook b s).bays = s.bays := by
  cases h : s.book.boundTo b with
  | none => rw [leaveBook_of_none h]
  | some d =>
    by_cases hstate : d.state = .clearing
    · rw [leaveBook_of_clearing h hstate]
      rfl
    · rw [leaveBook_of_bound h hstate]
      rfl

theorem departGone_bays (b : BayNo) (anomaly : Bool) (s : State) : (departGone b anomaly s).bays = s.bays := by
  unfold departGone
  split
  · rfl
  · rw [removeAndNotify_frame]

/-- R19: the exits by the bay's state. -/
theorem takeExit_put (q : Bay) :
    (q.state ∈ [.closed, .empty] → takeExit b (s.put b q) = s.put b q)
    ∧ (q.state = .arrived → takeExit b (s.put b q) = vacate b (dropIdent b (s.put b { q with retry := none })))
    ∧ (q.state = .bound → takeExit b (s.put b q) = vacate b (takeAll (tearDown b (leaveBook b (s.put b q)))))
    ∧ (q.state = .cleared → takeExit b (s.put b q) = vacate b (takeAll (tearDown b (departGone b true (s.put b q)))))
    ∧ (q.state = .leaving → takeExit b (s.put b q) = vacate b (takeAll (tearDown b (departGone b false (s.put b q))))) := by
  have hstate : ((s.put b q).bay b).state = q.state := by rw [bay_put]
  have htorn : ∀ u : State, (u.bay b).state ≠ .empty → enterEmpty b (takeAll (tearDown b u)) = vacate b (takeAll (tearDown b u)) := fun u hu =>
    enterEmpty_eq ((keptByFailures_notState rfl b).takeAll (tearDown_notState rfl hu))
  have hbook : ∀ u v : State, u.bays = v.bays → (v.bay b).state ≠ .empty → (u.bay b).state ≠ .empty := fun u v huv hv => by
    rw [State.bay, huv]
    exact hv
  refine ⟨fun h => ?_, fun h => ?_, fun h => ?_, fun h => ?_, fun h => ?_⟩
  · rcases List.mem_pair.mp h with h | h <;> simp only [takeExit, hstate, h]
  · have hexit : takeExit b (s.put b q) = enterEmpty b (stopRetry b (withdrawIdent b (s.put b q))) := by
      have h' := hstate.trans h
      simp only [takeExit, h']
    rw [hexit, withdrawIdent_eq, stopRetry, dropIdent_put, updBay_put, enterEmpty_eq]
    · rfl
    · rw [bay_put]
      exact ne_of_eq_of_ne h (by decide)
  · have hexit : takeExit b (s.put b q) = enterEmpty b (takeAll (tearDown b (leaveBook b (s.put b q)))) := by
      have h' := hstate.trans h
      simp only [takeExit, h']
    rw [hexit]
    refine htorn _ (hbook _ (s.put b q) (leaveBook_bays b _) ?_)
    exact ne_of_eq_of_ne (hstate.trans h) (by decide)
  · have hexit : takeExit b (s.put b q) = enterEmpty b (takeAll (tearDown b (departGone b true (s.put b q)))) := by
      have h' := hstate.trans h
      simp only [takeExit, h']
    rw [hexit]
    refine htorn _ (hbook _ (s.put b q) (departGone_bays b true _) ?_)
    exact ne_of_eq_of_ne (hstate.trans h) (by decide)
  · have hexit : takeExit b (s.put b q) = enterEmpty b (takeAll (tearDown b (departGone b false (s.put b q)))) := by
      have h' := hstate.trans h
      simp only [takeExit, h']
    rw [hexit]
    refine htorn _ (hbook _ (s.put b q) (departGone_bays b false _) ?_)
    exact ne_of_eq_of_ne (hstate.trans h) (by decide)

theorem acceptOccupancy_clear : acceptOccupancy b false s = takeExit b (s.put b { s.bay b with occupied := false, candidate := none }) := rfl

/-- R6: an OCCUPIED accepted. -/
theorem acceptOccupancy_occupied {q : Bay} (hq : { s.bay b with occupied := true, candidate := none } = q) :
    (q.state ≠ .empty → acceptOccupancy b true s = s.put b q)
    ∧ (q.state = .empty → q.plug = false → acceptOccupancy b true s = notifyBay .bay b (s.put b { q with state := .arrived }))
    ∧ (q.state = .empty → q.plug = true → acceptOccupancy b true s = askIdent b (notifyBay .bay b (s.put b { q with state := .arrived }))) := by
  have hput : s.updBay b (fun r => { r with occupied := true, candidate := none }) = s.put b q := by rw [updBay_eq_put, hq]
  have hbay : ∀ u : Bay, (notifyBay .bay b (s.put b u)).bay b = u := fun u => bay_put s b u
  have haccept : acceptOccupancy b true s
      = if q.state = .empty then requestIdent b (setBayState b .arrived (s.put b q)) else s.put b q := by
    unfold acceptOccupancy
    dsimp only
    rw [hput, if_pos rfl, bay_put]
  have hmoved : q.state = .empty → setBayState b .arrived (s.put b q) = notifyBay .bay b (s.put b { q with state := .arrived }) := fun h =>
    setBayState_put (ne_of_eq_of_ne h (by decide))
  refine ⟨fun h => haccept.trans (if_neg h), fun h hp => ?_, fun h hp => ?_⟩
  · rw [haccept, if_pos h, hmoved h]
    refine requestIdent_of_unwanted ?_
    rw [hbay, Bay.wantsIdent, hp]
    rfl
  · rw [haccept, if_pos h, hmoved h]
    refine requestIdent_of_wants ?_
    rw [hbay]
    exact (wantsIdent_iff _).mpr ⟨hp, .inl rfl⟩

end Occupancy

/-! ## Reports of POST findings -/

namespace KeptByReports

variable {P : State → Prop} (K : KeptByReports P)
include K

theorem postFinding {s : State} (h : P s) (b : BayNo) (f : Finding) : P (postFinding b f s) := by
  unfold Machine.postFinding
  split
  · exact K.reportWrite (K.store _ s h) b _ _
  · exact h

theorem clearPostMark {s : State} (h : P s) (b : BayNo) : P (clearPostMark b s) := by
  unfold Machine.clearPostMark
  split
  · exact K.notifyBay (K.store _ s h) .defect b
  · exact h

theorem shed {s : State} (h : P s) : P (shed s) := by
  have hfold : ∀ (ms : List Member) (u : State), P u → P (ms.foldl (fun u m => Machine.leaveOnSet m.bay u) u) := fun ms => by
    induction ms with
    | nil => exact fun _ hu => hu
    | cons m ms ih => exact fun u hu => ih _ (K.leaveOnSet hu m.bay)
  obtain ⟨ms, hms⟩ := shed_eq_foldl s
  rw [hms]
  exact hfold ms s h

end KeptByReports

/-- R98, R99: the stuck units of a bay are the records of its current checks only. -/
theorem keptByReports_stuck (v : Vector (Option UnitsOn) 24) : KeptByReports fun s => s.seq.stuck = v where
  notices _ _ _ h := h
  book _ _ h := h
  clearance _ _ h := h
  store _ _ h := h
  onSet _ _ _ hq h := hq.trans h
  bayState _ _ _ _ h := h
  heat _ _ _ _ h := h
  signal _ _ _ _ h := h
  withdrawn _ _ h := h

/-! ## The heater current checks (R97 to R99) -/

/-- The state with a bay's stuck units put in place. -/
def State.standing (s : State) (b : BayNo) (v : Option UnitsOn) : State := { s with seq := { s.seq with stuck := s.seq.stuck.set b v } }

/-- R98: the units and the feeder a stuck heater of the bay is counted with. -/
def State.stuckAt (s : State) (b : BayNo) : UnitsOn := ⟨((s.classOf b).map (·.units)).getD 8, (s.bay b).feeder⟩

/-- R99: no current, so no stuck units. -/
def currentEnded (b : BayNo) (s : State) : State :=
  if s.seq.stuck[b] = none then s else postFinding b .currentEnded (s.standing b none)

theorem raiseStuck_eq (b : BayNo) (s : State) : raiseStuck b s = postFinding b .stuck (shed (s.standing b (some (s.stuckAt b)))) := by
  have hunits : s.stuckUnitsOf b = ((s.classOf b).map (·.units)).getD 8 := by
    unfold State.stuckUnitsOf
    cases s.classOf b with
    | none => rfl
    | some c => rfl
  unfold raiseStuck
  rw [hunits]
  rfl

theorem commandSettled_iff (s : State) (b : BayNo) : s.commandSettled b = true ↔ 10000 ≤ s.now - s.seq.commanded[b].since :=
  decide_eq_true_iff

theorem checkCurrent_present (b : BayNo) (s : State) : checkCurrent b true s =
    if s.seq.commanded[b].on = false ∧ 10000 ≤ s.now - s.seq.commanded[b].since ∧ s.seq.stuck[b] = none
    then postFinding b .stuck (shed (s.standing b (some (s.stuckAt b))))
    else if s.seq.commanded[b].on = true ∧ 10000 ≤ s.now - s.seq.commanded[b].since then clearPostMark b s
    else s := by
  rw [← raiseStuck_eq]
  unfold checkCurrent
  rw [if_pos rfl]
  refine if_congr ?_ rfl (if_congr ?_ rfl rfl)
  · simp [and_assoc, commandSettled_iff]
  · rw [Bool.and_eq_true, commandSettled_iff]

theorem checkCurrent_absent (b : BayNo) (s : State) : checkCurrent b false s =
    if s.seq.commanded[b].on = true ∧ 10000 ≤ s.now - s.seq.commanded[b].since
    then leaveOnSet b (postFinding b .noCurrent (currentEnded b s))
    else if s.seq.commanded[b].on = false ∧ 10000 ≤ s.now - s.seq.commanded[b].since ∧ s.seq.stuck[b] = none
    then clearPostMark b (currentEnded b s)
    else currentEnded b s := by
  have hended : (if s.seq.stuck[b].isSome = true then endStuck b s else s) = currentEnded b s := by
    unfold currentEnded
    by_cases h : s.seq.stuck[b] = none
    · rw [if_pos h, if_neg (by simp [h])]
    · rw [if_neg h, if_pos (Option.isSome_iff_ne_none.mpr h)]
      rfl
  rw [← hended]
  unfold checkCurrent
  rw [if_neg (by decide)]
  refine if_congr ?_ rfl (if_congr ?_ rfl rfl)
  · rw [Bool.and_eq_true, commandSettled_iff]
  · simp [and_assoc, commandSettled_iff]

theorem stuck_standing (s : State) (b : BayNo) (v : Option UnitsOn) : (s.standing b v).seq.stuck[b] = v := Vector.getElem_set_self b.isLt

theorem stuck_currentEnded (b : BayNo) (s : State) : (currentEnded b s).seq.stuck[b] = none := by
  unfold currentEnded
  split
  · next h => exact h
  · have hkept := (keptByReports_stuck (s.standing b none).seq.stuck).postFinding rfl b .currentEnded
    exact (congrArg (fun v : Vector (Option UnitsOn) 24 => v[b]) hkept).trans (stuck_standing s b none)

theorem stuck_checkCurrent_absent (b : BayNo) (s : State) : (checkCurrent b false s).seq.stuck[b] = none := by
  have K := keptByReports_stuck (currentEnded b s).seq.stuck
  have hkept : (checkCurrent b false s).seq.stuck = (currentEnded b s).seq.stuck := by
    rw [checkCurrent_absent]
    split
    · exact K.leaveOnSet (K.postFinding rfl b .noCurrent) b
    · split
      · exact K.clearPostMark rfl b
      · rfl
  exact (congrArg (fun v : Vector (Option UnitsOn) 24 => v[b]) hkept).trans (stuck_currentEnded b s)

theorem stuck_raised (b : BayNo) (s : State) :
    (postFinding b .stuck (shed (s.standing b (some (s.stuckAt b))))).seq.stuck[b] = some (s.stuckAt b) := by
  have K := keptByReports_stuck (s.standing b (some (s.stuckAt b))).seq.stuck
  have hkept := K.postFinding (K.shed rfl) b .stuck
  exact (congrArg (fun v : Vector (Option UnitsOn) 24 => v[b]) hkept).trans (stuck_standing s b _)

/-- R97 to R99: the record's heater current against the commanded state. -/
theorem currentChecked (b : BayNo) (present : Bool) (s : State) :
    let on := s.seq.commanded[b].on
    let ended := currentEnded b s
    let settled := 10000 ≤ s.now - s.seq.commanded[b].since
    let t := checkCurrent b present s
    (present = true → on = false → settled → s.seq.stuck[b] = none →
      t = postFinding b .stuck (shed (s.standing b (some (s.stuckAt b)))))
    ∧ (present = false → on = true → settled → t = leaveOnSet b (postFinding b .noCurrent ended))
    ∧ (present = false → (on = false ∨ ¬ settled) → s.seq.stuck[b] ≠ none → t = ended)
    ∧ (present = true → on = false → s.seq.stuck[b] ≠ none → t = s)
    ∧ (present = true → on = false → settled → s.seq.stuck[b] = none → t.seq.stuck[b] = some (s.stuckAt b) ∧ t.seq.loadSound)
    ∧ (present = true → on = true → settled → t = clearPostMark b s)
    ∧ (present = false → on = false → settled → s.seq.stuck[b] = none → t = clearPostMark b s)
    ∧ (present = false → t.seq.stuck[b] = none)
    ∧ (present = false → on = true → settled → t.seq.member b = none)
    ∧ (¬ settled → present = true ∨ s.seq.stuck[b] = none → t = s) := by
  intro on ended settled t
  have hpresent : present = true → t = _ := fun h => (congrArg (checkCurrent b · s) h).trans (checkCurrent_present b s)
  have habsent : present = false → t = _ := fun h => (congrArg (checkCurrent b · s) h).trans (checkCurrent_absent b s)
  have hoff : on = false → ¬ on = true := fun h => ne_of_eq_of_ne h (by decide)
  have hon : on = true → ¬ on = false := fun h => ne_of_eq_of_ne h (by decide)
  have hnothing : s.seq.stuck[b] = none → currentEnded b s = s := fun h => if_pos h
  have hraised : present = true → on = false → settled → s.seq.stuck[b] = none → t = _ := fun hp ho hs hk =>
    (hpresent hp).trans (if_pos ⟨ho, hs, hk⟩)
  have hleft : present = false → on = true → settled → t = _ := fun hp ho hs => (habsent hp).trans (if_pos ⟨ho, hs⟩)
  refine ⟨hraised, hleft, fun hp ho hk => ?_, fun hp ho hk => ?_, fun hp ho hs hk => ?_, fun hp ho hs => ?_, fun hp ho hs hk => ?_,
    fun hp => ?_, fun hp ho hs => ?_, fun hs h => ?_⟩
  · rw [habsent hp, if_neg fun h => ho.elim (fun ho => hoff ho h.1) fun hs => hs h.2, if_neg fun h => hk h.2.2]
  · rw [hpresent hp, if_neg fun h => hk h.2.2, if_neg fun h => hoff ho h.1]
  · rw [hraised hp ho hs hk]
    exact ⟨stuck_raised b s, loadSound_kept.postFinding b .stuck _ (loadSound_shed _)⟩
  · rw [hpresent hp, if_neg fun h => hon ho h.1, if_pos ⟨ho, hs⟩]
  · rw [habsent hp, if_neg fun h => hoff ho h.1, if_pos ⟨ho, hs, hk⟩, hnothing hk]
  · subst hp
    exact stuck_checkCurrent_absent b s
  · rw [hleft hp ho hs]
    exact member_eq_none_of (leaveOnSet_onSet b _)
  · have hs1 : ∀ p : Prop, ¬ (p ∧ settled) := fun _ h => hs h.2
    have hs2 : ∀ p q : Prop, ¬ (p ∧ settled ∧ q) := fun _ _ h => hs h.2.1
    cases present with
    | true => rw [hpresent rfl, if_neg (hs2 _ _), if_neg (hs1 _)]
    | false =>
      have hk := h.resolve_left (by decide)
      rw [habsent rfl, if_neg (hs1 _), if_neg (hs2 _ _), hnothing hk]

/-! ## What a bay keeps while its record is taken -/

/-- A bay's record without the fields that reports and requests write. -/
def Bay.senses (r : Bay) : Bay :=
  { r with state := .closed, conflict := false, unconfirmed := false, cabinAtUnplug := none, retry := none, dropped := 0 }

/-- A bay's record with its senses kept; a new state is one with a coach. -/
def Bay.after (r q : Bay) : Prop := (q.state = r.state ∨ q.state.isBound = true) ∧ q.senses = r.senses

namespace Bay.after

variable {r q : Bay}

theorem refl (r : Bay) : r.after r := ⟨.inl rfl, rfl⟩

theorem trans {p : Bay} (h : r.after q) (h' : q.after p) : r.after p :=
  ⟨h'.1.elim (fun hs => h.1.imp hs.trans fun hb => hs ▸ hb) .inr, h'.2.trans h.2⟩

theorem plug (h : r.after q) : q.plug = r.plug := congrArg Bay.plug (a₁ := q.senses) (a₂ := r.senses) h.2

theorem link (h : r.after q) : q.link = r.link := congrArg Bay.link (a₁ := q.senses) (a₂ := r.senses) h.2

theorem current (h : r.after q) : q.current = r.current := congrArg Bay.current (a₁ := q.senses) (a₂ := r.senses) h.2

theorem cabin (h : r.after q) : q.cabin = r.cabin := congrArg Bay.cabin (a₁ := q.senses) (a₂ := r.senses) h.2

theorem occupied (h : r.after q) : q.occupied = r.occupied := congrArg Bay.occupied (a₁ := q.senses) (a₂ := r.senses) h.2

theorem candidate (h : r.after q) : q.candidate = r.candidate := congrArg Bay.candidate (a₁ := q.senses) (a₂ := r.senses) h.2

theorem coach (h : r.after q) : q.coach = r.coach := congrArg Bay.coach (a₁ := q.senses) (a₂ := r.senses) h.2

theorem withPlug (h : r.after q) (v : Bool) : ({ r with plug := v } : Bay).after { q with plug := v } :=
  ⟨h.1, congrArg (fun p : Bay => { p with plug := v }) h.2⟩

theorem withLink (h : r.after q) (v : Bool) : ({ r with link := v } : Bay).after { q with link := v } :=
  ⟨h.1, congrArg (fun p : Bay => { p with link := v }) h.2⟩

theorem uncoached (h : r.after q) : r.uncoached.after q.uncoached :=
  ⟨h.1, congrArg (fun p : Bay => { p with coach := none, cls := none, cabin := none }) h.2⟩

theorem not_closed (h : r.after q) (hr : r.state ≠ .closed) : q.state ≠ .closed := by
  rcases h.1 with hs | hs
  · rw [hs]
    exact hr
  · intro hq
    rw [hq] at hs
    exact Bool.false_ne_true hs

theorem isBound (h : r.after q) (hr : r.state.isBound = true) : q.state.isBound = true := by
  rcases h.1 with hs | hs
  · rw [hs]
    exact hr
  · exact hs

end Bay.after

theorem keptByFailures_after (b : BayNo) (r : Bay) : KeptByFailures fun s => r.after (s.bay b) := by
  have hbay : ∀ (c : BayNo) (f : Bay → Bay) (s : State), (∀ q : Bay, q.after (f q)) → r.after (s.bay b) → r.after ((s.updBay c f).bay b) :=
      fun c f s hf h => by
    by_cases hcb : c = b
    · rw [hcb, bay_updBay_same]
      exact h.trans (hf _)
    · rw [bay_updBay_of_ne s c b f hcb]
      exact h
  exact {
    notices := fun _ _ _ h => h
    book := fun _ _ h => h
    clearance := fun _ _ h => h
    store := fun _ _ h => h
    onSet := fun _ _ _ _ h => h
    bayState := fun c _ s hst h => hbay c _ s (fun _ => ⟨.inr hst, rfl⟩) h
    heat := fun _ _ _ _ h => h
    signal := fun _ _ _ _ h => h
    withdrawn := fun _ _ h => h
    lamp := fun _ _ h => h
    retry := fun c s h => hbay c _ s (fun _ => ⟨.inl rfl, rfl⟩) h
    reader := fun _ _ _ _ h => h
    lampStep := fun _ _ _ _ _ h => h
    lampEnd := fun _ _ _ _ h => h
    free := fun _ h => h }

theorem bay_of_put {u s : State} {b : BayNo} {q : Bay} (h : u.bays = (s.put b q).bays) : u.bay b = q := by
  rw [State.bay, h]
  exact bay_put s b q

theorem after_of_put {u s : State} {b : BayNo} {r q : Bay} (h : u.bays = (s.put b q).bays) (hq : r.after q) : r.after (u.bay b) := by
  rw [bay_of_put h]
  exact hq

section After

variable (b : BayNo) (s : State)

theorem checkCurrent_after (present : Bool) : (s.bay b).after ((checkCurrent b present s).bay b) := by
  have K := (keptByFailures_after b (s.bay b)).toKeptByReports
  have hsame : (s.bay b).after (s.bay b) := .refl _
  have hended : (s.bay b).after ((currentEnded b s).bay b) := by
    unfold currentEnded
    split
    · exact hsame
    · exact K.postFinding (s := s.standing b none) hsame b .currentEnded
  cases present with
  | true =>
    rw [checkCurrent_present]
    split
    · exact K.postFinding (K.shed (s := s.standing b _) hsame) b .stuck
    · split
      · exact K.clearPostMark hsame b
      · exact hsame
  | false =>
    rw [checkCurrent_absent]
    split
    · exact K.leaveOnSet (K.postFinding hended b .noCurrent) b
    · split
      · exact K.clearPostMark hended b
      · exact hended

theorem checkCurrent_of_unbound {b : BayNo} {s : State} (h : (s.bay b).state.isBound = false) (present : Bool) :
    (checkCurrent b present s).bays = s.bays := by
  have hfinding : ∀ (f : Finding) (u : State), u.bays = s.bays → (postFinding b f u).bays = s.bays := fun f u hu => by
    have hunbound : ¬ u.boundAt b = true := by
      rw [State.boundAt, State.bay, hu]
      exact Bool.eq_false_iff.mp h
    rw [postFinding, if_neg hunbound, hu]
  have hmark : ∀ u : State, u.bays = s.bays → (clearPostMark b u).bays = s.bays := fun u hu => by
    unfold clearPostMark
    split
    · exact hu
    · exact hu
  have hended : (currentEnded b s).bays = s.bays := by
    unfold currentEnded
    split
    · rfl
    · exact hfinding _ _ rfl
  cases present with
  | true =>
    rw [checkCurrent_present]
    split
    · exact hfinding _ _ (shed_bays _)
    · split
      · exact hmark s rfl
      · rfl
  | false =>
    rw [checkCurrent_absent]
    split
    · rw [leaveOnSet_bays]
      exact hfinding _ _ hended
    · split
      · exact hmark _ hended
      · exact hended

theorem losePlug_after : (s.bay b).after ((losePlug b s).bay b) := by
  have K := keptByFailures_after b (s.bay b)
  exact K.failRead (K.abortTestOn (K.leaveOnSet (.refl _) b) b .plugRemoved) b .plugRemoved

/-- R9, R10: a request for an ident leaves the bay but for the retry timer. -/
theorem askIdent_put_bay (q : Bay) : ∃ k, (askIdent b (s.put b q)).bay b = { q with retry := k } := by
  unfold askIdent
  split
  · exact ⟨q.retry, bay_put s b q⟩
  · split
    · refine ⟨some 30000, ?_⟩
      rw [bay_put]
      exact bay_of_put (s := s.put b q) rfl
    · exact ⟨q.retry, bay_put s b q⟩

theorem askIdent_put_after (q : Bay) : q.after ((askIdent b (s.put b q)).bay b) := by
  obtain ⟨k, hk⟩ := askIdent_put_bay b s q
  rw [hk]
  exact ⟨.inl rfl, rfl⟩

theorem plugIn_after (q : Bay) (hplug : q.plug = true) : q.after ((plugIn b (s.put b q)).bay b) := by
  obtain ⟨hother, harrived, hbound, hleaving⟩ := plugIn_put (b := b) (s := s) q
  have hask : ∀ p : Bay, q.after p → q.after ((askIdent b (s.put b p)).bay b) := fun p hp =>
    hp.trans (askIdent_put_after b s p)
  have hsame : q.state ∈ [.closed, .empty, .cleared] → q.after ((plugIn b (s.put b q)).bay b) := fun h => by
    rw [hother h, bay_put]
    exact .refl _
  cases hstate : q.state with
  | closed => exact hsame (by rw [hstate]; decide)
  | empty => exact hsame (by rw [hstate]; decide)
  | cleared => exact hsame (by rw [hstate]; decide)
  | arrived =>
    rw [harrived hstate hplug]
    exact hask q (.refl _)
  | bound =>
    rw [hbound hstate hplug]
    exact hask _ ⟨.inl rfl, rfl⟩
  | leaving =>
    rw [hleaving hstate]
    exact after_of_put (s := s) (q := { q with cabinAtUnplug := none, state := .cleared }) rfl ⟨.inr rfl, rfl⟩

theorem plugOut_after (q : Bay) : q.after ((plugOut b (s.put b q)).bay b) := by
  obtain ⟨hother, harrived, hconflict, hbound, hcleared, hleaving⟩ := plugOut_put (b := b) (s := s) q
  have hlose : ∀ {p : Bay} {u : State}, u.bays = (s.put b p).bays → q.after p → q.after ((losePlug b u).bay b) := fun hu hp =>
    (after_of_put hu hp).trans (losePlug_after b _)
  have hsame : q.state ∈ [.closed, .empty] → q.after ((plugOut b (s.put b q)).bay b) := fun h => by
    rw [hother h]
    exact after_of_put (s := s) (q := q) rfl (.refl _)
  cases hstate : q.state with
  | closed => exact hsame (by rw [hstate]; decide)
  | empty => exact hsame (by rw [hstate]; decide)
  | arrived =>
    cases hc : q.conflict with
    | false =>
      rw [harrived hstate hc]
      exact after_of_put (u := dropIdent b _) rfl ⟨.inl rfl, rfl⟩
    | true =>
      rw [hconflict hstate hc]
      exact after_of_put (u := dropIdent b _) rfl ⟨.inl rfl, rfl⟩
  | bound =>
    rw [hbound hstate]
    exact hlose rfl ⟨.inl rfl, rfl⟩
  | cleared =>
    rw [hcleared hstate]
    exact hlose rfl ⟨.inr rfl, rfl⟩
  | leaving =>
    rw [hleaving hstate]
    exact hlose (p := q) rfl (.refl _)

theorem takePlug_after (now : Bool) : ({ s.bay b with plug := now } : Bay).after ((takePlug b now s).bay b) := by
  by_cases hsame : now = (s.bay b).plug
  · rw [takePlug_same hsame, hsame]
    exact .refl _
  · cases now with
    | true =>
      rw [takePlug_in (Bool.eq_false_iff.mpr fun h => hsame h.symm)]
      exact plugIn_after b s _ rfl
    | false =>
      rw [takePlug_out (Bool.not_eq_false _ ▸ fun h => hsame h.symm)]
      exact plugOut_after b s _

theorem takeLink_after (up : Bool) : ({ s.bay b with link := up } : Bay).after ((takeLink b up s).bay b) := by
  by_cases h : up = true ∧ (s.bay b).link = false ∧ (s.bay b).retry ≠ none ∧ (s.bay b).wantsIdent = true
  · obtain ⟨rfl, hlink, hretry, hwants⟩ := h
    rw [takeLink_of_rises hlink hretry hwants]
    exact Bay.after.trans (q := { s.bay b with link := true, retry := none }) ⟨.inl rfl, rfl⟩ (askIdent_put_after b s _)
  · rw [takeLink_of_not h, bay_put]
    exact .refl _

end After

/-! ## The fields of a record before its occupancy (R5, steps 1 to 4) -/

/-- R5, steps 1 and 2: a bay with the record's cabin and current. -/
def Bay.sensed (r : Bay) (x : SenseRecord) : Bay :=
  { r with cabin := x.cabin.elim r.cabin fun v => some ⟨max (-960) (min 1600 v), 0⟩, current := x.current }

/-- R5, steps 1 to 4: the state a record's occupancy is judged in. -/
def State.fieldsTaken (s : State) (b : BayNo) (x : SenseRecord) : State :=
  takeLink b x.link (takePlug b x.plug (checkCurrent b x.current (s.put b ((s.bay b).sensed x))))

theorem takeSense_of_closed {b : BayNo} {x : SenseRecord} {s : State} (h : (s.bay b).state = .closed) : takeSense b x s = s := if_pos h

theorem takeSense_of_open {b : BayNo} {x : SenseRecord} {s : State} (h : (s.bay b).state ≠ .closed) :
    takeSense b x s = takeOccupancy b x.occupied (s.fieldsTaken b x) := by
  have hfirst : takeCurrent b x.current (takeCabin b x.cabin s) = checkCurrent b x.current (s.put b ((s.bay b).sensed x)) := by
    unfold takeCurrent Bay.sensed
    cases x.cabin with
    | none => rfl
    | some v =>
      have hput : takeCabin b (some v) s = s.put b { s.bay b with cabin := some ⟨max (-960) (min 1600 v), 0⟩ } := rfl
      rw [hput, updBay_put]
      rfl
  rw [takeSense, if_neg h, hfirst]
  rfl

theorem fieldsTaken_after (b : BayNo) (x : SenseRecord) (s : State) :
    ({ (s.bay b).sensed x with plug := x.plug, link := x.link } : Bay).after ((s.fieldsTaken b x).bay b) := by
  have hcurrent := checkCurrent_after b (s.put b ((s.bay b).sensed x)) x.current
  rw [bay_put] at hcurrent
  have hplug := (hcurrent.withPlug x.plug).trans (takePlug_after b _ x.plug)
  exact (hplug.withLink x.link).trans (takeLink_after b _ x.link)

theorem takePlug_of_empty {b : BayNo} {s : State} (h : (s.bay b).state = .empty) (now : Bool) :
    takePlug b now s = s.put b { s.bay b with plug := now } := by
  by_cases hsame : now = (s.bay b).plug
  · rw [takePlug_same hsame, hsame]
    exact (put_self s b).symm
  · cases now with
    | true =>
      rw [takePlug_in (Bool.eq_false_iff.mpr fun hp => hsame hp.symm)]
      exact (plugIn_put { s.bay b with plug := true }).1 (by simp [h])
    | false =>
      rw [takePlug_out (Bool.not_eq_false _ ▸ fun hp => hsame hp.symm)]
      exact (plugOut_put { s.bay b with plug := false }).1 (by simp [h])

theorem takeLink_of_empty {b : BayNo} {s : State} (h : (s.bay b).state = .empty) (up : Bool) :
    takeLink b up s = s.put b { s.bay b with link := up } :=
  takeLink_of_not fun hrises => by
    have hwants := (wantsIdent_iff _).mp hrises.2.2.2
    rw [h] at hwants
    exact hwants.2.elim (by decide) fun hb => absurd hb.1 (by decide)

theorem fieldsTaken_of_empty {b : BayNo} {x : SenseRecord} {s : State} (h : (s.bay b).state = .empty) :
    ((s.fieldsTaken b x).bay b).state = .empty := by
  have hcurrent : ((checkCurrent b x.current (s.put b ((s.bay b).sensed x))).bay b).state = .empty := by
    have hunbound : ((s.put b ((s.bay b).sensed x)).bay b).state.isBound = false := by
      rw [bay_put]
      exact congrArg BayState.isBound h
    rw [bay_of_put (checkCurrent_of_unbound hunbound x.current)]
    exact h
  have hplug : ((takePlug b x.plug (checkCurrent b x.current (s.put b ((s.bay b).sensed x)))).bay b).state = .empty := by
    rw [takePlug_of_empty hcurrent, bay_put]
    exact hcurrent
  rw [State.fieldsTaken, takeLink_of_empty hplug, bay_put]
  exact hplug

/-! ## Exits (R19, R20) -/

/-- R19: a bay's record at the end of an exit. -/
def Bay.vacated (r : Bay) : Bay := { r with state := .empty, hold := false, conflict := false }

theorem bay_vacate (b : BayNo) (v : State) : (vacate b v).bay b = (v.bay b).vacated := bay_of_put (s := v) rfl

theorem tearDownLamp_after (b : BayNo) (s : State) : (s.bay b).after ((tearDownLamp b s).bay b) := by
  have K := keptByFailures_after b (s.bay b)
  have hsame : (s.bay b).after (s.bay b) := .refl _
  unfold tearDownLamp
  dsimp only
  split
  · next e _ => exact K.endTest (K.lamp _ _ (K.startRelease (K.withdraw hsame (Job.isStepOf e)) e b)) b
  · split
    · exact K.endTest (K.lamp _ s hsame) b
    · exact K.lamp _ s hsame

theorem tearDown_after (b : BayNo) (s : State) : (s.bay b).uncoached.after ((tearDown b s).bay b) := by
  have hstore : (s.bay b).after ((tearDownStore b (tearDownHeating b s)).bay b) := by
    rw [tearDownStore_eq]
    refine after_of_put (s := tearDownHeating b s) (q := { (tearDownHeating b s).bay b with dropped := _ }) rfl ?_
    have hbay : (tearDownHeating b s).bay b = s.bay b := congrArg (fun v : Vector Bay 24 => v[b]) (tearDownHeating_bays b s)
    rw [← hbay]
    exact ⟨.inl rfl, rfl⟩
  have hlamp := hstore.trans (tearDownLamp_after b _)
  show (s.bay b).uncoached.after
    ((clearCoach b (setSignal b .red (tearDownReader b (tearDownLamp b (tearDownStore b (tearDownHeating b s)))))).bay b)
  rw [tearDown_last]
  exact after_of_put (s := tearDownLamp b (tearDownStore b (tearDownHeating b s))) (q := Bay.uncoached _) rfl hlamp.uncoached

/-- R19: a bay's record after an exit. -/
theorem takeExit_bay (b : BayNo) (s : State) (q : Bay) :
    (q.state = .empty → (takeExit b (s.put b q)).bay b = q)
    ∧ (q.state = .arrived → ∃ w : Bay, q.after w ∧ (takeExit b (s.put b q)).bay b = w.vacated)
    ∧ (q.state.isBound = true → ∃ w : Bay, q.uncoached.after w ∧ (takeExit b (s.put b q)).bay b = w.vacated) := by
  obtain ⟨hother, harrived, hbound, hcleared, hleaving⟩ := takeExit_put (b := b) (s := s) q
  have htorn : ∀ u : State, u.bays = (s.put b q).bays → q.uncoached.after ((takeAll (tearDown b u)).bay b) := fun u hu => by
    have h := tearDown_after b u
    rw [bay_of_put hu] at h
    exact (keptByFailures_after b q.uncoached).takeAll h
  refine ⟨fun h => ?_, fun h => ?_, fun h => ?_⟩
  · rw [hother (by simp [h]), bay_put]
  · refine ⟨{ q with retry := none }, ⟨.inl rfl, rfl⟩, ?_⟩
    rw [harrived h, bay_vacate, bay_of_put (u := dropIdent b _) rfl]
  · cases hstate : q.state with
    | closed | empty | arrived =>
      rw [hstate] at h
      exact absurd h (by decide)
    | bound => exact ⟨_, htorn _ (leaveBook_bays b _), by rw [hbound hstate, bay_vacate]⟩
    | cleared => exact ⟨_, htorn _ (departGone_bays b true _), by rw [hcleared hstate, bay_vacate]⟩
    | leaving => exact ⟨_, htorn _ (departGone_bays b false _), by rw [hleaving hstate, bay_vacate]⟩

/-! ## The occupancy (R5, step 5, R6) -/

section Occupancy

variable {b : BayNo} {u : State} {now : Bool}

/-- R6: the record's occupancy stands against the bay's and was its candidate. -/
def Bay.accepts (r : Bay) (now : Bool) : Prop := now ≠ r.occupied ∧ r.candidate = some now

theorem acceptOccupancy_occupied_bay : let q : Bay := { u.bay b with occupied := true, candidate := none }
    (q.state ≠ .empty → (acceptOccupancy b true u).bay b = q)
    ∧ (q.state = .empty → ∃ k, (acceptOccupancy b true u).bay b = { q with state := .arrived, retry := k }) := by
  intro q
  obtain ⟨hother, hunplugged, hplugged⟩ := acceptOccupancy_occupied (b := b) (s := u) (q := q) rfl
  refine ⟨fun h => ?_, fun h => ?_⟩
  · rw [hother h, bay_put]
  · by_cases hplug : q.plug = true
    · rw [hplugged h hplug, ← put_notifyBay]
      exact askIdent_put_bay b (notifyBay .bay b u) { q with state := .arrived }
    · exact ⟨q.retry, by rw [hunplugged h (Bool.eq_false_iff.mpr hplug)]; exact bay_of_put (s := u) rfl⟩

/-- R6: without an exit the record's other fields stand. -/
theorem takeOccupancy_kept (h : ¬ ((u.bay b).accepts now ∧ now = false)) : ∃ st k, (takeOccupancy b now u).bay b = { u.bay b with
    state := st
    retry := k
    occupied := if (u.bay b).candidate = some now then now else (u.bay b).occupied
    candidate := if now = (u.bay b).occupied ∨ (u.bay b).candidate = some now then none else some now } := by
  by_cases hsame : now = (u.bay b).occupied
  · refine ⟨(u.bay b).state, (u.bay b).retry, ?_⟩
    have hocc : (if (u.bay b).candidate = some now then now else (u.bay b).occupied) = (u.bay b).occupied := by rw [← hsame, ite_self]
    rw [takeOccupancy_same hsame, bay_put, if_pos (Or.inl hsame), hocc]
  · by_cases hcand : (u.bay b).candidate = some now
    · cases now with
      | false => exact absurd ⟨⟨hsame, hcand⟩, rfl⟩ h
      | true =>
        rw [takeOccupancy_accepted hsame hcand, if_pos hcand, if_pos (Or.inr hcand)]
        by_cases hempty : (u.bay b).state = .empty
        · obtain ⟨k, hk⟩ := acceptOccupancy_occupied_bay.2 hempty
          exact ⟨.arrived, k, hk⟩
        · exact ⟨(u.bay b).state, (u.bay b).retry, acceptOccupancy_occupied_bay.1 hempty⟩
    · refine ⟨(u.bay b).state, (u.bay b).retry, ?_⟩
      rw [takeOccupancy_new hsame hcand, bay_put, if_neg hcand, if_neg (not_or.mpr ⟨hsame, hcand⟩)]

/-- R6, R19: an exit. -/
theorem takeOccupancy_exit (h : (u.bay b).accepts false) :
    takeOccupancy b false u = takeExit b (u.put b { u.bay b with occupied := false, candidate := none }) :=
  (takeOccupancy_accepted h.1 h.2).trans acceptOccupancy_clear

theorem takeOccupancy_exit_bay (h : (u.bay b).accepts false) (hopen : (u.bay b).state ≠ .closed) :
    ∃ w : Bay, (takeOccupancy b false u).bay b = w ∧ w.state = .empty
      ∧ w.plug = (u.bay b).plug ∧ w.link = (u.bay b).link ∧ w.current = (u.bay b).current ∧ w.occupied = false ∧ w.candidate = none
      ∧ ((u.bay b).state.isBound = true → w.hold = false ∧ w.coach = none ∧ w.cabin = none) := by
  rw [takeOccupancy_exit h]
  obtain ⟨hempty, harrived, hbound⟩ := takeExit_bay b u { u.bay b with occupied := false, candidate := none }
  refine ⟨_, rfl, ?_⟩
  have hbounds : (u.bay b).state.isBound = true → ∃ w : Bay, ({ u.bay b with occupied := false, candidate := none } : Bay).uncoached.after w
      ∧ (takeExit b (u.put b { u.bay b with occupied := false, candidate := none })).bay b = w.vacated := hbound
  cases hstate : (u.bay b).state with
  | closed => exact absurd hstate hopen
  | empty =>
    rw [hempty hstate]
    exact ⟨hstate, rfl, rfl, rfl, rfl, rfl, fun hb => absurd hb (by decide)⟩
  | arrived =>
    obtain ⟨w, hw, ht⟩ := harrived hstate
    rw [ht]
    exact ⟨rfl, hw.plug, hw.link, hw.current, hw.occupied, hw.candidate, fun hb => absurd hb (by decide)⟩
  | bound | cleared | leaving =>
    obtain ⟨w, hw, ht⟩ := hbounds (by rw [hstate]; rfl)
    rw [ht]
    exact ⟨rfl, hw.plug, hw.link, hw.current, hw.occupied, hw.candidate, fun _ => ⟨rfl, hw.coach, hw.cabin⟩⟩

end Occupancy

/-! ## The bay after a record -/

section Record

variable {b : BayNo} {x : SenseRecord} {s : State} (hopen : (s.bay b).state ≠ .closed)
include hopen

theorem takeSense_kept_bay (h : ¬ ((s.bay b).accepts x.occupied ∧ x.occupied = false)) : ∃ w : Bay, (takeSense b x s).bay b = w
    ∧ w.plug = x.plug ∧ w.link = x.link ∧ w.current = x.current ∧ w.cabin = ((s.bay b).sensed x).cabin
    ∧ w.occupied = (if (s.bay b).candidate = some x.occupied then x.occupied else (s.bay b).occupied)
    ∧ w.candidate = (if x.occupied = (s.bay b).occupied ∨ (s.bay b).candidate = some x.occupied then none else some x.occupied) := by
  have hafter := fieldsTaken_after b x s
  have hoccupied : ((s.fieldsTaken b x).bay b).occupied = (s.bay b).occupied := hafter.occupied
  have hcandidate : ((s.fieldsTaken b x).bay b).candidate = (s.bay b).candidate := hafter.candidate
  rw [takeSense_of_open hopen]
  have hkept : ¬ (((s.fieldsTaken b x).bay b).accepts x.occupied ∧ x.occupied = false) := by
    rw [Bay.accepts, hoccupied, hcandidate]
    exact h
  obtain ⟨st, k, ht⟩ := takeOccupancy_kept hkept
  refine ⟨_, ht, hafter.plug, hafter.link, hafter.current, hafter.cabin, ?_, ?_⟩
  · rw [← hcandidate, ← hoccupied]
  · rw [← hcandidate, ← hoccupied]

theorem takeSense_exit_bay (h : (s.bay b).accepts x.occupied) (hclear : x.occupied = false) : ∃ w : Bay, (takeSense b x s).bay b = w
    ∧ w.state = .empty ∧ w.plug = x.plug ∧ w.link = x.link ∧ w.current = x.current ∧ w.occupied = false ∧ w.candidate = none
    ∧ ((s.bay b).state.isBound = true → w.hold = false ∧ w.coach = none ∧ w.cabin = none) := by
  have hafter := fieldsTaken_after b x s
  have haccepts : ((s.fieldsTaken b x).bay b).accepts false :=
    ⟨hafter.occupied.symm ▸ hclear ▸ h.1, hafter.candidate.trans (hclear ▸ h.2)⟩
  obtain ⟨w, ht, hstate, hplug, hlink, hcurrent, hoccupied, hcandidate, hbound⟩ :=
    takeOccupancy_exit_bay haccepts (hafter.not_closed hopen)
  rw [takeSense_of_open hopen, hclear]
  exact ⟨w, ht, hstate, hplug.trans hafter.plug, hlink.trans hafter.link, hcurrent.trans hafter.current, hoccupied, hcandidate,
    fun hb => hbound (hafter.isBound hb)⟩

/-- R6: an OCCUPIED accepted in an EMPTY bay. -/
theorem takeSense_arrives (h : (s.bay b).accepts x.occupied) (hocc : x.occupied = true) (hempty : (s.bay b).state = .empty) :
    ((takeSense b x s).bay b).state = .arrived := by
  have hafter := fieldsTaken_after b x s
  have hne : true ≠ ((s.fieldsTaken b x).bay b).occupied := hafter.occupied.symm ▸ hocc ▸ h.1
  have hcand : ((s.fieldsTaken b x).bay b).candidate = some true := hafter.candidate.trans (hocc ▸ h.2)
  obtain ⟨k, hk⟩ := acceptOccupancy_occupied_bay.2 (fieldsTaken_of_empty (x := x) hempty)
  rw [takeSense_of_open hopen, hocc, takeOccupancy_accepted hne hcand, hk]

end Record

/-! ## A record that finds nothing amiss -/

theorem add_anomaly (n : Notices) (k : NoticeKind) (bs : BaySet) : (n.add k bs).anomaly = n.anomaly := by cases k <;> rfl

/-- What the fields of a record leave as it is: the book, the clearance unit, the lists, the lamp unit, the clock and the anomaly notices. -/
structure State.Alike (s t : State) : Prop where
  book : t.book = s.book
  clearance : t.clearance = s.clearance
  lists : t.store.lists = s.store.lists
  lamp : t.lamp = s.lamp
  clock : t.clock = s.clock
  dispatch : t.dispatch.notices.anomaly = s.dispatch.notices.anomaly
  workshop : t.workshop.notices.anomaly = s.workshop.notices.anomaly

namespace State.Alike

variable {s t : State}

theorem refl (s : State) : s.Alike s := ⟨rfl, rfl, rfl, rfl, rfl, rfl, rfl⟩

theorem trans {u : State} (h : s.Alike t) (h' : t.Alike u) : s.Alike u :=
  ⟨h'.book.trans h.book, h'.clearance.trans h.clearance, h'.lists.trans h.lists, h'.lamp.trans h.lamp, h'.clock.trans h.clock,
    h'.dispatch.trans h.dispatch, h'.workshop.trans h.workshop⟩

theorem notifyBay (h : s.Alike t) (k : NoticeKind) (b : BayNo) : s.Alike (notifyBay k b t) :=
  ⟨h.book, h.clearance, h.lists, h.lamp, h.clock, (add_anomaly ..).trans h.dispatch, (add_anomaly ..).trans h.workshop⟩

theorem put (h : s.Alike t) (b : BayNo) (q : Bay) : s.Alike (t.put b q) :=
  ⟨h.book, h.clearance, h.lists, h.lamp, h.clock, h.dispatch, h.workshop⟩

theorem dropIdent (h : s.Alike t) (b : BayNo) : s.Alike (dropIdent b t) :=
  ⟨h.book, h.clearance, h.lists, h.lamp, h.clock, h.dispatch, h.workshop⟩

theorem reader (h : s.Alike t) (u : Bus) (x : FaultReader) : s.Alike { t with bus := u, reader := x } :=
  ⟨h.book, h.clearance, h.lists, h.lamp, h.clock, h.dispatch, h.workshop⟩

theorem leaveOnSet (h : s.Alike t) (b : BayNo) : s.Alike (leaveOnSet b t) := by
  rw [leaveOnSet_frame]
  exact ⟨h.book, h.clearance, h.lists, h.lamp, h.clock, h.dispatch, h.workshop⟩

theorem anomaly (h : s.Alike t) (l : Link) : (t.port l).notices.anomaly = (s.port l).notices.anomaly := by
  cases l with
  | dispatch => exact h.dispatch
  | workshop => exact h.workshop

end State.Alike

/-- R9, R10: an ident request is the bus's and the retry timer's only. -/
theorem askIdent_alike (b : BayNo) (s : State) : s.Alike (askIdent b s) ∧ (askIdent b s).seq = s.seq ∧ (askIdent b s).reader = s.reader := by
  unfold askIdent
  split
  · exact ⟨.refl s, rfl, rfl⟩
  · split
    · exact ⟨(State.Alike.refl s).put b _, rfl, rfl⟩
    · exact ⟨⟨rfl, rfl, rfl, rfl, rfl, rfl, rfl⟩, rfl, rfl⟩

/-- R97 to R99: a current that agrees with the command, and no stuck units. -/
theorem checkCurrent_agreeing {b : BayNo} {s : State} {present : Bool} (hon : s.seq.commanded[b].on = present) (hstuck : s.seq.stuck[b] = none) :
    checkCurrent b present s = s ∨ checkCurrent b present s = clearPostMark b s := by
  cases present with
  | true =>
    rw [checkCurrent_present, if_neg fun h => absurd (hon.symm.trans h.1) (by decide)]
    split
    · exact .inr rfl
    · exact .inl rfl
  | false =>
    have hended : currentEnded b s = s := if_pos hstuck
    rw [checkCurrent_absent, if_neg fun h => absurd (hon.symm.trans h.1) (by decide), hended]
    split
    · exact .inr rfl
    · exact .inl rfl

theorem checkCurrent_alike {b : BayNo} {s : State} {present : Bool} (hon : s.seq.commanded[b].on = present) (hstuck : s.seq.stuck[b] = none) :
    s.Alike (checkCurrent b present s) ∧ (checkCurrent b present s).bays = s.bays ∧ (checkCurrent b present s).reader = s.reader := by
  rcases checkCurrent_agreeing hon hstuck with h | h
  · rw [h]
    exact ⟨.refl s, rfl, rfl⟩
  · rw [h]
    unfold clearPostMark
    split
    · have hmark : s.Alike { s with store := (s.store.clearMark b .post).1 } := ⟨rfl, rfl, rfl, rfl, rfl, rfl, rfl⟩
      exact ⟨hmark.notifyBay .defect b, rfl, rfl⟩
    · exact ⟨.refl s, rfl, rfl⟩

/-- R128: a read that fails with no clearance waiting for it. -/
theorem readFailed_of_not_clearing {b : BayNo} {reason : ReadReason} {s : State} {y : Reading} (hy : s.reader.reading[b] = some y)
    (h : ∀ d ∈ s.book.records, d.bay = some b → d.state ≠ .clearing) : readFailed b reason s = notifyBay .defect b { s with
      bus := s.withdrawn (Job.isPageFor b)
      reader := s.reader.ended b ⟨.failed reason, y.pageZero, y.transactions, 0⟩ false } := by
  simp only [readFailed, hy]
  exact pendingCompletion_of_not_clearing h

/-- R22, R128: the loss of the plug where no test runs, and no read that a clearance waits for. -/
theorem losePlug_alike {b : BayNo} {s : State} (htest : s.engineTesting b = none)
    (hread : s.reader.reading[b] = none ∨ ∀ d ∈ s.book.records, d.bay = some b → d.state ≠ .clearing) :
    s.Alike (losePlug b s) ∧ (losePlug b s).bays = s.bays ∧ (losePlug b s).seq.member b = none
    ∧ ∀ y, s.reader.reading[b] = some y → (losePlug b s).reader.reading[b] = none
        ∧ (losePlug b s).reader.last[b] = some ⟨.failed .plugRemoved, y.pageZero, y.transactions, 0⟩ := by
  have hleft := (State.Alike.refl s).leaveOnSet b
  have hbays := leaveOnSet_bays b s
  have hmember := member_eq_none_of (leaveOnSet_onSet b s)
  have hreader : (leaveOnSet b s).reader = s.reader := by rw [leaveOnSet_frame]
  rw [losePlug_of_untested htest]
  generalize leaveOnSet b s = u at *
  cases hy : u.reader.reading[b] with
  | none =>
    have hnone : readFailed b .plugRemoved u = u := by simp only [readFailed, hy]
    rw [hnone]
    exact ⟨hleft, hbays, hmember, fun y h => by rw [hreader, h] at hy; exact absurd hy (by simp)⟩
  | some y =>
    have hclear : ∀ d ∈ u.book.records, d.bay = some b → d.state ≠ .clearing := by
      rw [hleft.book]
      refine hread.resolve_left fun h => ?_
      rw [hreader, h] at hy
      exact absurd hy (by simp)
    rw [readFailed_of_not_clearing hy hclear]
    refine ⟨(hleft.reader _ _).notifyBay .defect b, hbays, hmember, fun z hz => ?_⟩
    rw [hreader, hz] at hy
    cases hy
    exact ⟨Vector.getElem_set_self b.isLt, Vector.getElem_set_self b.isLt⟩

/-! ## The plug and the link -/

/-- R7, right column. -/
def Bay.plugged (r : Bay) : Bay :=
  { r with
    plug := true
    state := if r.state = .leaving then .cleared else r.state
    cabinAtUnplug := if r.state ∈ [.bound, .leaving] then none else r.cabinAtUnplug
    unconfirmed := if r.state = .bound then true else r.unconfirmed }

/-- R7, left column. -/
def Bay.unplugged (r : Bay) : Bay :=
  { r with
    plug := false
    state := if r.state = .cleared then .leaving else r.state
    cabinAtUnplug := if r.state ∈ [.bound, .cleared] then r.cabin.map (·.temperature) else r.cabinAtUnplug }

theorem plugged_of_other {r : Bay} (h : r.state ∈ [.closed, .empty, .arrived, .cleared]) : r.plugged = { r with plug := true } := by
  have hleaving : r.state ≠ .leaving := fun hs => by simp [hs] at h
  have hbound : r.state ≠ .bound := fun hs => by simp [hs] at h
  rw [Bay.plugged, if_neg hleaving, if_neg hbound, if_neg]
  simp [hleaving, hbound]

theorem plugged_of_bound {r : Bay} (h : r.state = .bound) :
    r.plugged = { r with plug := true, cabinAtUnplug := none, unconfirmed := true } := by
  rw [Bay.plugged, if_neg (ne_of_eq_of_ne h (by decide)), if_pos (by simp [h]), if_pos h]

theorem plugged_of_leaving {r : Bay} (h : r.state = .leaving) :
    r.plugged = { r with plug := true, cabinAtUnplug := none, state := .cleared } := by
  rw [Bay.plugged, if_pos h, if_pos (by simp [h]), if_neg (ne_of_eq_of_ne h (by decide))]

theorem unplugged_of_other {r : Bay} (h : r.state ∈ [.closed, .empty, .arrived, .leaving]) : r.unplugged = { r with plug := false } := by
  have hcleared : r.state ≠ .cleared := fun hs => by simp [hs] at h
  have hbound : r.state ≠ .bound := fun hs => by simp [hs] at h
  rw [Bay.unplugged, if_neg hcleared, if_neg]
  simp [hcleared, hbound]

theorem unplugged_of_bound {r : Bay} (h : r.state = .bound) :
    r.unplugged = { r with plug := false, cabinAtUnplug := r.cabin.map (·.temperature) } := by
  rw [Bay.unplugged, if_neg (ne_of_eq_of_ne h (by decide)), if_pos (by simp [h])]

theorem unplugged_of_cleared {r : Bay} (h : r.state = .cleared) :
    r.unplugged = { r with plug := false, cabinAtUnplug := r.cabin.map (·.temperature), state := .leaving } := by
  rw [Bay.unplugged, if_pos h, if_pos (by simp [h])]

section Plug

variable {b : BayNo} {s : State}

theorem takePlug_in_alike (h : (s.bay b).plug = false) : s.Alike (takePlug b true s)
    ∧ ∃ k, (takePlug b true s).bay b = { (s.bay b).plugged with retry := k } := by
  rw [takePlug_in h]
  obtain ⟨hother, harrived, hbound, hleaving⟩ := plugIn_put (b := b) (s := s) { s.bay b with plug := true }
  have hsame := State.Alike.refl s
  have hask : ∀ q : Bay, s.Alike (askIdent b (s.put b q)) := fun q => (hsame.put b q).trans (askIdent_alike b _).1
  have hstays : (s.bay b).state ∈ [.closed, .empty, .cleared] → s.Alike (plugIn b (s.put b { s.bay b with plug := true }))
      ∧ ∃ k, (plugIn b (s.put b { s.bay b with plug := true })).bay b = { (s.bay b).plugged with retry := k } := fun h => by
    rw [hother h, plugged_of_other (by simp at h ⊢; tauto)]
    exact ⟨hsame.put b _, (s.bay b).retry, bay_put ..⟩
  cases hstate : (s.bay b).state with
  | closed => exact hstays (by rw [hstate]; decide)
  | empty => exact hstays (by rw [hstate]; decide)
  | cleared => exact hstays (by rw [hstate]; decide)
  | arrived =>
    rw [harrived hstate rfl, plugged_of_other (by rw [hstate]; decide)]
    exact ⟨hask _, askIdent_put_bay b s _⟩
  | bound =>
    rw [hbound hstate rfl, plugged_of_bound hstate]
    exact ⟨hask _, askIdent_put_bay b s _⟩
  | leaving =>
    rw [hleaving hstate, plugged_of_leaving hstate]
    exact ⟨(hsame.put b _).notifyBay .bay b, (s.bay b).retry, bay_of_put (s := s) rfl⟩

/-- The end of a read that the loss of the plug brings. -/
def State.readLost (s t : State) (b : BayNo) : Prop := ∀ y, s.reader.reading[b] = some y → t.reader.reading[b] = none
  ∧ t.reader.last[b] = some ⟨.failed .plugRemoved, y.pageZero, y.transactions, 0⟩

theorem takePlug_out_alike (h : (s.bay b).plug = true) (htest : s.engineTesting b = none)
    (hread : s.reader.reading[b] = none ∨ ∀ d ∈ s.book.records, d.bay = some b → d.state ≠ .clearing) :
    s.Alike (takePlug b false s)
    ∧ (∃ k c, (takePlug b false s).bay b = { (s.bay b).unplugged with retry := k, conflict := c })
    ∧ ((s.bay b).state ∈ [.bound, .cleared] → (takePlug b false s).seq.member b = none ∧ s.readLost (takePlug b false s) b) := by
  rw [takePlug_out h]
  obtain ⟨hother, harrived, hconflict, hbound, hcleared, hleaving⟩ := plugOut_put (b := b) (s := s) { s.bay b with plug := false }
  have hsame := State.Alike.refl s
  have hlose : ∀ (u : State) (q : Bay), u.bays = (s.put b q).bays → u.reader = s.reader → s.Alike u → s.Alike (losePlug b u)
      ∧ (losePlug b u).bay b = q ∧ (losePlug b u).seq.member b = none ∧ s.readLost (losePlug b u) b := fun u q hbays hreader hu => by
    obtain ⟨halike, hbays', hmember, hlost⟩ := losePlug_alike (b := b) (s := u) (by rw [State.engineTesting, hu.lamp]; exact htest)
      (by rw [hreader, hu.book]; exact hread)
    rw [hreader] at hlost
    exact ⟨hu.trans halike, bay_of_put (hbays'.trans hbays), hmember, hlost⟩
  cases hstate : (s.bay b).state with
  | closed | empty =>
    rw [hother (by rw [hstate]; decide), unplugged_of_other (by rw [hstate]; decide)]
    exact ⟨hsame.put b _, ⟨(s.bay b).retry, (s.bay b).conflict, bay_put ..⟩, fun hin => absurd hin (by decide)⟩
  | arrived =>
    rw [unplugged_of_other (by rw [hstate]; decide)]
    by_cases hc : (s.bay b).conflict = true
    · rw [hconflict hstate hc]
      exact ⟨((hsame.put b _).notifyBay .bay b).dropIdent b, ⟨none, false, bay_of_put (s := s) rfl⟩, fun hin => absurd hin (by decide)⟩
    · rw [harrived hstate (Bool.eq_false_iff.mpr hc)]
      exact ⟨(hsame.put b _).dropIdent b, ⟨none, (s.bay b).conflict, bay_of_put (s := s) rfl⟩, fun hin => absurd hin (by decide)⟩
  | bound =>
    rw [hbound hstate, unplugged_of_bound hstate]
    obtain ⟨halike, hbay, hlost⟩ := hlose (dropIdent b (s.put b { s.bay b with
      plug := false, retry := none, cabinAtUnplug := (s.bay b).cabin.map (·.temperature) })) _ rfl rfl ((hsame.put b _).dropIdent b)
    exact ⟨halike, ⟨none, (s.bay b).conflict, hbay⟩, fun _ => hlost⟩
  | cleared =>
    rw [hcleared hstate, unplugged_of_cleared hstate]
    obtain ⟨halike, hbay, hlost⟩ := hlose (dropIdent b (notifyBay .bay b (s.put b { s.bay b with
      plug := false, retry := none, cabinAtUnplug := (s.bay b).cabin.map (·.temperature), state := .leaving }))) _ rfl rfl
      (((hsame.put b _).notifyBay .bay b).dropIdent b)
    exact ⟨halike, ⟨none, (s.bay b).conflict, hbay⟩, fun _ => hlost⟩
  | leaving =>
    rw [hleaving hstate, unplugged_of_other (by rw [hstate]; decide)]
    obtain ⟨halike, hbay, hlost⟩ := hlose (s.put b { s.bay b with plug := false }) _ rfl rfl (hsame.put b _)
    exact ⟨halike, ⟨(s.bay b).retry, (s.bay b).conflict, hbay⟩, fun hin => absurd hin (by decide)⟩

theorem takeLink_alike (b : BayNo) (up : Bool) (s : State) : s.Alike (takeLink b up s) ∧ (takeLink b up s).seq = s.seq
    ∧ (takeLink b up s).reader = s.reader ∧ ∃ k, (takeLink b up s).bay b = { s.bay b with link := up, retry := k } := by
  have hput : ∀ q, s.Alike (s.put b q) := fun q => (State.Alike.refl s).put b q
  by_cases h : up = true ∧ (s.bay b).link = false ∧ (s.bay b).retry ≠ none ∧ (s.bay b).wantsIdent = true
  · obtain ⟨rfl, hlink, hretry, hwants⟩ := h
    rw [takeLink_of_rises hlink hretry hwants]
    obtain ⟨hask, hseq, hreader⟩ := askIdent_alike b (s.put b { s.bay b with link := true, retry := none })
    exact ⟨(hput _).trans hask, hseq, hreader, askIdent_put_bay b s _⟩
  · rw [takeLink_of_not h]
    exact ⟨hput _, rfl, rfl, (s.bay b).retry, bay_put ..⟩

end Plug

/-- R7: a bay's record with the plug as it is found. -/
def Bay.plugTaken (r : Bay) (now : Bool) : Bay := if now = r.plug then r else if now = true then r.plugged else r.unplugged

/-- R5: a record that agrees with the command, at a bay that no test and no clearance waits for. -/
def State.quietFor (s : State) (b : BayNo) (x : SenseRecord) : Prop :=
  s.seq.commanded[b].on = x.current ∧ s.seq.stuck[b] = none ∧ (s.engineTesting b = none ∨ x.plug = (s.bay b).plug)
  ∧ (s.reader.reading[b] = none ∨ x.plug = (s.bay b).plug ∨ ∀ d ∈ s.book.records, d.bay = some b → d.state ≠ .clearing)

theorem takePlug_alike {b : BayNo} {s : State} {now : Bool} (htest : s.engineTesting b = none ∨ now = (s.bay b).plug)
    (hread : s.reader.reading[b] = none ∨ now = (s.bay b).plug ∨ ∀ d ∈ s.book.records, d.bay = some b → d.state ≠ .clearing) :
    s.Alike (takePlug b now s) ∧ (∃ k c, (takePlug b now s).bay b = { (s.bay b).plugTaken now with retry := k, conflict := c })
    ∧ ((s.bay b).plug = true → now = false → (s.bay b).state ∈ [.bound, .cleared] →
      (takePlug b now s).seq.member b = none ∧ s.readLost (takePlug b now s) b) := by
  unfold Bay.plugTaken
  by_cases hsame : now = (s.bay b).plug
  · rw [takePlug_same hsame, if_pos hsame]
    exact ⟨.refl s, ⟨(s.bay b).retry, (s.bay b).conflict, rfl⟩, fun hp hn => absurd (hn.symm.trans (hsame.trans hp)) (by decide)⟩
  · rw [if_neg hsame]
    cases now with
    | true =>
      obtain ⟨halike, k, hk⟩ := takePlug_in_alike (b := b) (s := s) (Bool.eq_false_iff.mpr fun h => hsame h.symm)
      exact ⟨halike, ⟨k, (s.bay b).plugged.conflict, hk⟩, fun _ hn => absurd hn (by decide)⟩
    | false =>
      obtain ⟨halike, hbay, hlost⟩ := takePlug_out_alike (b := b) (s := s) (Bool.not_eq_false _ ▸ fun h => hsame h.symm)
        (htest.resolve_right hsame) (hread.imp_right fun h => h.resolve_left hsame)
      exact ⟨halike, hbay, fun _ _ => hlost⟩

theorem fieldsTaken_alike {b : BayNo} {x : SenseRecord} {s : State} (hquiet : s.quietFor b x) :
    s.Alike (s.fieldsTaken b x)
    ∧ (∃ k c, (s.fieldsTaken b x).bay b = { ((s.bay b).sensed x).plugTaken x.plug with link := x.link, retry := k, conflict := c })
    ∧ ((s.bay b).plug = true → x.plug = false → (s.bay b).state ∈ [.bound, .cleared] →
      (s.fieldsTaken b x).seq.member b = none ∧ s.readLost (s.fieldsTaken b x) b) := by
  obtain ⟨hon, hstuck, htest, hread⟩ := hquiet
  obtain ⟨hcurrent, hbays, hreader⟩ := checkCurrent_alike (b := b) (s := s.put b ((s.bay b).sensed x)) hon hstuck
  have hbay := bay_of_put hbays
  replace hcurrent := ((State.Alike.refl s).put b _).trans hcurrent
  replace hreader : _ = s.reader := hreader
  unfold State.fieldsTaken
  generalize checkCurrent b x.current (s.put b ((s.bay b).sensed x)) = u at *
  obtain ⟨hplug, ⟨k, c, hk⟩, hlost⟩ := takePlug_alike (b := b) (s := u) (now := x.plug)
    (by rw [State.engineTesting, hcurrent.lamp, hbay]; exact htest) (by rw [hreader, hcurrent.book, hbay]; exact hread)
  rw [hbay] at hk hlost
  generalize takePlug b x.plug u = v at *
  obtain ⟨hlink, hseq, hreader', k', hk'⟩ := takeLink_alike b x.link v
  refine ⟨(hcurrent.trans hplug).trans hlink, ⟨k', c, by rw [hk', hk]⟩, fun hp hn hin => ?_⟩
  obtain ⟨hmember, hgone⟩ := hlost hp hn hin
  rw [State.readLost, hreader] at hgone
  rw [State.readLost, hseq, hreader']
  exact ⟨hmember, hgone⟩

/-! ## The book after an exit (R19, R20, R45, R50) -/

/-- What a teardown leaves to a bay with no departure: the book, the pending clearances, the anomaly notices, and what has been told of the bay. -/
structure State.BookKept (b : BayNo) (s t : State) : Prop where
  book : t.book = s.book
  pending : t.clearance.pending = s.clearance.pending
  anomaly : ∀ l, (t.port l).notices.anomaly = (s.port l).notices.anomaly
  departure : ∀ l, (s.port l).notices.departure.getLsbD b = true → (t.port l).notices.departure.getLsbD b = true
  clearance : ∀ l, (s.port l).notices.clearance.getLsbD b = true → (t.port l).notices.clearance.getLsbD b = true

theorem add_told (n : Notices) (k : NoticeKind) (bs : BaySet) (b : BayNo) :
    (n.departure.getLsbD b = true → (n.add k bs).departure.getLsbD b = true)
    ∧ (n.clearance.getLsbD b = true → (n.add k bs).clearance.getLsbD b = true) := by
  have hor : ∀ x : BaySet, x.getLsbD b = true → (x ||| bs).getLsbD b = true := fun x hx => by
    rw [BitVec.getLsbD_or, hx, Bool.true_or]
  cases k with
  | departure => exact ⟨hor _, id⟩
  | clearance => exact ⟨id, hor _⟩
  | _ => exact ⟨id, id⟩

namespace State.BookKept

variable {b : BayNo} {s t : State}

theorem of_ports (hbook : t.book = s.book) (hpending : t.clearance.pending = s.clearance.pending) (hports : ∀ l, t.port l = s.port l) :
    s.BookKept b t := by
  refine ⟨hbook, hpending, fun l => ?_, fun l h => ?_, fun l h => ?_⟩
  · rw [hports]
  · rwa [hports]
  · rwa [hports]

theorem refl (b : BayNo) (s : State) : s.BookKept b s := of_ports rfl rfl fun _ => rfl

theorem trans {u : State} (h : s.BookKept b t) (h' : t.BookKept b u) : s.BookKept b u :=
  ⟨h'.book.trans h.book, h'.pending.trans h.pending, fun l => (h'.anomaly l).trans (h.anomaly l),
    fun l hs => h'.departure l (h.departure l hs), fun l hs => h'.clearance l (h.clearance l hs)⟩

theorem notifyBay (h : s.BookKept b t) (k : NoticeKind) (c : BayNo) : s.BookKept b (notifyBay k c t) := by
  refine h.trans ⟨rfl, rfl, fun l => ?_, fun l => ?_, fun l => ?_⟩
  · rw [port_notifyBay_notices, add_anomaly]
  · rw [port_notifyBay_notices]
    exact (add_told _ k _ b).1
  · rw [port_notifyBay_notices]
    exact (add_told _ k _ b).2

theorem endTest (h : s.BookKept b t) (hnone : t.book.boundTo b = none) : s.BookKept b (endTest b t) := by
  rw [endTest_of_unbound hnone]
  exact h.notifyBay .lamp b

end State.BookKept

section TearDown

variable {b : BayNo} {s : State}

theorem tearDownHeating_bookKept : s.BookKept b (tearDownHeating b s) := by
  rw [tearDownHeating_frame]
  exact .of_ports rfl rfl fun l => by cases l <;> rfl

theorem tearDownStore_bookKept : s.BookKept b (tearDownStore b s) := by
  rw [tearDownStore_eq]
  refine State.BookKept.notifyBay ?_ .defect b
  exact .of_ports rfl rfl fun l => by cases l <;> rfl

theorem tearDownLamp_bookKept (h : s.book.boundTo b = none) : s.BookKept b (tearDownLamp b s) := by
  have hclear : ∀ u : LampUnit, s.BookKept b { s with lamp := u } := fun u => .of_ports rfl rfl fun l => by cases l <;> rfl
  unfold tearDownLamp
  cases he : s.engineTesting b with
  | none =>
    dsimp only
    split
    · exact State.BookKept.endTest (hclear _) h
    · exact hclear _
  | some e =>
    dsimp only
    rw [startRelease_stopSteps]
    refine State.BookKept.endTest ?_ h
    exact .of_ports rfl rfl fun l => by cases l <;> rfl

theorem keptByReports_lamp (u : LampUnit) : KeptByReports fun s => s.lamp = u where
  notices _ _ _ h := h
  book _ _ h := h
  clearance _ _ h := h
  store _ _ h := h
  onSet _ _ _ _ h := h
  bayState _ _ _ _ h := h
  heat _ _ _ _ h := h
  signal _ _ _ _ h := h
  withdrawn _ _ h := h

theorem tearDownLamp_queue (b : BayNo) (s : State) : (tearDownLamp b s).lamp.queue = s.lamp.queue.filter (·.bay != b) := by
  have hend : ∀ u : State, (endTest b u).lamp = u.lamp := fun u => (keptByReports_lamp u.lamp).endTest rfl b
  unfold tearDownLamp
  cases he : s.engineTesting b with
  | none =>
    dsimp only
    split
    · rw [hend]
      rfl
    · rfl
  | some e =>
    dsimp only
    rw [startRelease_stopSteps, hend]
    rfl

theorem tearDown_bookKept (h : s.book.boundTo b = none) : s.BookKept b (tearDown b s) := by
  have hstore := tearDownHeating_bookKept.trans (tearDownStore_bookKept (b := b) (s := tearDownHeating b s))
  have hlamp := hstore.trans (tearDownLamp_bookKept (b := b) (by rw [hstore.book]; exact h))
  show s.BookKept b (clearCoach b (setSignal b .red (tearDownReader b (tearDownLamp b (tearDownStore b (tearDownHeating b s))))))
  rw [tearDown_last]
  exact hlamp.trans (.of_ports rfl rfl fun l => by cases l <;> rfl)

theorem tearDown_queue (b : BayNo) (s : State) (h : s.lamp.queue = []) : (tearDown b s).lamp.queue = [] := by
  have hstore : (tearDownStore b (tearDownHeating b s)).lamp.queue = [] := by
    rw [tearDownStore_eq, tearDownHeating_frame]
    exact h
  show (clearCoach b (setSignal b .red (tearDownReader b (tearDownLamp b (tearDownStore b (tearDownHeating b s)))))).lamp.queue = []
  rw [tearDown_last]
  show (tearDownLamp b _).lamp.queue = []
  rw [tearDownLamp_queue, hstore]
  rfl

theorem vacate_bookKept : s.BookKept b (vacate b s) := by
  refine State.BookKept.notifyBay ?_ .bay b
  exact .of_ports rfl rfl fun l => by cases l <;> rfl

/-- R19: the end of an exit whose departure has left the bay. -/
theorem vacated_bookKept (h : s.book.boundTo b = none) (hq : s.lamp.queue = []) : s.BookKept b (vacate b (takeAll (tearDown b s))) := by
  rw [takeAll_of_queue_nil (tearDown_queue b s hq)]
  exact (tearDown_bookKept h).trans vacate_bookKept

end TearDown

/-! ## What leaves the book -/

/-- R19: an exit of a bay with no departure. -/
theorem takeExit_bookKept {b : BayNo} {s : State} {q : Bay} (h : s.book.boundTo b = none) (hq : s.lamp.queue = []) :
    s.BookKept b (takeExit b (s.put b q)) := by
  obtain ⟨hother, harrived, hbound, hcleared, hleaving⟩ := takeExit_put (b := b) (s := s) q
  have hput : ∀ p : Bay, s.BookKept b (s.put b p) := fun p => .of_ports rfl rfl fun l => by cases l <;> rfl
  have hbook : (s.put b q).book.boundTo b = none := h
  have hgone : ∀ anomaly, departGone b anomaly (s.put b q) = s.put b q := fun anomaly => by simp only [departGone, hbook]
  have hend := (hput q).trans (vacated_bookKept (s := s.put b q) h hq)
  cases hstate : q.state with
  | closed | empty =>
    rw [hother (by rw [hstate]; decide)]
    exact hput q
  | arrived =>
    rw [harrived hstate]
    refine State.BookKept.trans ?_ vacate_bookKept
    exact .of_ports rfl rfl fun l => by cases l <;> rfl
  | bound =>
    rw [hbound hstate, leaveBook_of_none hbook]
    exact hend
  | cleared =>
    rw [hcleared hstate, hgone]
    exact hend
  | leaving =>
    rw [hleaving hstate, hgone]
    exact hend

/-- R45: no record at the bay but the one that returns. -/
theorem boundTo_returned {k : Book} {b : BayNo} {ref : Nat} (h : ∀ e ∈ k.records, e.bay = some b → e.ref = ref) :
    ({ k with records := k.records.map fun e => if e.ref = ref then { e with state := .booked, bay := none } else e } : Book).boundTo b
      = none := by
  rw [boundTo_eq_none_iff]
  simp only [List.forall_mem_map]
  intro e he
  split_ifs with href
  · exact fun hb => absurd hb (by simp)
  · exact fun hb => href (h e he hb)

/-- R50: no record at the bay but the one that leaves the book. -/
theorem boundTo_filter {k k' : Book} {b : BayNo} {ref : Nat} (h : ∀ e ∈ k.records, e.bay = some b → e.ref = ref)
    (hk : k'.records = k.records.filter (·.ref != ref)) : k'.boundTo b = none := by
  rw [boundTo_eq_none_iff, hk]
  intro e he hb
  obtain ⟨he', hne⟩ := List.mem_filter.mp he
  simp [h e he' hb] at hne

/-- R50: the log with an entry more. -/
theorem addLog_log (k : Book) (e : LogEntry) : (k.addLog e).log = (k.log ++ [e]).drop (k.log.length + 1 - 16) := by
  unfold Book.addLog
  dsimp only
  split_ifs with hfull
  · rw [List.drop_append_of_le_length (by omega)]
    congr 2
  · rw [show k.log.length + 1 - 16 = 0 by omega, List.drop_zero]

/-- R50, R53: a record that leaves the book, and its notices. -/
theorem removeAndNotify_book (d : Departure) (o : LogOutcome) (anomaly : Bool) (s : State) : (removeAndNotify d o anomaly s).book = { s.book with
    records := s.book.records.filter (·.ref != d.ref)
    log := (s.book.log ++ [logEntryOf s d o anomaly]).drop (s.book.log.length + 1 - 16)
    nextSequence := (s.book.nextSequence + 1) % 65536 } := by
  rw [← addLog_log]
  cases anomaly <;> rfl

theorem removeAndNotify_notices {d : Departure} {b : BayNo} (hb : d.bay = some b) (o : LogOutcome) (anomaly : Bool) (s : State) (l : Link) :
    ((removeAndNotify d o anomaly s).port l).notices.departure.getLsbD b = true
    ∧ ((removeAndNotify d o anomaly s).port l).notices.anomaly = (anomaly || (s.port l).notices.anomaly) := by
  have htold : ∀ x : BaySet, (x ||| BaySet.single b).getLsbD b = true := fun x => by
    rw [BitVec.getLsbD_or, single_getLsbD, Bool.or_true]
  unfold removeAndNotify
  rw [hb]
  cases anomaly <;> cases l <;> exact ⟨htold _, rfl⟩

/-! ## Exits of a bay with its departure (R19, R45, R50) -/

section Exit

variable {b : BayNo} {s : State} {q : Bay} {d : Departure}

/-- R45: what the bay's leave writes to the book, the clearance unit and the notices. -/
structure State.LeftBook (b : BayNo) (d : Departure) (s t : State) : Prop where
  book : t.book = { s.book with records := s.book.records.map fun e => if e.ref = d.ref then { e with state := .booked, bay := none } else e }
  pending : d.state ≠ .clearing → t.clearance.pending = s.clearance.pending
  dropped : d.state = .clearing → t.clearance.pending = s.clearance.pending.filter (·.ref != d.ref)
    ∧ ∀ l, (t.port l).notices.clearance.getLsbD b = true
  told : ∀ l, (t.port l).notices.departure.getLsbD b = true ∧ (t.port l).notices.anomaly = (s.port l).notices.anomaly

theorem or_single_told (x : BaySet) (b : BayNo) : (x ||| BaySet.single b).getLsbD b = true := by
  rw [BitVec.getLsbD_or, single_getLsbD, Bool.or_true]

theorem leaveBook_left (hd : s.book.boundTo b = some d) : s.LeftBook b d (leaveBook b s) := by
  by_cases hclearing : d.state = .clearing
  · rw [leaveBook_of_clearing hd hclearing]
    exact ⟨rfl, fun hne => absurd hclearing hne, fun _ => ⟨rfl, fun l => by cases l <;> exact or_single_told _ b⟩,
      fun l => by cases l <;> exact ⟨or_single_told _ b, rfl⟩⟩
  · rw [leaveBook_of_bound hd hclearing]
    exact ⟨rfl, fun _ => rfl, fun h => absurd h hclearing, fun l => by cases l <;> exact ⟨or_single_told _ b, rfl⟩⟩

theorem leaveBook_lamp (b : BayNo) (s : State) : (leaveBook b s).lamp = s.lamp := by
  cases hd : s.book.boundTo b with
  | none => rw [leaveBook_of_none hd]
  | some d =>
    by_cases hclearing : d.state = .clearing
    · rw [leaveBook_of_clearing hd hclearing]
      rfl
    · rw [leaveBook_of_bound hd hclearing]
      rfl

/-- R45: an unscheduled exit returns its departure. -/
theorem takeExit_returned (hq : s.lamp.queue = []) (hstate : q.state = .bound) (hd : s.book.boundTo b = some d)
    (honly : ∀ e ∈ s.book.records, e.bay = some b → e.ref = d.ref) : s.LeftBook b d (takeExit b (s.put b q)) := by
  rw [(takeExit_put q).2.2.1 hstate]
  have hleft : s.LeftBook b d (leaveBook b (s.put b q)) := by
    obtain ⟨hbook, hpending, hdropped, htold⟩ := leaveBook_left (s := s.put b q) hd
    exact ⟨hbook, hpending, hdropped, fun l => ⟨(htold l).1, (htold l).2.trans (by cases l <;> rfl)⟩⟩
  have hqueue : (leaveBook b (s.put b q)).lamp.queue = [] := (congrArg LampUnit.queue (leaveBook_lamp b _)).trans hq
  generalize leaveBook b (s.put b q) = v at *
  have K := vacated_bookKept (b := b) (s := v) (hleft.book ▸ boundTo_returned honly) hqueue
  exact ⟨K.book.trans hleft.book, fun h => K.pending.trans (hleft.pending h),
    fun h => ⟨K.pending.trans (hleft.dropped h).1, fun l => K.clearance l ((hleft.dropped h).2 l)⟩,
    fun l => ⟨K.departure l (hleft.told l).1, (K.anomaly l).trans (hleft.told l).2⟩⟩

/-- R19, R50: an exit that takes its departure off the book; one from CLEARED is an anomaly of the plug. -/
theorem takeExit_gone (hq : s.lamp.queue = []) (hstate : q.state ∈ [.cleared, .leaving]) (hd : s.book.boundTo b = some d)
    (honly : ∀ e ∈ s.book.records, e.bay = some b → e.ref = d.ref) :
    let t := takeExit b (s.put b q)
    let anomaly := q.state == .cleared
    t.book = { s.book with
      records := s.book.records.filter (·.ref != d.ref)
      log := (s.book.log ++ [logEntryOf (s.put b q) d .gone anomaly]).drop (s.book.log.length + 1 - 16)
      nextSequence := (s.book.nextSequence + 1) % 65536 }
    ∧ ∀ l, (t.port l).notices.departure.getLsbD b = true ∧ (t.port l).notices.anomaly = (anomaly || (s.port l).notices.anomaly) := by
  intro t anomaly
  have hd' : (s.put b q).book.boundTo b = some d := hd
  have hports : ∀ l, (s.put b q).port l = s.port l := fun l => by cases l <;> rfl
  have hbay : d.bay = some b := by simpa using List.find?_some hd
  have hgone : departGone b anomaly (s.put b q) = removeAndNotify d .gone anomaly (s.put b q) := by simp only [departGone, hd']
  have hbook := removeAndNotify_book d .gone anomaly (s.put b q)
  have hnotices := removeAndNotify_notices hbay .gone anomaly (s.put b q)
  have hlamp : (removeAndNotify d .gone anomaly (s.put b q)).lamp.queue = [] := by
    rw [removeAndNotify_frame]
    exact hq
  have ht : t = vacate b (takeAll (tearDown b (departGone b anomaly (s.put b q)))) := by
    rcases List.mem_pair.mp hstate with h | h
    · have hanomaly : anomaly = true := by simp [anomaly, h]
      rw [hanomaly]
      exact (takeExit_put q).2.2.2.1 h
    · have hanomaly : anomaly = false := by simp [anomaly, h]
      rw [hanomaly]
      exact (takeExit_put q).2.2.2.2 h
  rw [hgone] at ht
  have K := vacated_bookKept (boundTo_filter (k := s.book) honly (congrArg Book.records hbook)) hlamp
  rw [ht]
  refine ⟨K.book.trans hbook, fun l => ⟨K.departure l (hnotices l).1, (K.anomaly l).trans ?_⟩⟩
  rw [(hnotices l).2, hports]

end Exit

/-! ## The plug's part in an exit -/

theorem plugTaken_bound {r : Bay} (h : r.state = .bound) (now : Bool) : (r.plugTaken now).state = .bound := by
  unfold Bay.plugTaken
  split_ifs
  · exact h
  · rw [plugged_of_bound h]
    exact h
  · rw [unplugged_of_bound h]
    exact h

/-- R7: a coach that leaves with the plug in has not been unplugged. -/
def Bay.stillIn (r : Bay) (now : Bool) : Bool :=
  (r.state == .cleared && !(r.plug && !now)) || (r.state == .leaving && !r.plug && now)

theorem plugTaken_gone {r : Bay} (h : r.state ∈ [.cleared, .leaving]) (now : Bool) : (r.plugTaken now).state ∈ [.cleared, .leaving]
    ∧ ((r.plugTaken now).state == .cleared) = r.stillIn now
    ∧ (r.stillIn now = false →
      (r.plugTaken now).cabinAtUnplug = if r.state = .cleared then r.cabin.map (·.temperature) else r.cabinAtUnplug) := by
  unfold Bay.plugTaken Bay.stillIn
  by_cases hsame : now = r.plug
  · rw [if_pos hsame, hsame]
    rcases List.mem_pair.mp h with hs | hs <;> cases hp : r.plug <;> simp [hs]
  · rw [if_neg hsame]
    cases now with
    | true =>
      have hp : r.plug = false := Bool.eq_false_iff.mpr fun hp => hsame hp.symm
      rw [if_pos rfl]
      rcases List.mem_pair.mp h with hs | hs
      · rw [plugged_of_other (by simp [hs])]
        simp [hs, hp]
      · rw [plugged_of_leaving hs]
        simp [hs, hp]
    | false =>
      have hp : r.plug = true := Bool.not_eq_false _ ▸ fun hp => hsame hp.symm
      rw [if_neg (by decide)]
      rcases List.mem_pair.mp h with hs | hs
      · rw [unplugged_of_cleared hs]
        simp [hs, hp]
      · rw [unplugged_of_other (by simp [hs])]
        simp [hs, hp]

/-! ## A record as a whole -/

/-- R50: the entry of an exit that takes its departure off the book. -/
def State.exitEntry (s : State) (b : BayNo) (d : Departure) (anomaly : Bool) (unplugged : Option Int) : LogEntry where
  sequence := s.book.nextSequence
  ref := d.ref
  outcome := .gone
  plugAnomaly := anomaly
  bay := some b
  coach := d.coach
  minute := s.clock.minute
  cabinAtUnplug := if anomaly then none else unplugged
  deferred := deferredCount s.store.lists[b]

theorem logEntryOf_put {b : BayNo} {s : State} {d : Departure} (hb : d.bay = some b) (q : Bay) (anomaly : Bool) :
    logEntryOf (s.put b q) d .gone anomaly = s.exitEntry b d anomaly q.cabinAtUnplug := by
  have hbay : ((s.put b q).bay b).cabinAtUnplug = q.cabinAtUnplug := by rw [bay_put]
  unfold logEntryOf
  rw [hb]
  dsimp only [Option.bind_some]
  rw [hbay]
  rfl

section Record

variable {b : BayNo} {x : SenseRecord} {s : State}

/-- R5, R7: a record that agrees with the command and draws the plug of a bound coach. -/
theorem takeSense_drawn (hbound : (s.bay b).state = .bound) (hplug : (s.bay b).plug = true) (hdrawn : x.plug = false)
    (hocc : x.occupied = (s.bay b).occupied) (hon : s.seq.commanded[b].on = x.current) (hstuck : s.seq.stuck[b] = none)
    (hmark : s.store.marks[b].post = false) :
    let u := losePlug b (dropIdent b (s.put b { (s.bay b).sensed x with
      plug := false, retry := none, cabinAtUnplug := ((s.bay b).sensed x).cabin.map (·.temperature) }))
    takeSense b x s = u.put b { u.bay b with link := x.link, candidate := none } := by
  intro u
  have hopen : (s.bay b).state ≠ .closed := by
    rw [hbound]
    decide
  have hcurrent : checkCurrent b x.current (s.put b ((s.bay b).sensed x)) = s.put b ((s.bay b).sensed x) := by
    rcases checkCurrent_agreeing (s := s.put b ((s.bay b).sensed x)) hon hstuck with h | h
    · exact h
    · exact h.trans (clearPostMark_of_clear hmark)
  have hout : takePlug b x.plug (s.put b ((s.bay b).sensed x)) = u := by
    have hin : ((s.put b ((s.bay b).sensed x)).bay b).plug = true := by
      rw [bay_put]
      exact hplug
    rw [hdrawn, takePlug_out hin, bay_put, put_put]
    exact (plugOut_put { (s.bay b).sensed x with plug := false }).2.2.2.1 hbound
  have hafter : ({ (s.bay b).sensed x with
      plug := false, retry := none, cabinAtUnplug := ((s.bay b).sensed x).cabin.map (·.temperature) } : Bay).after (u.bay b) := by
    have h := losePlug_after b (dropIdent b (s.put b { (s.bay b).sensed x with
      plug := false, retry := none, cabinAtUnplug := ((s.bay b).sensed x).cabin.map (·.temperature) }))
    rwa [dropIdent_put, bay_put] at h
  have hlink : takeLink b x.link u = u.put b { u.bay b with link := x.link } := takeLink_of_not fun hrises => by
    have hplug' := ((wantsIdent_iff _).mp hrises.2.2.2).1
    rw [hafter.plug] at hplug'
    exact Bool.false_ne_true hplug'
  have hsame : x.occupied = ((u.put b { u.bay b with link := x.link }).bay b).occupied := by
    rw [bay_put]
    exact hocc.trans hafter.occupied.symm
  rw [takeSense_of_open hopen, State.fieldsTaken, hcurrent, hout, hlink, takeOccupancy_same hsame, bay_put, put_put]

/-- R5 to R8: a record that agrees with the command and brings no change of occupancy. -/
theorem takeSense_quiet (hopen : (s.bay b).state ≠ .closed) (hno : ¬ (s.bay b).accepts x.occupied) (hquiet : s.quietFor b x) :
    (∃ k c m, (takeSense b x s).bay b = { ((s.bay b).sensed x).plugTaken x.plug with
      link := x.link, retry := k, conflict := c, candidate := m })
    ∧ ((s.bay b).plug = true → x.plug = false → (s.bay b).state ∈ [.bound, .cleared] →
      (takeSense b x s).seq.member b = none ∧ s.readLost (takeSense b x s) b) := by
  obtain ⟨-, ⟨k, c, hbay⟩, hlost⟩ := fieldsTaken_alike hquiet
  have hafter := fieldsTaken_after b x s
  have hput : ∃ m, takeSense b x s = (s.fieldsTaken b x).put b { (s.fieldsTaken b x).bay b with candidate := m } := by
    rw [takeSense_of_open hopen]
    by_cases hsame : x.occupied = ((s.fieldsTaken b x).bay b).occupied
    · exact ⟨_, takeOccupancy_same hsame⟩
    · refine ⟨_, takeOccupancy_new hsame fun hcand => hno ⟨?_, hafter.candidate.symm.trans hcand⟩⟩
      exact fun h => hsame (h.trans hafter.occupied.symm)
  obtain ⟨m, ht⟩ := hput
  rw [ht, bay_put, hbay]
  exact ⟨⟨k, c, m, rfl⟩, hlost⟩

/-- R19, R45, R50: the book after a record that agrees with the command and brings an exit. -/
theorem takeSense_exit_book (hopen : (s.bay b).state ≠ .closed) (hyes : (s.bay b).accepts x.occupied) (hclear : x.occupied = false)
    (hquiet : s.quietFor b x) (hqueue : s.lamp.queue = []) :
    let t := takeSense b x s
    let r := (s.bay b).sensed x
    ((∀ d ∈ s.book.records, d.bay ≠ some b) → t.book = s.book ∧ t.clearance.pending = s.clearance.pending)
    ∧ ∀ d : Departure, s.book.boundTo b = some d → (∀ e ∈ s.book.records, e.bay = some b → e.ref = d.ref) →
      (r.state = .bound →
        t.book = { s.book with records := s.book.records.map fun e => if e.ref = d.ref then { e with state := .booked, bay := none } else e }
        ∧ (d.state ≠ .clearing → t.clearance.pending = s.clearance.pending)
        ∧ (d.state = .clearing → t.clearance.pending = s.clearance.pending.filter (·.ref != d.ref)
            ∧ ∀ l, (t.port l).notices.clearance.getLsbD b = true)
        ∧ ∀ l, (t.port l).notices.departure.getLsbD b = true ∧ (t.port l).notices.anomaly = (s.port l).notices.anomaly)
      ∧ (r.state ∈ [.cleared, .leaving] →
        t.book = { s.book with
          records := s.book.records.filter (·.ref != d.ref)
          log := (s.book.log ++ [s.exitEntry b d (r.stillIn x.plug)
            (if r.state = .cleared then r.cabin.map (·.temperature) else r.cabinAtUnplug)]).drop (s.book.log.length + 1 - 16)
          nextSequence := (s.book.nextSequence + 1) % 65536 }
        ∧ ∀ l, (t.port l).notices.departure.getLsbD b = true
            ∧ (t.port l).notices.anomaly = (r.stillIn x.plug || (s.port l).notices.anomaly)) := by
  intro t r
  obtain ⟨halike, ⟨k, c, hbay⟩, -⟩ := fieldsTaken_alike hquiet
  have hafter := fieldsTaken_after b x s
  have haccepts : ((s.fieldsTaken b x).bay b).accepts false :=
    ⟨hafter.occupied.symm ▸ hclear ▸ hyes.1, hafter.candidate.trans (hclear ▸ hyes.2)⟩
  have ht : t = takeExit b ((s.fieldsTaken b x).put b { (s.fieldsTaken b x).bay b with occupied := false, candidate := none }) := by
    show takeSense b x s = _
    rw [takeSense_of_open hopen, hclear]
    exact takeOccupancy_exit haccepts
  rw [hbay] at ht
  have hanomaly := fun l => halike.anomaly l
  have hbook := halike.book
  have hpending := congrArg Clearance.pending halike.clearance
  have hlists := halike.lists
  have hclock := halike.clock
  have hq : (s.fieldsTaken b x).lamp.queue = [] := by
    rw [halike.lamp]
    exact hqueue
  generalize s.fieldsTaken b x = u at *
  refine ⟨fun hnone => ?_, fun d hd honly => ⟨fun hstate => ?_, fun hstate => ?_⟩⟩
  · have K := takeExit_bookKept (b := b) (s := u) (q := { r.plugTaken x.plug with
      link := x.link, retry := k, conflict := c, occupied := false, candidate := none }) (by rw [hbook, boundTo_eq_none_iff]; exact hnone) hq
    rw [ht]
    exact ⟨K.book.trans hbook, K.pending.trans hpending⟩
  · have hreturned := takeExit_returned (q := { r.plugTaken x.plug with
      link := x.link, retry := k, conflict := c, occupied := false, candidate := none }) hq (plugTaken_bound hstate _)
      (hbook ▸ hd) (hbook ▸ honly)
    rw [← ht] at hreturned
    obtain ⟨hbook', hstays, hdropped, htold⟩ := hreturned
    simp only [hbook, hpending, hanomaly] at hbook' hstays hdropped htold
    exact ⟨hbook', hstays, hdropped, htold⟩
  · obtain ⟨hin, hstill, hcabin⟩ := plugTaken_gone hstate x.plug
    have hgone := takeExit_gone (q := { r.plugTaken x.plug with
      link := x.link, retry := k, conflict := c, occupied := false, candidate := none }) hq hin (hbook ▸ hd) (hbook ▸ honly)
    dsimp only at hgone
    rw [← ht] at hgone
    have hb : d.bay = some b := by simpa using List.find?_some hd
    rw [logEntryOf_put hb, hstill] at hgone
    have hentry : u.exitEntry b d (r.stillIn x.plug) (r.plugTaken x.plug).cabinAtUnplug = s.exitEntry b d (r.stillIn x.plug)
        (if r.state = .cleared then r.cabin.map (·.temperature) else r.cabinAtUnplug) := by
      unfold State.exitEntry
      rw [hbook, hclock, hlists]
      cases hin : r.stillIn x.plug with
      | true => rfl
      | false => rw [hcabin hin]
    simp only [hentry, hbook, hanomaly] at hgone
    exact hgone

end Record

/-! ## The plug, the link and the occupancy as the table of R5 to R8 gives them -/

theorem takePlug_spec (b : BayNo) (now : Bool) (s : State) :
    let r := s.bay b
    let moved : Bay → State := fun q => notifyBay .bay b (s.put b q)
    let unplugged := r.cabin.map (·.temperature)
    let t := takePlug b now s
    (now = r.plug → t = s)
    ∧ (now = true → r.plug = false →
      (r.state ∈ [.closed, .empty, .cleared] → t = s.put b { r with plug := true })
      ∧ (r.state = .arrived → t = askIdent b (s.put b { r with plug := true }))
      ∧ (r.state = .bound → t = askIdent b (s.put b { r with plug := true, cabinAtUnplug := none, unconfirmed := true }))
      ∧ (r.state = .leaving → t = moved { r with plug := true, cabinAtUnplug := none, state := .cleared }))
    ∧ (now = false → r.plug = true →
      (r.state ∈ [.closed, .empty] → t = s.put b { r with plug := false })
      ∧ (r.state = .arrived → r.conflict = false → t = dropIdent b (s.put b { r with plug := false, retry := none }))
      ∧ (r.state = .arrived → r.conflict = true → t = dropIdent b (moved { r with plug := false, retry := none, conflict := false }))
      ∧ (r.state = .bound → t = losePlug b (dropIdent b (s.put b { r with plug := false, retry := none, cabinAtUnplug := unplugged })))
      ∧ (r.state = .cleared → t = losePlug b (dropIdent b (moved { r with
          plug := false, retry := none, cabinAtUnplug := unplugged, state := .leaving })))
      ∧ (r.state = .leaving → t = losePlug b (s.put b { r with plug := false }))) := by
  intro r moved unplugged t
  refine ⟨fun h => takePlug_same h, fun hnow hplug => ?_, fun hnow hplug => ?_⟩
  · have ht : t = plugIn b (s.put b { r with plug := true }) := by
      rw [← takePlug_in hplug, ← hnow]
    obtain ⟨hother, harrived, hbound, hleaving⟩ := plugIn_put (b := b) (s := s) { r with plug := true }
    rw [ht]
    exact ⟨hother, fun h => harrived h rfl, fun h => hbound h rfl, hleaving⟩
  · have ht : t = plugOut b (s.put b { r with plug := false }) := by
      rw [← takePlug_out hplug, ← hnow]
    rw [ht]
    exact plugOut_put { r with plug := false }

theorem takeLink_spec (b : BayNo) (now : Bool) (s : State) :
    let r := s.bay b
    let rises := now = true ∧ r.link = false ∧ r.retry ≠ none ∧ r.plug = true
      ∧ (r.state = .arrived ∨ (r.state = .bound ∧ r.unconfirmed = true))
    (rises → takeLink b now s = askIdent b (s.put b { r with link := true, retry := none }))
    ∧ (¬ rises → takeLink b now s = s.put b { r with link := now }) := by
  intro r rises
  have hwants : r.wantsIdent = true ↔ r.plug = true ∧ (r.state = .arrived ∨ (r.state = .bound ∧ r.unconfirmed = true)) := wantsIdent_iff r
  refine ⟨fun ⟨hnow, hlink, hretry, hw⟩ => ?_, fun h => takeLink_of_not fun ⟨hnow, hlink, hretry, hw⟩ => h ⟨hnow, hlink, hretry, hwants.mp hw⟩⟩
  rw [hnow]
  exact takeLink_of_rises hlink hretry (hwants.mpr hw)

theorem takeOccupancy_spec (b : BayNo) (now : Bool) (s : State) :
    let r := s.bay b
    let moved : Bay → State := fun q => notifyBay .bay b (s.put b q)
    let occupied := takeOccupancy b now s
    let q : Bay := { r with occupied := now, candidate := none }
    (now = r.occupied → occupied = s.put b { r with candidate := none })
    ∧ (now ≠ r.occupied → r.candidate ≠ some now → occupied = s.put b { r with candidate := some now })
    ∧ (now ≠ r.occupied → r.candidate = some now →
        (now = true → r.state ≠ .empty → occupied = s.put b q)
        ∧ (now = true → r.state = .empty → r.plug = false → occupied = moved { q with state := .arrived })
        ∧ (now = true → r.state = .empty → r.plug = true → occupied = askIdent b (moved { q with state := .arrived }))
        ∧ (now = false → r.state ∈ [.closed, .empty] → occupied = s.put b q)
        ∧ (now = false → r.state = .arrived → occupied = vacate b (dropIdent b (s.put b { q with retry := none })))
        ∧ (now = false → r.state = .bound → occupied = vacate b (takeAll (tearDown b (leaveBook b (s.put b q)))))
        ∧ (now = false → r.state = .cleared → occupied = vacate b (takeAll (tearDown b (departGone b true (s.put b q)))))
        ∧ (now = false → r.state = .leaving → occupied = vacate b (takeAll (tearDown b (departGone b false (s.put b q)))))) := by
  intro r moved occupied q
  refine ⟨takeOccupancy_same, takeOccupancy_new, fun hne hcand => ?_⟩
  have haccepted : occupied = acceptOccupancy b now s := takeOccupancy_accepted hne hcand
  have hin : now = true → occupied = acceptOccupancy b true s ∧ { r with occupied := true, candidate := none } = q := fun h => by
    rw [haccepted, h]
    exact ⟨rfl, by rw [← h]⟩
  have hout : now = false → occupied = takeExit b (s.put b q) := fun h => by
    have hq : { r with occupied := false, candidate := none } = q := by rw [← h]
    rw [haccepted, h, acceptOccupancy_clear, hq]
  obtain ⟨hother, harrived, hbound, hcleared, hleaving⟩ := takeExit_put (b := b) (s := s) q
  refine ⟨fun h hs => ?_, fun h hs hp => ?_, fun h hs hp => ?_, fun h hs => (hout h).trans (hother hs),
    fun h hs => (hout h).trans (harrived hs), fun h hs => (hout h).trans (hbound hs), fun h hs => (hout h).trans (hcleared hs),
    fun h hs => (hout h).trans (hleaving hs)⟩
  · exact (hin h).1.trans ((acceptOccupancy_occupied (hin h).2).1 hs)
  · exact (hin h).1.trans ((acceptOccupancy_occupied (hin h).2).2.1 hs hp)
  · exact (hin h).1.trans ((acceptOccupancy_occupied (hin h).2).2.2 hs hp)

/-- R113, R119: the abort of a test after its bay has left the on-set. -/
theorem testAborted_left {b : BayNo} {s : State} {e : EngineNo} {y : RunningTest} {reason : LampReason} (hb : y.bay = b) :
    (leaveOnSet b s).testAborted e y reason = pendingCompletion b (notifyBay .lamp b
      (mergeInto b (fun st => st.mergePartial b y.results) { leaveOnSet b s with
        bus := (leaveOnSet b s).withdrawn (Job.isStepOf e)
        lamp := { s.lamp with
          engines := s.lamp.engines.set e (.releasing b)
          results := s.lamp.results.set b (some ⟨.incomplete reason, 0, some y.results⟩) } })) := by
  subst hb
  unfold State.testAborted
  rw [leaveOnSet_lamp]

/-- Settles O42: the countdown, the record as a whole, the loss of the plug, the fields one by one, and the heater current checks. -/
theorem senseTaken : Obligations.SenseTaken := by
  unfold Obligations.SenseTaken
  refine ⟨fun b s hheld => ?countdown, fun b x st a order s hheld hflies ha => ?record, fun b s hpost => ?loss,
    fun b now s => ?fields, fun b present s => currentChecked b present s⟩
  case countdown =>
    intro reloaded goes held
    have hgoes : ∀ t, senseExpiry b s = t → goes t := fun t ht => by
      simp only [goes]
      rw [exec_senseCountdownExpiry hheld, ht]
    obtain ⟨hstopped, hholds, hasks⟩ := senseExpired b s
    exact ⟨fun h => hgoes _ (hstopped h), fun h hh => hgoes _ (hholds h hh), fun h hh => hgoes _ (hasks h hh)⟩
  case loss =>
    intro cut readEnds off
    have hread : ∀ v, readEnds v = readFailed b .plugRemoved v := fun v => by
      simp only [readEnds, readFailed]
      cases v.reader.reading[b] with
      | none => rfl
      | some y => rfl
    refine ⟨fun h => ?_, fun e y hy hb hmin => ?_⟩
    · rw [losePlug_of_not_running h, hread]
    · rw [losePlug_of_running hpost hy hb hmin, hread, testAborted_left hb]
      rfl
  case fields =>
    intro r put moved asks drops unplugged t linked occupied rises q left
    exact ⟨takePlug_spec b now s, (takeLink_spec b now s).1, (takeLink_spec b now s).2, takeOccupancy_spec b now s⟩
  case record =>
    intro r c accepted exits drawn returned cabin quiet freed
    have hexec : exec c s = .next (arbitrate (takeSense b x freed)) := by
      obtain ⟨retry, timer, hwire⟩ := hflies
      exact exec_postResponse_of_answersTo hheld hwire rfl ha
    refine ⟨fun h => ?_, fun h => ?_, fun hbound hdrawn hocc hon hstuck hmark => ?_, fun hopen => ⟨_, hexec, ?_⟩⟩
    · rw [hexec, takeSense_of_closed (s := freed) h]
    · rw [hexec, takeSense_of_open (s := freed) h]
      rfl
    · intro u
      rw [hexec, takeSense_drawn (s := freed) hbound hdrawn.1 hdrawn.2 hocc hon hstuck hmark]
      rfl
    have hkept : ¬ exits → _ := fun h => takeSense_kept_bay (b := b) (x := x) (s := freed) hopen h
    have hgone : exits → _ := fun h => takeSense_exit_bay (b := b) (x := x) (s := freed) hopen h.1 h.2
    have hoccupied : ¬ exits → ∀ o m, (if r.candidate = some x.occupied then x.occupied else r.occupied) = o →
        (if x.occupied = r.occupied ∨ r.candidate = some x.occupied then none else some x.occupied) = m →
        ((takeSense b x freed).bay b).occupied = o ∧ ((takeSense b x freed).bay b).candidate = m := fun h o m ho hm => by
      obtain ⟨w, ht, -, -, -, -, hocc, hcand⟩ := hkept h
      rw [ht]
      exact ⟨hocc.trans ho, hcand.trans hm⟩
    refine ⟨?senses, fun h => ?cabin, fun h => ?same, fun h hno => ?new, fun h => ?accepted,
      fun h hin hempty => takeSense_arrives (s := freed) hopen h hin hempty, fun h => ?empty, fun h hbound => ?torn,
      fun hno hquiet => ?quiet, fun h hquiet hqueue => ?book⟩
    case senses =>
      by_cases h : exits
      · obtain ⟨w, ht, -, hplug, hlink, hcurrent, -⟩ := hgone h
        exact ht ▸ ⟨hplug, hlink, hcurrent⟩
      · obtain ⟨w, ht, hplug, hlink, hcurrent, -⟩ := hkept h
        exact ht ▸ ⟨hplug, hlink, hcurrent⟩
    case cabin =>
      obtain ⟨w, ht, -, -, -, hcabin, -⟩ := hkept h
      exact ht ▸ hcabin
    case same => exact hoccupied (fun he => he.1.1 h) _ _ (by rw [h, ite_self]) (if_pos (.inl h))
    case new =>
      have hcand : ¬ r.candidate = some x.occupied := fun hc => hno ⟨h, hc⟩
      exact hoccupied (fun he => hno he.1) _ _ (if_neg hcand) (if_neg (not_or.mpr ⟨h, hcand⟩))
    case accepted =>
      by_cases hexits : exits
      · obtain ⟨w, ht, -, -, -, -, hocc, hcand, -⟩ := hgone hexits
        exact ht ▸ ⟨hocc.trans hexits.2.symm, hcand⟩
      · exact hoccupied hexits _ _ (if_pos h.2) (if_pos (.inr h.2))
    case empty =>
      obtain ⟨w, ht, hstate, -⟩ := hgone h
      exact ht ▸ hstate
    case torn =>
      obtain ⟨w, ht, -, -, -, -, -, -, htorn⟩ := hgone h
      exact ht ▸ htorn ((isBound_eq_true_iff _).mpr hbound)
    case quiet =>
      obtain ⟨⟨k, m, o, hbay⟩, hlost⟩ := takeSense_quiet (b := b) (x := x) (s := freed) hopen hno hquiet
      have hin : returned → (r.sensed x).plugTaken x.plug = (r.sensed x).plugged := fun h => by
        have hne : ¬ x.plug = (r.sensed x).plug := fun he => absurd (h.2.symm.trans (he.trans h.1)) (by decide)
        rw [Bay.plugTaken, if_neg hne, if_pos h.2]
      have hout : drawn → (r.sensed x).plugTaken x.plug = (r.sensed x).unplugged := fun h => by
        have hne : ¬ x.plug = (r.sensed x).plug := fun he => absurd (h.2.symm.trans (he.trans h.1)) (by decide)
        rw [Bay.plugTaken, if_neg hne, if_neg (ne_of_eq_of_ne h.2 (by decide))]
      have hsame : x.plug = r.plug → (r.sensed x).plugTaken x.plug = r.sensed x := fun h => if_pos h
      have ht : ∀ q, (r.sensed x).plugTaken x.plug = q → (takeSense b x freed).bay b = { q with
          link := x.link, retry := k, conflict := m, candidate := o } := fun q hq => hq ▸ hbay
      refine ⟨fun h => ?_, fun h hs => ?_, fun h hs => ?_, fun h hs => ?_, fun h hs => ?_,
        fun h hs => (hlost h.1 h.2 hs).1, fun h hs => (hlost h.1 h.2 hs).2⟩
      · exact (congrArg Bay.state (ht _ (hsame h))).trans rfl
      · have hq := ht _ ((hout h).trans (unplugged_of_cleared hs))
        exact ⟨(congrArg Bay.state hq).trans rfl, (congrArg Bay.cabinAtUnplug hq).trans rfl⟩
      · have hq := ht _ ((hin h).trans (plugged_of_leaving hs))
        exact ⟨(congrArg Bay.state hq).trans rfl, (congrArg Bay.cabinAtUnplug hq).trans rfl⟩
      · have hq := ht _ ((hout h).trans (unplugged_of_bound hs))
        exact ⟨(congrArg Bay.state hq).trans hs, (congrArg Bay.cabinAtUnplug hq).trans rfl⟩
      · have hq := ht _ ((hin h).trans (plugged_of_bound hs))
        exact ⟨(congrArg Bay.state hq).trans hs, (congrArg Bay.cabinAtUnplug hq).trans rfl, (congrArg Bay.unconfirmed hq).trans rfl⟩
    case book =>
      obtain ⟨hnone, hsome⟩ := takeSense_exit_book (b := b) (x := x) (s := freed) hopen h.1 h.2 hquiet hqueue
      have hport : ∀ l, (arbitrate (takeSense b x freed)).port l = (takeSense b x freed).port l := arbitrate_port _
      refine ⟨hnone, fun d hd honly => ?_⟩
      intro anomaly unplugged deferred entry
      obtain ⟨hreturned, hleft⟩ := hsome d hd honly
      refine ⟨fun hs => ?_, fun hs _ => ?_⟩
      · obtain ⟨hbook, hstays, hcleared, hnotices⟩ := hreturned hs
        exact ⟨hbook, hstays, fun hc => ⟨(hcleared hc).1, fun l => hport l ▸ (hcleared hc).2 l⟩, fun l => hport l ▸ hnotices l⟩
      · obtain ⟨hbook, hnotices⟩ := hleft hs
        exact ⟨hbook, fun l => hport l ▸ hnotices l⟩

end Sys2Proof.Machine

/-! PROOF. DEPOT RESTART: the book, the bays one after the other, the takes that the teardowns make room for, and the owners' resets. -/

namespace Sys2Proof.Machine

/-! ## The log's last entries (R50) -/

/-- R50: the last 16 entries. -/
def last16 (es : List LogEntry) : List LogEntry := es.drop (es.length - 16)

theorem last16_of_le {es : List LogEntry} (h : es.length ≤ 16) : last16 es = es := by
  rw [last16, Nat.sub_eq_zero_of_le h, List.drop_zero]

theorem length_last16 (es : List LogEntry) : (last16 es).length ≤ 16 := by
  rw [last16, List.length_drop]
  omega

/-- R50: an older entry dropped early is dropped late. -/
theorem last16_append (es xs : List LogEntry) : last16 (last16 es ++ xs) = last16 (es ++ xs) := by
  unfold last16
  rw [← List.drop_append_of_le_length (by omega), List.drop_drop]
  congr 1
  simp only [List.length_drop, List.length_append]
  omega

theorem addLog_last16 (k : Book) (e : LogEntry) : (k.addLog e).log = last16 (k.log ++ [e]) := by
  rw [addLog_log, last16, List.length_append]
  rfl

/-! ## The cancellations (R54) -/

/-- R50: the sequence number after one. -/
def nextSequence (n : Nat) : Nat := (n + 1) % 65536

/-- R54: the entries of the cancellations from a sequence number on. -/
def State.cancellations (s : State) (n : Nat) (ds : List Departure) : List LogEntry :=
  ds.mapIdx fun i d => { logEntryOf s d .cancelled false with sequence := nextSequence^[i] n }

theorem cancellations_cons (s : State) (n : Nat) (d : Departure) (ds : List Departure) : s.cancellations n (d :: ds) =
    { logEntryOf s d .cancelled false with sequence := n } :: s.cancellations (nextSequence n) ds := by
  unfold State.cancellations
  rw [List.mapIdx_cons]
  rfl

theorem foldl_removeRecord (ds : List Departure) (s : State) (k : Book) (hk : k.log.length ≤ 16) :
    ds.foldl (fun s d => removeRecord d .cancelled false s) { s with book := k } = { s with book := { k with
      records := k.records.filter fun x => ds.all (x.ref != ·.ref)
      log := last16 (k.log ++ s.cancellations k.nextSequence ds)
      nextSequence := nextSequence^[ds.length] k.nextSequence } } := by
  induction ds generalizing k with
  | nil =>
    have hlog : last16 (k.log ++ s.cancellations k.nextSequence []) = k.log := by
      rw [State.cancellations, List.mapIdx_nil, List.append_nil, last16_of_le hk]
    have hrecords : (k.records.filter fun x => ([] : List Departure).all (x.ref != ·.ref)) = k.records := List.filter_true _
    rw [hlog, hrecords]
    rfl
  | cons d ds ih =>
    have hlog := addLog_last16 k (logEntryOf { s with book := k } d .cancelled false)
    have hremove : removeRecord d .cancelled false { s with book := k } = { s with book :=
        { k.addLog (logEntryOf { s with book := k } d .cancelled false) with records := k.records.filter (·.ref != d.ref) } } := rfl
    rw [List.foldl_cons, hremove, ih _ (by rw [hlog]; exact length_last16 _)]
    dsimp only
    rw [hlog, last16_append, List.append_assoc, cancellations_cons, List.filter_filter]
    have hrecords : (k.records.filter fun x => (ds.all (x.ref != ·.ref)) && (x.ref != d.ref))
        = k.records.filter fun x => (d :: ds).all (x.ref != ·.ref) := by
      simp only [List.all_cons, Bool.and_comm]
    rw [hrecords]
    rfl

/-- R54: the book of a restart. -/
def State.cancelledBook (s : State) : Book :=
  ⟨[], 1, last16 (s.book.log ++ s.cancellations s.book.nextSequence s.book.records), nextSequence^[s.book.records.length] s.book.nextSequence⟩

theorem restartBook_eq {s : State} (h : s.book.log.length ≤ 16) : restartBook s =
    notify .departure (BaySet.ofList (s.book.records.filterMap (·.bay))) { s with book := s.cancelledBook } := by
  have hrecords : (s.book.records.filter fun x => s.book.records.all (x.ref != ·.ref)) = [] := by
    rw [List.filter_eq_nil_iff]
    intro x hx hall
    simpa using List.all_eq_true.mp hall x hx
  have hfold := foldl_removeRecord s.book.records s s.book h
  rw [hrecords] at hfold
  unfold restartBook
  dsimp only
  rw [hfold]
  rfl

/-- R54, R163, R169: the state in which the bays are torn down. -/
def State.emptied (s : State) : State :=
  notify .clearance (BaySet.ofList (s.clearance.pending.map (·.bay)))
    (notify .departure (BaySet.ofList (s.book.records.filterMap (·.bay)))
      { s with book := s.cancelledBook, clearance := { s.clearance with pending := [] } })

theorem restartPending_eq {s : State} (h : s.book.log.length ≤ 16) : restartPending (restartBook s) = s.emptied := by
  rw [restartBook_eq h]
  rfl

theorem exec_depotRestart_of_ready {s : State} (hr : s.ready .dispatch) :
    exec (.depotRestart .dispatch) s = .next (answer .dispatch ⟨.ok, .empty⟩ (restart s)) :=
  event_takeCommand_of_ready _ hr (by decide) (by simp)

/-! ## One bay of a restart (R20, R21) -/

/-- R20: what a teardown of a bay with no departure leaves, but for the engines, the requests and the notices. -/
def State.tornWith (s : State) (b : BayNo) (q : Sequencer) (engines : Vector Engine 2) (u : Bus) (n m : Notices) : State :=
  { s with
    bays := s.bays.set b { (s.bay b).uncoached with dropped := s.store.lists[b].length }
    seq := q
    store := { s.store with
      free := s.store.free ++ s.store.lists[b].map (·.slot)
      lists := s.store.lists.set b []
      marks := s.store.marks.set b ⟨false, false, false⟩ }
    lamp := { s.lamp with queue := s.lamp.queue.filter (·.bay != b), engines := engines, results := s.lamp.results.set b none }
    reader := { s.reader with
      reading := s.reader.reading.set b none
      scan := s.reader.scan.set b none
      readSince := s.reader.readSince.set b false
      last := s.reader.last.set b none }
    clearance := { s.clearance with
      signals := s.clearance.signals.set b .red
      alerts := if s.clearance.signals[b] = .red then s.clearance.alerts else s.clearance.alerts.set b none }
    bus := u
    dispatch := { s.dispatch with notices := n }
    workshop := { s.workshop with notices := m } }

/-- R100: what the on-set's leaving and a commanded OFF write. -/
def Sequencer.commandsOf (q r : Sequencer) : Prop := { q with onSet := r.onSet, chain := r.chain, commanded := r.commanded } = r

section TearDown

variable {b : BayNo} {s : State}

theorem tearDownHeating_commandsOf (b : BayNo) (s : State) : (tearDownHeating b s).seq.commandsOf s.seq := by
  rw [tearDownHeating_eq]
  rfl

theorem tearDownLamp_form (h : s.book.boundTo b = none) : ∃ engines rs wire n m, tearDownLamp b s = { s with
    lamp := { s.lamp with queue := s.lamp.queue.filter (·.bay != b), engines := engines, results := s.lamp.results.set b none }
    bus := { s.bus with waiting := rs, wire := wire }
    dispatch := { s.dispatch with notices := n }
    workshop := { s.workshop with notices := m } } := by
  have hend : ∀ (l : LampUnit) (u : Bus), endTest b { s with lamp := l, bus := u } = notifyBay .lamp b { s with lamp := l, bus := u } :=
    fun l u => endTest_of_unbound h
  unfold tearDownLamp State.updLamp
  cases he : s.engineTesting b with
  | none =>
    dsimp only
    split
    · rw [hend _ s.bus]
      exact ⟨s.lamp.engines, s.bus.waiting, s.bus.wire, _, _, rfl⟩
    · exact ⟨s.lamp.engines, s.bus.waiting, s.bus.wire, s.dispatch.notices, s.workshop.notices, rfl⟩
  | some e =>
    dsimp only
    rw [startRelease_stopSteps, hend]
    cases s.bus.posts[b].silent with
    | false => exact ⟨_, _, _, _, _, rfl⟩
    | true => exact ⟨_, _, _, _, _, rfl⟩

/-- R135, R166, R20: the parts of the reader, the clearance unit and the bay table, but for the requests. -/
theorem tearDown_last_form (b : BayNo) (s : State) : ∃ rs wire, clearCoach b (setSignal b .red (tearDownReader b s)) = { s with
    bays := modifyAt s.bays b Bay.uncoached
    reader := { s.reader with
      reading := s.reader.reading.set b none
      scan := s.reader.scan.set b none
      readSince := s.reader.readSince.set b false
      last := s.reader.last.set b none }
    clearance := { s.clearance with
      signals := s.clearance.signals.set b .red
      alerts := if s.clearance.signals[b] = .red then s.clearance.alerts else s.clearance.alerts.set b none }
    bus := { s.bus with waiting := rs, wire := wire } } := by
  rw [tearDown_last]
  have hbus : ∀ (p : Prop) [Decidable p] (u v : Bus), (∃ rs wire, u = { s.bus with waiting := rs, wire := wire }) →
      (∃ rs wire, v = { s.bus with waiting := rs, wire := wire }) →
      ∃ rs wire, ({ s with bus := if p then u else v } : State).withdrawn (Job.isIdentFor b) = { s.bus with waiting := rs, wire := wire } :=
    fun p _ u v ⟨rs, wire, hu⟩ ⟨rs', wire', hv⟩ => by
      split
      · exact ⟨_, _, by rw [hu]; rfl⟩
      · exact ⟨_, _, by rw [hv]; rfl⟩
  obtain ⟨rs, wire, h⟩ := hbus (s.clearance.signals[b] = .red ∨ s.bus.posts[b].silent = true) (s.withdrawn (Job.isPageFor b))
    (({ s with bus := s.withdrawn (Job.isPageFor b) } : State).signalled b .red) ⟨_, _, rfl⟩ ⟨_, _, rfl⟩
  exact ⟨rs, wire, congrArg (fun u : Bus => { s with
    bays := modifyAt s.bays b Bay.uncoached
    reader := { s.reader with
      reading := s.reader.reading.set b none
      scan := s.reader.scan.set b none
      readSince := s.reader.readSince.set b false
      last := s.reader.last.set b none }
    clearance := { s.clearance with
      signals := s.clearance.signals.set b Aspect.red
      alerts := if s.clearance.signals[b] = Aspect.red then s.clearance.alerts else s.clearance.alerts.set b none }
    bus := u }) h⟩

theorem tearDown_form (h : s.book.boundTo b = none) : ∃ q engines rs wire n m,
    tearDown b s = s.tornWith b q engines { s.bus with waiting := rs, wire := wire } n m ∧ q.commandsOf s.seq := by
  obtain ⟨ws, hoff⟩ := exists_heatOffBus s b
  have hstart := tearDownHeating_eq b s
  have hseq := congrArg State.seq hstart
  dsimp only at hseq
  rw [← hseq, hoff] at hstart
  have hcommands := tearDownHeating_commandsOf b s
  generalize (tearDownHeating b s).seq = q at hstart hcommands
  have hstore := tearDownStore_eq b { s with seq := q, bus := { s.bus with waiting := ws } }
  dsimp only at hstore
  show ∃ q engines rs wire n m, clearCoach b (setSignal b .red (tearDownReader b (tearDownLamp b (tearDownStore b (tearDownHeating b s))))) = _ ∧ _
  rw [hstart, hstore]
  obtain ⟨engines, rs, wire, n, m, hlamp⟩ := tearDownLamp_form (b := b) (s := notifyBay .defect b { s with
    bays := modifyAt s.bays b fun r => { r with dropped := s.store.lists[b].length }
    seq := q
    store := { s.store with
      free := s.store.free ++ s.store.lists[b].map (·.slot)
      lists := s.store.lists.set b []
      marks := s.store.marks.set b ⟨false, false, false⟩ }
    bus := { s.bus with waiting := ws } }) h
  rw [hlamp]
  obtain ⟨rs', wire', hlast⟩ := tearDown_last_form b { notifyBay .defect b { s with
      bays := modifyAt s.bays b fun r => { r with dropped := s.store.lists[b].length }
      seq := q
      store := { s.store with
        free := s.store.free ++ s.store.lists[b].map (·.slot)
        lists := s.store.lists.set b []
        marks := s.store.marks.set b ⟨false, false, false⟩ } } with
    lamp := { s.lamp with queue := s.lamp.queue.filter (·.bay != b), engines := engines, results := s.lamp.results.set b none }
    bus := { s.bus with waiting := rs, wire := wire }
    dispatch := { s.dispatch with notices := n }
    workshop := { s.workshop with notices := m } }
  have hbays : modifyAt (modifyAt s.bays b fun r => { r with dropped := s.store.lists[b].length }) b Bay.uncoached
      = s.bays.set b { (s.bay b).uncoached with dropped := s.store.lists[b].length } := by
    simp [modifyAt, Bay.uncoached]
    rfl
  refine ⟨q, engines, rs', wire', n, m, Eq.trans hlast ?_, hcommands⟩
  unfold State.tornWith
  rw [← hbays]
  rfl

theorem tearDown_outstanding (b : BayNo) (s : State) : (tearDown b s).outstanding (Job.isIdentFor b) = false := by
  show (clearCoach b (setSignal b .red (tearDownReader b (tearDownLamp b (tearDownStore b (tearDownHeating b s)))))).outstanding _ = false
  rw [tearDown_last]
  exact outstanding_withdrawn _ _

end TearDown

/-- R20, R21: a bay's record after its restart; n entries have left its list. -/
def Bay.restarted (r : Bay) (n : Nat) (silent : Bool) : Bay :=
  { r.uncoached with
    state := .arrived
    conflict := false
    dropped := n
    retry := if r.plug = true ∧ silent = true then some 30000 else none }

/-- R21: the requests after the ident of a restarted bay is asked for. -/
def State.identBus (v : State) (b : BayNo) (plug : Bool) : Bus := if plug = true ∧ v.silent b = false then (placeJob (.ident b) v).bus else v.bus

section Bays

variable {b : BayNo} {s : State}

theorem restartBay_of_unbound (h : s.boundAt b = false) : restartBay s b = s := if_neg (Bool.eq_false_iff.mp h)

theorem askIdent_of_none {v : State} (h : v.outstanding (Job.isIdentFor b) = false) (q : Bay) :
    askIdent b (v.put b q) = if v.silent b = true then v.put b { q with retry := some 30000 } else placeJob (.ident b) (v.put b q) := by
  have hout : ¬ (v.put b q).outstanding (Job.isIdentFor b) = true := Bool.eq_false_iff.mp h
  have hput : ({ v.put b q with bays := (v.put b q).bays.set b { (v.put b q).bay b with retry := some 30000 } } : State)
      = v.put b { q with retry := some 30000 } := updBay_put v b q fun r => { r with retry := some 30000 }
  rw [askIdent, if_neg hout, hput]
  rfl

/-- R21: a bay restarted after its teardown. -/
theorem restartBay_of_torn {v : State} {n : Nat} (hb : s.boundAt b = true) (hv : tearDown b s = v)
    (hbay : v.bay b = { (s.bay b).uncoached with dropped := n }) : restartBay s b = notifyBay .bay b { v with
      bays := v.bays.set b ((s.bay b).restarted n (v.silent b))
      bus := v.identBus b (s.bay b).plug } := by
  have hne : (v.bay b).state ≠ .arrived := by
    rw [hbay]
    intro harrived
    have hbound : (s.bay b).state.isBound = true := hb
    rw [show (s.bay b).state = .arrived from harrived] at hbound
    exact Bool.false_ne_true hbound
  have hdropped : v.outstanding (Job.isIdentFor b) = false := hv ▸ tearDown_outstanding b s
  have hout : (notifyBay .bay b v).outstanding (Job.isIdentFor b) = false := hdropped
  have hrestart : restartBay s b = requestIdent b ((notifyBay .bay b v).put b { (s.bay b).uncoached with
      state := .arrived, conflict := false, dropped := n }) := by
    rw [restartBay, if_pos hb, hv, setBayState_setConflict hne, hbay, put_notifyBay]
  rw [hrestart]
  have hsilent : (notifyBay .bay b v).silent b = v.silent b := rfl
  unfold Bay.restarted State.identBus
  cases hplug : (s.bay b).plug with
  | false =>
    rw [requestIdent_of_unwanted (by rw [bay_put]; exact congrArg (· && _) hplug)]
    rfl
  | true =>
    rw [requestIdent_of_wants (by rw [bay_put]; exact (wantsIdent_iff _).mpr ⟨hplug, .inl rfl⟩), askIdent_of_none hout, hsilent]
    cases v.silent b with
    | true => rfl
    | false => rfl

/-- R20, R21: what the restart of a bay leaves, but for the engines, the requests and the notices. -/
def State.restartedWith (s : State) (b : BayNo) (q : Sequencer) (engines : Vector Engine 2) (u : Bus) (n m : Notices) : State :=
  { s.tornWith b q engines u n m with bays := s.bays.set b ((s.bay b).restarted s.store.lists[b].length (s.silent b)) }

theorem exists_identBus (v : State) (b : BayNo) (plug : Bool) : ∃ rs, v.identBus b plug = { v.bus with waiting := rs } := by
  unfold State.identBus
  split
  · exact ⟨_, rfl⟩
  · exact ⟨_, rfl⟩

theorem restartBay_form (hb : s.boundAt b = true) (h : s.book.boundTo b = none) : ∃ q engines rs wire n m,
    restartBay s b = s.restartedWith b q engines { s.bus with waiting := rs, wire := wire } n m ∧ q.commandsOf s.seq := by
  obtain ⟨q, engines, rs, wire, n, m, htorn, hq⟩ := tearDown_form h
  have hbay : (s.tornWith b q engines { s.bus with waiting := rs, wire := wire } n m).bay b
      = { (s.bay b).uncoached with dropped := s.store.lists[b].length } := Vector.getElem_set_self b.isLt
  have hrestart := restartBay_of_torn hb htorn hbay
  obtain ⟨rs', hident⟩ := exists_identBus (s.tornWith b q engines { s.bus with waiting := rs, wire := wire } n m) b (s.bay b).plug
  refine ⟨q, engines, rs', wire, n.add .bay (BaySet.single b), m.add .bay (BaySet.single b), ?_, hq⟩
  rw [hrestart, hident]
  have hbays : (s.tornWith b q engines { s.bus with waiting := rs, wire := wire } n m).bays.set b
      ((s.bay b).restarted s.store.lists[b].length (s.silent b))
      = s.bays.set b ((s.bay b).restarted s.store.lists[b].length (s.silent b)) := Vector.set_set ..
  unfold State.restartedWith
  rw [← hbays]
  rfl

end Bays

/-! ## The bays one after the other -/

theorem getElem_set_bay {α : Type} (v : Vector α 24) (b c : BayNo) (x : α) : (v.set b x)[c] = if b = c then x else v[c] := by
  by_cases h : b = c
  · subst h
    rw [if_pos rfl]
    exact Vector.getElem_set_self b.isLt
  · rw [if_neg h]
    exact Vector.getElem_set_ne b.isLt c.isLt (Fin.val_ne_of_ne h)

/-- What a bay has after its restart in a later state t, against the state s before it. -/
structure State.RestartedAt (s t : State) (b : BayNo) : Prop where
  bay : t.bay b = (s.bay b).restarted s.store.lists[b].length (s.silent b)
  signal : t.clearance.signals[b] = .red
  alert : s.clearance.signals[b] ≠ .red → t.clearance.alerts[b] = none
  reading : t.reader.reading[b] = none
  last : t.reader.last[b] = none
  readSince : t.reader.readSince[b] = false
  scan : t.reader.scan[b] = none
  result : t.lamp.results[b] = none
  queue : ∀ x ∈ t.lamp.queue, x.bay ≠ b

/-- What the restart of other bays leaves to a bay. -/
structure State.KeptAt (s t : State) (b : BayNo) : Prop where
  bay : t.bay b = s.bay b
  list : t.store.lists[b] = s.store.lists[b]
  signal : t.clearance.signals[b] = s.clearance.signals[b]
  alert : t.clearance.alerts[b] = s.clearance.alerts[b]
  reading : t.reader.reading[b] = s.reader.reading[b]
  last : t.reader.last[b] = s.reader.last[b]
  readSince : t.reader.readSince[b] = s.reader.readSince[b]
  scan : t.reader.scan[b] = s.reader.scan[b]
  result : t.lamp.results[b] = s.lamp.results[b]
  queue : ∀ x ∈ t.lamp.queue, x ∈ s.lamp.queue

namespace State.KeptAt

variable {s t u : State} {b : BayNo}

theorem refl (s : State) (b : BayNo) : s.KeptAt s b := ⟨rfl, rfl, rfl, rfl, rfl, rfl, rfl, rfl, rfl, fun _ h => h⟩

theorem trans (h : s.KeptAt t b) (h' : t.KeptAt u b) : s.KeptAt u b :=
  ⟨h'.bay.trans h.bay, h'.list.trans h.list, h'.signal.trans h.signal, h'.alert.trans h.alert, h'.reading.trans h.reading,
    h'.last.trans h.last, h'.readSince.trans h.readSince, h'.scan.trans h.scan, h'.result.trans h.result, fun x hx => h.queue x (h'.queue x hx)⟩

end State.KeptAt

/-- A bay restarted keeps while others are. -/
theorem restartedAt_kept {s t u : State} {b : BayNo} (h : s.RestartedAt t b) (h' : t.KeptAt u b) : s.RestartedAt u b :=
  ⟨h'.bay.trans h.bay, h'.signal.trans h.signal, fun hs => h'.alert.trans (h.alert hs), h'.reading.trans h.reading, h'.last.trans h.last,
    h'.readSince.trans h.readSince, h'.scan.trans h.scan, h'.result.trans h.result, fun x hx => h.queue x (h'.queue x hx)⟩

/-- A bay kept up to its restart. -/
theorem kept_restartedAt {s t u : State} {b : BayNo} (h : s.KeptAt t b) (hsilent : t.silent b = s.silent b) (h' : t.RestartedAt u b) :
    s.RestartedAt u b :=
  ⟨by rw [h'.bay, h.bay, h.list, hsilent], h'.signal, fun hs => h'.alert (by rw [h.signal]; exact hs), h'.reading, h'.last, h'.readSince, h'.scan,
    h'.result, h'.queue⟩

section RestartedWith

variable {b : BayNo} {s : State} {q : Sequencer} {engines : Vector Engine 2} {u : Bus} {n m : Notices}

theorem restartedWith_restartedAt : s.RestartedAt (s.restartedWith b q engines u n m) b := by
  have hself : ∀ {α : Type} (v : Vector α 24) (x : α), (v.set b x)[b] = x := fun v x => Vector.getElem_set_self b.isLt
  refine ⟨hself .., hself .., fun hs => ?_, hself .., hself .., hself .., hself .., hself .., fun x hx => ?_⟩
  · have halerts : (s.restartedWith b q engines u n m).clearance.alerts = s.clearance.alerts.set b none := if_neg hs
    rw [halerts]
    exact hself ..
  · have hne := (List.mem_filter.mp hx).2
    simpa using hne

theorem restartedWith_keptAt {c : BayNo} (hne : b ≠ c) : s.KeptAt (s.restartedWith b q engines u n m) c := by
  have hother : ∀ {α : Type} (v : Vector α 24) (x : α), (v.set b x)[c] = v[c] := fun v x =>
    Vector.getElem_set_ne b.isLt c.isLt (Fin.val_ne_of_ne hne)
  refine ⟨hother .., hother .., hother .., ?_, hother .., hother .., hother .., hother .., hother .., fun x hx => (List.mem_filter.mp hx).1⟩
  have halerts : (s.restartedWith b q engines u n m).clearance.alerts
      = if s.clearance.signals[b] = .red then s.clearance.alerts else s.clearance.alerts.set b none := rfl
  rw [halerts]
  split
  · rfl
  · exact hother ..

end RestartedWith

/-- What the restart of the bays keeps of the rest of the part. -/
structure State.RestartFrame (s t : State) : Prop where
  frame : { t with
    bays := s.bays
    seq := s.seq
    lamp := s.lamp
    reader := s.reader
    store := s.store
    clearance := s.clearance
    bus := s.bus
    dispatch := s.dispatch
    workshop := s.workshop } = s
  seq : t.seq.commandsOf s.seq
  bus : { t.bus with waiting := s.bus.waiting, wire := s.bus.wire } = s.bus
  clearance : { t.clearance with signals := s.clearance.signals, alerts := s.clearance.alerts } = s.clearance
  freshness : t.lamp.freshness = s.lamp.freshness
  reader : { t.reader with
    reading := s.reader.reading, last := s.reader.last, readSince := s.reader.readSince, scan := s.reader.scan } = s.reader
  ports : ∀ l, { t.port l with notices := (s.port l).notices } = s.port l

namespace State.RestartFrame

variable {s t u : State}

theorem refl (s : State) : s.RestartFrame s := ⟨rfl, rfl, rfl, rfl, rfl, rfl, fun _ => rfl⟩

theorem trans (h : s.RestartFrame t) (h' : t.RestartFrame u) : s.RestartFrame u := by
  refine ⟨?_, ?_, ?_, ?_, h'.freshness.trans h.freshness, ?_, fun l => ?_⟩
  · rw [← h.frame, ← h'.frame]
  · unfold Sequencer.commandsOf
    have hs := h.seq
    have ht := h'.seq
    unfold Sequencer.commandsOf at hs ht
    rw [← hs, ← ht]
  · rw [← h.bus, ← h'.bus]
  · rw [← h.clearance, ← h'.clearance]
  · rw [← h.reader, ← h'.reader]
  · rw [← h.ports l, ← h'.ports l]

theorem posts (h : s.RestartFrame t) : t.bus.posts = s.bus.posts := by
  have hbus := congrArg Bus.posts h.bus
  exact hbus

theorem event (h : s.RestartFrame t) : t.bus.event = s.bus.event := by
  have hbus := congrArg Bus.event h.bus
  exact hbus

theorem book (h : s.RestartFrame t) : t.book = s.book := by
  have hbook := congrArg State.book h.frame
  exact hbook

end State.RestartFrame

theorem restartedWith_frame {b : BayNo} {s : State} {q : Sequencer} {engines : Vector Engine 2} {rs : List Request} {wire : Wire} {n m : Notices}
    (hq : q.commandsOf s.seq) :
    s.RestartFrame (s.restartedWith b q engines { s.bus with waiting := rs, wire := wire } n m) :=
  ⟨rfl, hq, rfl, rfl, rfl, rfl, fun l => by cases l <;> rfl⟩

/-- One bay of a restart, with no departure in the book. -/
theorem restartBay_steps {b : BayNo} {s : State} (h : s.book.boundTo b = none) : s.RestartFrame (restartBay s b)
    ∧ (s.boundAt b = true → s.RestartedAt (restartBay s b) b) ∧ ∀ c, ¬ (b = c ∧ s.boundAt c = true) → s.KeptAt (restartBay s b) c := by
  cases hb : s.boundAt b with
  | false =>
    rw [restartBay_of_unbound hb]
    exact ⟨.refl s, fun h => absurd h (by decide), fun c _ => .refl s c⟩
  | true =>
    obtain ⟨q, engines, rs, wire, n, m, ht, hq⟩ := restartBay_form hb h
    rw [ht]
    exact ⟨restartedWith_frame hq, fun _ => restartedWith_restartedAt,
      fun c hc => restartedWith_keptAt fun hbc => hc ⟨hbc, hbc ▸ hb⟩⟩

/-- The bays in bs restarted, the others kept. -/
structure State.Restarting (s : State) (bs : List BayNo) (t : State) : Prop where
  frame : s.RestartFrame t
  restarted : ∀ b ∈ bs, s.boundAt b = true → s.RestartedAt t b
  kept : ∀ b, ¬ (b ∈ bs ∧ s.boundAt b = true) → s.KeptAt t b

theorem boundAt_of_keptAt {s t : State} {b : BayNo} (h : s.KeptAt t b) : t.boundAt b = s.boundAt b := by
  rw [State.boundAt, State.boundAt, h.bay]

theorem restarting_step {s t : State} {bs : List BayNo} {b : BayNo} (hbook : s.book.records = []) (h : s.Restarting bs t) (hb : b ∉ bs) :
    s.Restarting (b :: bs) (restartBay t b) := by
  have hkept := h.kept b fun hin => hb hin.1
  have hbound := boundAt_of_keptAt hkept
  have hnone : t.book.boundTo b = none := by
    rw [h.frame.book, boundTo_eq_none_iff, hbook]
    exact fun d hd => absurd hd List.not_mem_nil
  have hsilent : t.silent b = s.silent b := by rw [State.silent, State.silent, h.frame.posts]
  obtain ⟨hframe, hself, hothers⟩ := restartBay_steps hnone
  refine ⟨h.frame.trans hframe, fun c hc hs => ?_, fun c hc => ?_⟩
  · by_cases hcb : c = b
    · subst hcb
      exact kept_restartedAt hkept hsilent (hself (hbound.trans hs))
    · have hin := (List.mem_cons.mp hc).resolve_left hcb
      exact restartedAt_kept (h.restarted c hin hs) (hothers c fun heq => hcb heq.1.symm)
  · have hnot : ¬ (c ∈ bs ∧ s.boundAt c = true) := fun hin => hc ⟨List.mem_cons_of_mem b hin.1, hin.2⟩
    have hc' := h.kept c hnot
    refine hc'.trans (hothers c fun heq => hc ⟨?_, ?_⟩)
    · rw [heq.1]
      exact List.mem_cons_self
    · rw [← boundAt_of_keptAt hc']
      exact heq.2

theorem restarting_foldl {s : State} (hbook : s.book.records = []) (l : List BayNo) (hl : l.Nodup) (bs : List BayNo) (hdisjoint : ∀ b ∈ l, b ∉ bs)
    {t : State} (h : s.Restarting bs t) : s.Restarting (l.reverse ++ bs) (l.foldl restartBay t) := by
  induction l generalizing bs t with
  | nil => exact h
  | cons b l ih =>
    obtain ⟨hb, hl'⟩ := List.nodup_cons.mp hl
    rw [List.foldl_cons, List.reverse_cons, List.append_assoc]
    refine ih hl' (b :: bs) (fun c hc hin => ?_) (restarting_step hbook h (hdisjoint b List.mem_cons_self))
    rcases List.mem_cons.mp hin with hcb | hin
    · exact hb (hcb ▸ hc)
    · exact hdisjoint c (List.mem_cons_of_mem b hc) hin

theorem fittedBays_nodup (s : State) : s.fittedBays.Nodup := (List.nodup_finRange 24).filter _

theorem mem_fittedBays {s : State} {b : BayNo} : b ∈ s.fittedBays ↔ b.val < s.bayCount := by
  simp [State.fittedBays, allBays, State.fitted]

/-- R21: the bays of a restart. -/
def State.tornAtRestart (s : State) (b : BayNo) : Prop := b.val < s.bayCount ∧ s.boundAt b = true

theorem restartBays_steps {s : State} (hbook : s.book.records = []) : s.RestartFrame (s.fittedBays.foldl restartBay s)
    ∧ (∀ b, s.tornAtRestart b → s.RestartedAt (s.fittedBays.foldl restartBay s) b)
    ∧ ∀ b, ¬ s.tornAtRestart b → s.KeptAt (s.fittedBays.foldl restartBay s) b := by
  have h := restarting_foldl hbook s.fittedBays (fittedBays_nodup s) [] (fun _ _ => List.not_mem_nil)
    ⟨.refl s, fun b hb => absurd hb List.not_mem_nil, fun b _ => .refl s b⟩
  rw [List.append_nil] at h
  have hmem : ∀ b, b ∈ s.fittedBays.reverse ↔ b.val < s.bayCount := fun b => List.mem_reverse.trans mem_fittedBays
  refine ⟨h.frame, fun b hb => h.restarted b ((hmem b).mpr hb.1) hb.2, fun b hb => h.kept b fun hin => hb ⟨(hmem b).mp hin.1, hin.2⟩⟩

/-! ## The takes that the teardowns make room for (R106) -/

/-- What the takes of R106 leave with no departure in the book. -/
structure State.TakesFrame (s t : State) : Prop where
  frame : s.RestartFrame t
  bays : t.bays = s.bays
  signals : t.clearance = s.clearance
  reader : t.reader = s.reader
  queue : ∀ x ∈ t.lamp.queue, x ∈ s.lamp.queue
  results : ∀ b : BayNo, (∀ x ∈ s.lamp.queue, x.bay ≠ b) → t.lamp.results[b] = s.lamp.results[b]

theorem leaveOnSet_commandsOf (b : BayNo) (s : State) : (leaveOnSet b s).seq.commandsOf s.seq := by
  rw [leaveOnSet_seq]
  rfl

theorem takeTest_takes {b : BayNo} {s : State} (hbook : s.book.records = []) (e : EngineNo) : s.RestartFrame (takeTest e b s)
    ∧ (takeTest e b s).bays = s.bays ∧ (takeTest e b s).clearance = s.clearance ∧ (takeTest e b s).reader = s.reader
    ∧ (takeTest e b s).lamp.queue = s.lamp.queue ∧ ∀ c : BayNo, b ≠ c → (takeTest e b s).lamp.results[c] = s.lamp.results[c] := by
  by_cases hcan : ∃ reason, s.cannotTest b reason
  · obtain ⟨reason, hcannot⟩ := hcan
    have hnone : s.book.boundTo b = none := by
      rw [boundTo_eq_none_iff, hbook]
      exact fun d hd => absurd hd List.not_mem_nil
    have hend : ∀ u : LampUnit, endTest b { s with lamp := u } = notifyBay .lamp b { s with lamp := u } := fun u => endTest_of_unbound hnone
    rw [takeTest_of_cannot hcannot]
    have huntested : s.untested b reason = notifyBay .lamp b { s with lamp := { s.lamp with
        results := s.lamp.results.set b (some ⟨.incomplete reason, 0, none⟩) } } := hend _
    rw [huntested]
    exact ⟨⟨rfl, rfl, rfl, rfl, rfl, rfl, fun l => by cases l <;> rfl⟩, rfl, rfl, rfl, rfl,
      fun c hc => Vector.getElem_set_ne b.isLt c.isLt (Fin.val_ne_of_ne hc)⟩
  · obtain ⟨c, first, rs, -, -, -, -, ht⟩ := takeTest_of_can (fun reason hr => hcan ⟨reason, hr⟩) e
    rw [ht]
    have hcommands := leaveOnSet_commandsOf b { s with
      lamp := { s.lamp with engines := s.lamp.engines.set e (.running ⟨b, c.lamps, c.settle, first, rs, none⟩) } }
    rw [leaveOnSet_waiting]
    exact ⟨⟨rfl, hcommands, rfl, rfl, rfl, rfl, fun l => by cases l <;> rfl⟩, rfl, rfl, rfl, rfl, fun _ _ => rfl⟩

namespace State.TakesFrame

variable {s t u : State}

theorem refl (s : State) : s.TakesFrame s := ⟨.refl s, rfl, rfl, rfl, fun _ h => h, fun _ _ => rfl⟩

theorem trans (h : s.TakesFrame t) (h' : t.TakesFrame u) : s.TakesFrame u :=
  ⟨h.frame.trans h'.frame, h'.bays.trans h.bays, h'.signals.trans h.signals, h'.reader.trans h.reader, fun x hx => h.queue x (h'.queue x hx),
    fun b hb => (h'.results b fun x hx => hb x (h.queue x hx)).trans (h.results b hb)⟩

end State.TakesFrame

theorem takeTests_takes (k : Nat) {s : State} (hbook : s.book.records = []) : s.TakesFrame (takeTests k s) := by
  induction k generalizing s with
  | zero => exact .refl s
  | succ k ih =>
    unfold takeTests
    split
    · next e x _ hx =>
      have hin : x ∈ s.lamp.queue := List.mem_of_find?_eq_some hx
      obtain ⟨hframe, hbays, hclearance, hreader, hqueue, hresults⟩ := takeTest_takes (b := x.bay)
        (s := s.updLamp fun u => { u with queue := u.queue.filter (·.bay != x.bay) }) hbook e
      have hfirst : s.TakesFrame (takeTest e x.bay (s.updLamp fun u => { u with queue := u.queue.filter (·.bay != x.bay) })) := by
        have hfilter : s.RestartFrame (s.updLamp fun u => { u with queue := u.queue.filter (·.bay != x.bay) }) :=
          ⟨rfl, rfl, rfl, rfl, rfl, rfl, fun _ => rfl⟩
        refine ⟨hfilter.trans hframe, hbays, hclearance, hreader, fun y hy => ?_,
          fun b hb => hresults b (hb x hin)⟩
        rw [hqueue] at hy
        exact (List.mem_filter.mp hy).1
      exact hfirst.trans (ih (by rw [hframe.book]; exact hbook))
    · exact .refl s

/-! ## The requests of a restart, but for the HEAT and SIGNAL requests, which it drops (R178, R179) -/

/-- The waiting requests without HEAT and SIGNAL. -/
def Bus.kept (u : Bus) : List Request := u.waiting.filter fun r => !r.job.isHeatOrSignal

/-- R179: the wire after the requests p are withdrawn. -/
def Wire.withdrawn (w : Wire) (p : Job → Bool) : Wire :=
  match w with
  | .busy x => .busy { x with discarded := x.discarded || p x.job }
  | .free => .free
  | .quiet => .quiet

theorem wire_withdrawn (s : State) (p : Job → Bool) : (s.withdrawn p).wire = s.bus.wire.withdrawn p := rfl

theorem withdrawn_withdrawn (w : Wire) (p q : Job → Bool) : (w.withdrawn p).withdrawn q = w.withdrawn fun j => p j || q j := by
  cases w with
  | busy x => simp [Wire.withdrawn, Bool.or_assoc]
  | free => rfl
  | quiet => rfl

theorem withdrawn_none (w : Wire) : w.withdrawn (fun _ => false) = w := by
  cases w with
  | busy x => simp [Wire.withdrawn]
  | free => rfl
  | quiet => rfl

theorem kept_withdrawn (s : State) (p : Job → Bool) : (s.withdrawn p).kept = s.bus.kept.filter fun r => !p r.job := by
  unfold Bus.kept State.withdrawn
  rw [List.filter_filter, List.filter_filter]
  exact List.filter_congr fun r _ => Bool.and_comm ..

/-- A HEAT or SIGNAL request changes nothing of the others. -/
theorem kept_asked {s : State} {p : Job → Bool} {j : Job} (hp : ∀ k, p k = true → k.isHeatOrSignal = true) (hj : j.isHeatOrSignal = true) :
    (s.asked p j).kept = s.bus.kept := by
  unfold Bus.kept State.asked
  dsimp only
  split
  · induction s.bus.waiting with
    | nil => rfl
    | cons r rs ih =>
      rw [List.map_cons, List.filter_cons, List.filter_cons, ih]
      by_cases hr : p r.job = true
      · rw [if_pos hr]
        simp [hj, hp _ hr]
      · rw [if_neg hr]
  · rw [List.filter_append, List.filter_cons_of_neg (by simp [hj]), List.filter_nil, List.append_nil]

theorem kept_placeJob {s : State} {j : Job} (hj : j.isHeatOrSignal = false) : (placeJob j s).bus.kept = s.bus.kept ++ [⟨j, s.bus.event⟩] := by
  unfold Bus.kept placeJob
  dsimp only
  rw [List.filter_append, List.filter_cons_of_pos (by simp [hj]), List.filter_nil]

theorem kept_heatOffBus (s : State) (b : BayNo) : (s.heatOffBus b).kept = s.bus.kept ∧ (s.heatOffBus b).wire = s.bus.wire
    ∧ (s.heatOffBus b).posts = s.bus.posts ∧ (s.heatOffBus b).event = s.bus.event := by
  have hasked : (s.asked (Job.isHeatFor b) (.heat b false)).kept = s.bus.kept :=
    kept_asked (fun k hk => by cases k <;> simp_all [Job.isHeatFor, Job.isHeatOrSignal]) rfl
  unfold State.heatOffBus
  split
  · split
    · exact ⟨rfl, rfl, rfl, rfl⟩
    · exact ⟨hasked, rfl, rfl, rfl⟩
  · exact ⟨rfl, rfl, rfl, rfl⟩

/-- The engine that tests the bay, in a list. -/
def State.testingOf (s : State) (b : BayNo) : List EngineNo := (s.engineTesting b).toList

/-- R114: the release that the teardown of a bay under test asks for. -/
def State.releasesOf (s : State) (b : BayNo) : List Job := if s.silent b = true then [] else (s.testingOf b).map (.lampEnd · b)

/-- R114: the steps of the test on the bay. -/
def State.stepsOf (s : State) (b : BayNo) (j : Job) : Bool := (s.engineTesting b).any fun e => j.isStepOf e

theorem kept_lampTornBus (s : State) (b : BayNo) :
    (s.lampTornBus b).kept = (s.bus.kept.filter fun r => !s.stepsOf b r.job) ++ (s.releasesOf b).map (⟨·, s.bus.event⟩)
    ∧ (s.lampTornBus b).wire = s.bus.wire.withdrawn (s.stepsOf b)
    ∧ (s.lampTornBus b).posts = s.bus.posts ∧ (s.lampTornBus b).event = s.bus.event := by
  unfold State.lampTornBus State.releasesOf State.testingOf State.stepsOf State.silent
  cases he : s.engineTesting b with
  | none =>
    refine ⟨?_, (withdrawn_none _).symm, rfl, rfl⟩
    simp
  | some e =>
    dsimp only
    cases s.bus.posts[b].silent with
    | true =>
      refine ⟨?_, rfl, rfl, rfl⟩
      rw [if_pos rfl, if_pos rfl, kept_withdrawn, List.map_nil, List.append_nil]
      rfl
    | false =>
      refine ⟨?_, rfl, rfl, rfl⟩
      rw [if_neg (by decide), if_neg (by decide), kept_placeJob rfl]
      exact congrArg (· ++ _) (kept_withdrawn s (Job.isStepOf e))

/-- R9, R114, R135: what the teardown of a bay withdraws, but for its HEAT and SIGNAL requests. -/
def State.endsAt (s : State) (b : BayNo) (j : Job) : Bool := s.stepsOf b j || j.isPageFor b || j.isIdentFor b

theorem kept_lastBus (s : State) (b : BayNo) (p : Prop) [Decidable p] :
    let unread : State := { s with bus := s.withdrawn (Job.isPageFor b) }
    let red : State := { s with bus := if p then unread.bus else unread.signalled b .red }
    (red.withdrawn (Job.isIdentFor b)).kept = s.bus.kept.filter (fun r => !(r.job.isPageFor b || r.job.isIdentFor b))
    ∧ (red.withdrawn (Job.isIdentFor b)).wire = s.bus.wire.withdrawn (fun j => j.isPageFor b || j.isIdentFor b)
    ∧ (red.withdrawn (Job.isIdentFor b)).posts = s.bus.posts ∧ (red.withdrawn (Job.isIdentFor b)).event = s.bus.event := by
  intro unread red
  have hred : red.bus.kept = unread.bus.kept ∧ red.bus.wire = unread.bus.wire ∧ red.bus.posts = unread.bus.posts
      ∧ red.bus.event = unread.bus.event := by
    have hbus : red.bus = if p then unread.bus else unread.signalled b .red := rfl
    rw [hbus]
    split
    · exact ⟨rfl, rfl, rfl, rfl⟩
    · exact ⟨kept_asked (fun k hk => by cases k <;> simp_all [Job.isSignalFor, Job.isHeatOrSignal]) rfl, rfl, rfl, rfl⟩
  obtain ⟨hkept, hwire, hposts, hevent⟩ := hred
  refine ⟨?_, ?_, hposts, hevent⟩
  · rw [kept_withdrawn, hkept]
    show ((s.withdrawn (Job.isPageFor b)).kept.filter _) = _
    rw [kept_withdrawn, List.filter_filter]
    refine List.filter_congr fun r _ => ?_
    rw [Bool.not_or, Bool.and_comm]
  · rw [wire_withdrawn, hwire]
    show ((s.withdrawn (Job.isPageFor b)).wire.withdrawn _) = _
    rw [wire_withdrawn, withdrawn_withdrawn]

theorem kept_tornBus (s : State) (b : BayNo) :
    (s.tornBus b).kept = (s.bus.kept.filter fun r => !s.endsAt b r.job) ++ (s.releasesOf b).map (⟨·, s.bus.event⟩)
    ∧ (s.tornBus b).wire = s.bus.wire.withdrawn (s.endsAt b)
    ∧ (s.tornBus b).posts = s.bus.posts ∧ (s.tornBus b).event = s.bus.event := by
  obtain ⟨hheat, hheatWire, hheatPosts, hheatEvent⟩ := kept_heatOffBus s b
  obtain ⟨hlamp, hlampWire, hlampPosts, hlampEvent⟩ := kept_lampTornBus { s with bus := s.heatOffBus b } b
  have hsteps : ({ s with bus := s.heatOffBus b } : State).stepsOf b = s.stepsOf b := rfl
  have hreleases : ({ s with bus := s.heatOffBus b } : State).releasesOf b = s.releasesOf b := by
    unfold State.releasesOf State.silent
    dsimp only
    rw [hheatPosts]
    rfl
  rw [hsteps, hreleases] at hlamp
  rw [hsteps] at hlampWire
  dsimp only at hlamp hlampWire hlampPosts hlampEvent
  rw [hheat, hheatEvent] at hlamp
  rw [hheatWire] at hlampWire
  rw [hheatPosts] at hlampPosts
  rw [hheatEvent] at hlampEvent
  obtain ⟨hlast, hlastWire, hlastPosts, hlastEvent⟩ := kept_lastBus { s with bus := ({ s with bus := s.heatOffBus b } : State).lampTornBus b } b
    (s.clearance.signals[b] = .red ∨ s.bus.posts[b].silent = true)
  dsimp only at hlast hlastWire hlastPosts hlastEvent
  rw [hlamp] at hlast
  rw [hlampWire] at hlastWire
  refine ⟨hlast.trans ?_, hlastWire.trans ?_, hlastPosts.trans hlampPosts, hlastEvent.trans hlampEvent⟩
  · rw [List.filter_append, List.filter_filter]
    congr 1
    · refine List.filter_congr fun r _ => ?_
      unfold State.endsAt
      cases s.stepsOf b r.job <;> simp
    · refine List.filter_eq_self.mpr fun r hr => ?_
      obtain ⟨j, hj, rfl⟩ := List.mem_map.mp hr
      unfold State.releasesOf at hj
      split at hj
      · exact absurd hj List.not_mem_nil
      · obtain ⟨e, -, rfl⟩ := List.mem_map.mp hj
        rfl
  · rw [withdrawn_withdrawn]
    refine congrArg _ (funext fun j => ?_)
    rw [State.endsAt, Bool.or_assoc]

/-! ## One bay of a restart in a sound lamp unit -/

/-- R114: a test of the bay waits or runs. -/
def State.tested (s : State) (b : BayNo) : Bool := s.lamp.queue.any (·.bay == b) || (s.engineTesting b).isSome

/-- R114, R21: the requests that the restart of the bay asks for, but for HEAT and SIGNAL. -/
def State.jobsOf (s : State) (b : BayNo) : List Job :=
  s.releasesOf b ++ if (s.bay b).plug = true ∧ s.silent b = false then [.ident b] else []

/-- R151, R120, R21: the notices of a bay's restart. -/
def Notices.restarted (n : Notices) (b : BayNo) (tested : Bool) : Notices :=
  (if tested then (n.add .defect (BaySet.single b)).add .lamp (BaySet.single b) else n.add .defect (BaySet.single b)).add .bay (BaySet.single b)

theorem kept_identBus (v : State) (b : BayNo) (plug : Bool) :
    (v.identBus b plug).kept = v.bus.kept ++ (if plug = true ∧ v.silent b = false then [.ident b] else []).map (⟨·, v.bus.event⟩)
    ∧ (v.identBus b plug).wire = v.bus.wire := by
  unfold State.identBus
  split
  · exact ⟨kept_placeJob rfl, rfl⟩
  · exact ⟨(List.append_nil _).symm, rfl⟩

theorem restartBay_sound {b : BayNo} {s : State} (hb : s.boundAt b = true) (h : s.book.boundTo b = none) (hk : s.lamp.sound) :
    (restartBay s b).lamp = (s.lampTorn b).lamp
    ∧ (restartBay s b).bus.kept = (s.bus.kept.filter fun r => !s.endsAt b r.job) ++ (s.jobsOf b).map (⟨·, s.bus.event⟩)
    ∧ (restartBay s b).bus.wire = s.bus.wire.withdrawn (s.endsAt b)
    ∧ ∀ l, ((restartBay s b).port l).notices = (s.port l).notices.restarted b (s.tested b) := by
  have hbay : (s.tornAt b).bay b = { (s.bay b).uncoached with dropped := s.store.lists[b].length } := Vector.getElem_set_self b.isLt
  obtain ⟨hkept, hwire, hposts, hevent⟩ := kept_tornBus s b
  obtain ⟨hident, hidentWire⟩ := kept_identBus (s.tornAt b) b (s.bay b).plug
  have hsilent : (s.tornAt b).silent b = s.silent b := congrArg (fun v : Vector Post 24 => v[b].silent) hposts
  have hbus : (s.tornAt b).bus = s.tornBus b := rfl
  rw [hbus, hkept, hevent, hsilent] at hident
  rw [hbus, hwire] at hidentWire
  rw [restartBay_of_torn hb (tearDown_eq h hk) hbay]
  refine ⟨rfl, hident.trans ?_, hidentWire, fun l => ?_⟩
  · rw [State.jobsOf, List.map_append, List.append_assoc]
  · have hport : ((s.tornAt b).port l).notices = ((s.tornNotices b).port l).notices := by cases l <;> rfl
    rw [port_notifyBay_notices, Notices.restarted, State.tested, ← any_testing_iff, ← port_tornNotices, ← hport]
    cases l <;> rfl

/-! ## The bays in their order -/

/-- R114: an engine after the teardown of the bays in a list. -/
def Engine.tornIn (bs : List BayNo) (silent : BayNo → Bool) (e : Engine) : Engine :=
  match e.testing with
  | some b => if b ∈ bs then (if silent b then .free else .releasing b) else e
  | none => e

/-- R114: the lamp unit after the teardown of the bays in a list. -/
def State.lampAfter (s : State) (bs : List BayNo) : LampUnit :=
  { s.lamp with
    queue := s.lamp.queue.filter fun x => decide (x.bay ∉ bs)
    engines := s.lamp.engines.map (Engine.tornIn bs s.silent)
    results := Vector.ofFn fun b => if b ∈ bs then none else s.lamp.results[b] }

/-- What the teardown of the bays in a list withdraws, but for HEAT and SIGNAL. -/
def State.endsIn (s : State) (bs : List BayNo) (j : Job) : Bool := bs.any fun b => s.endsAt b j

/-- The notices of the restart of the bays in a list. -/
def State.noticesAfter (s : State) (bs : List BayNo) (n : Notices) : Notices := bs.foldl (fun n b => n.restarted b (s.tested b)) n

theorem testing_tornIn {bs : List BayNo} {b : BayNo} (hb : b ∉ bs) (silent : BayNo → Bool) (e : Engine) :
    (e.tornIn bs silent).testing = some b ↔ e.testing = some b := by
  unfold Engine.tornIn
  cases he : e.testing with
  | none => simp [he]
  | some c =>
    dsimp only
    split
    · next hin =>
      have hcb : c ≠ b := fun h => hb (h ▸ hin)
      cases silent c <;> simp [Engine.testing, hcb]
    · rw [he]

theorem tornDown_tornIn (bs : List BayNo) (b : BayNo) (silent : BayNo → Bool) (e : Engine) :
    (e.tornIn bs silent).tornDown b (silent b) = e.tornIn (bs ++ [b]) silent := by
  unfold Engine.tornIn
  cases he : e.testing with
  | none => simp [Engine.tornDown, he]
  | some c =>
    dsimp only
    by_cases hin : c ∈ bs
    · rw [if_pos hin, if_pos (List.mem_append_left _ hin)]
      cases silent c <;> simp [Engine.tornDown, Engine.testing]
    · rw [if_neg hin, Engine.tornDown, he]
      by_cases hcb : c = b
      · subst hcb
        have hin' : c ∈ bs ++ [c] := by simp
        rw [if_pos hin']
        exact if_pos rfl
      · have hout : c ∉ bs ++ [b] := by simp [hin, hcb]
        rw [if_neg hout]
        exact if_neg fun h => hcb (Option.some.inj h)

section After

variable {s t : State} {bs : List BayNo} {b : BayNo}

theorem engineTesting_after (hlamp : t.lamp = s.lampAfter bs) (hb : b ∉ bs) : t.engineTesting b = s.engineTesting b := by
  have hengine : ∀ e : EngineNo, (t.lamp.engines[e].testing == some b) = (s.lamp.engines[e].testing == some b) := fun e => by
    have hget : t.lamp.engines[e] = (s.lamp.engines[e]).tornIn bs s.silent := by
      rw [hlamp]
      exact Vector.getElem_map ..
    rw [Bool.eq_iff_iff, beq_iff_eq, beq_iff_eq, hget]
    exact testing_tornIn hb ..
  unfold State.engineTesting
  simp only [hengine]

theorem tested_after (hlamp : t.lamp = s.lampAfter bs) (hb : b ∉ bs) : t.tested b = s.tested b := by
  have hqueue : (t.lamp.queue.any (·.bay == b)) = s.lamp.queue.any (·.bay == b) := by
    rw [hlamp, Bool.eq_iff_iff, List.any_eq_true, List.any_eq_true]
    constructor
    · rintro ⟨x, hx, hxb⟩
      exact ⟨x, (List.mem_filter.mp hx).1, hxb⟩
    · rintro ⟨x, hx, hxb⟩
      refine ⟨x, List.mem_filter.mpr ⟨hx, ?_⟩, hxb⟩
      rw [beq_iff_eq] at hxb
      simpa [hxb] using hb
  rw [State.tested, State.tested, hqueue, engineTesting_after hlamp hb]

theorem queue_after (s : State) (bs : List BayNo) (b : BayNo) :
    (s.lampAfter bs).queue.filter (·.bay != b) = (s.lampAfter (bs ++ [b])).queue := by
  unfold State.lampAfter
  dsimp only
  rw [List.filter_filter]
  refine List.filter_congr fun x _ => ?_
  rw [Bool.eq_iff_iff]
  simp [and_comm]

theorem engines_after (s : State) (bs : List BayNo) (b : BayNo) :
    (s.lampAfter bs).engines.map (Engine.tornDown b (s.silent b)) = (s.lampAfter (bs ++ [b])).engines := by
  unfold State.lampAfter
  dsimp only
  rw [Vector.map_map]
  exact congrArg (s.lamp.engines.map ·) (funext fun e => tornDown_tornIn bs b s.silent e)

theorem results_after (s : State) (bs : List BayNo) (b : BayNo) :
    (s.lampAfter bs).results.set b none = (s.lampAfter (bs ++ [b])).results := by
  have hget : ∀ (cs : List BayNo) (c : BayNo), (s.lampAfter cs).results[c] = if c ∈ cs then none else s.lamp.results[c] := fun cs c =>
    Vector.getElem_ofFn ..
  have hall : ∀ c : BayNo, ((s.lampAfter bs).results.set b none)[c] = (s.lampAfter (bs ++ [b])).results[c] := fun c => by
    rw [getElem_set_bay, hget, hget]
    by_cases hbc : b = c
    · rw [if_pos hbc, if_pos (by simp [hbc])]
    · rw [if_neg hbc]
      refine if_congr ?_ rfl rfl
      simp [Ne.symm hbc]
  exact Vector.ext fun i hi => hall ⟨i, hi⟩

theorem lampTorn_after (hlamp : t.lamp = s.lampAfter bs) (hsilent : t.silent b = s.silent b) :
    (t.lampTorn b).lamp = s.lampAfter (bs ++ [b]) := by
  have hparts : (t.lampTorn b).lamp = ⟨t.lamp.queue.filter (·.bay != b), t.lamp.engines.map (Engine.tornDown b (t.silent b)),
    t.lamp.results.set b none, t.lamp.freshness⟩ := rfl
  rw [hparts, hlamp, hsilent, queue_after, engines_after, results_after]
  rfl

end After

/-- The bays in bs restarted in their order, in a sound lamp unit. -/
structure State.RestartingSoundly (s : State) (bs : List BayNo) (t : State) : Prop where
  sound : t.lamp.sound
  frame : s.RestartFrame t
  lamp : t.lamp = s.lampAfter bs
  kept : t.bus.kept = (s.bus.kept.filter fun r => !s.endsIn bs r.job) ++ (bs.flatMap s.jobsOf).map (⟨·, s.bus.event⟩)
  wire : t.bus.wire = s.bus.wire.withdrawn (s.endsIn bs)
  notices : ∀ l, (t.port l).notices = s.noticesAfter bs (s.port l).notices
  bays : ∀ b, b ∉ bs → t.bay b = s.bay b

theorem lampAfter_nil (s : State) : s.lampAfter [] = s.lamp := by
  have hengine : ∀ e : Engine, e.tornIn [] s.silent = e := fun e => by
    unfold Engine.tornIn
    cases e.testing <;> simp
  have hengines : s.lamp.engines.map (Engine.tornIn [] s.silent) = s.lamp.engines := by
    rw [show Engine.tornIn [] s.silent = id from funext hengine, Vector.map_id]
  have hqueue : (s.lamp.queue.filter fun x => decide (x.bay ∉ ([] : List BayNo))) = s.lamp.queue := by simp
  have hresults : (Vector.ofFn fun b : BayNo => if b ∈ ([] : List BayNo) then none else s.lamp.results[b]) = s.lamp.results :=
    Vector.ext fun i hi => by simp
  unfold State.lampAfter
  rw [hengines, hqueue, hresults]

theorem restartingSoundly_nil {s : State} (hk : s.lamp.sound) : s.RestartingSoundly [] s := by
  refine ⟨hk, .refl s, (lampAfter_nil s).symm, ?_, (withdrawn_none _).symm, fun _ => rfl, fun _ _ => rfl⟩
  simp [State.endsIn]

section Step

variable {s t : State} {bs : List BayNo} {b : BayNo}

/-- The requests of bays restarted before stay. -/
theorem endsAt_jobsOf (hb : b ∉ bs) {j : Job} (hj : j ∈ bs.flatMap s.jobsOf) : s.endsAt b j = false := by
  obtain ⟨c, hc, hj⟩ := List.mem_flatMap.mp hj
  have hcb : c ≠ b := fun h => hb (h ▸ hc)
  rcases List.mem_append.mp hj with hj | hj
  · unfold State.releasesOf at hj
    split at hj
    · exact absurd hj List.not_mem_nil
    · obtain ⟨e, -, rfl⟩ := List.mem_map.mp hj
      simp [State.endsAt, State.stepsOf, Job.isStepOf, Job.isPageFor, Job.isIdentFor]
  · split at hj
    · rw [List.mem_singleton] at hj
      subst hj
      simp [State.endsAt, State.stepsOf, Job.isStepOf, Job.isPageFor, Job.isIdentFor, hcb]
    · exact absurd hj List.not_mem_nil

theorem restartingSoundly_step (hbook : s.book.records = []) (h : s.RestartingSoundly bs t) (hb : b ∉ bs) (hbound : s.boundAt b = true) :
    s.RestartingSoundly (bs ++ [b]) (restartBay t b) := by
  have hnone : t.book.boundTo b = none := by
    rw [h.frame.book, boundTo_eq_none_iff, hbook]
    exact fun d hd => absurd hd List.not_mem_nil
  have hsilent : t.silent b = s.silent b := by rw [State.silent, State.silent, h.frame.posts]
  have htesting := engineTesting_after h.lamp hb
  have hbay := h.bays b hb
  have hends : t.endsAt b = s.endsAt b := by
    funext j
    rw [State.endsAt, State.endsAt, State.stepsOf, State.stepsOf, htesting]
  have hjobs : t.jobsOf b = s.jobsOf b := by
    unfold State.jobsOf State.releasesOf State.testingOf
    rw [hbay, hsilent, htesting]
  have hbound' : t.boundAt b = true := by
    rw [State.boundAt, hbay]
    exact hbound
  obtain ⟨hlamp, hkept, hwire, hnotices⟩ := restartBay_sound hbound' hnone h.sound
  obtain ⟨hframe, -, hothers⟩ := restartBay_steps hnone
  refine ⟨lampSound_kept.restartBay t b h.sound, h.frame.trans hframe, hlamp.trans (lampTorn_after h.lamp hsilent), hkept.trans ?_,
    hwire.trans ?_, fun l => (hnotices l).trans ?_, fun c hc => ?_⟩
  · rw [hends, hjobs, h.kept, h.frame.event, List.filter_append, List.filter_filter, List.flatMap_append, List.map_append, List.append_assoc]
    congr 1
    · refine List.filter_congr fun r _ => ?_
      simp [State.endsIn, Bool.and_comm]
    · congr 1
      · refine List.filter_eq_self.mpr fun r hr => ?_
        obtain ⟨j, hj, rfl⟩ := List.mem_map.mp hr
        simp [endsAt_jobsOf hb hj]
      · simp
  · rw [hends, h.wire, withdrawn_withdrawn]
    refine congrArg _ (funext fun j => ?_)
    simp [State.endsIn]
  · rw [h.notices l, tested_after h.lamp hb, State.noticesAfter, State.noticesAfter, List.foldl_append]
    rfl
  · have hne : b ≠ c := fun heq => hc (by simp [heq])
    exact (hothers c fun heq => hne heq.1).bay.trans (h.bays c fun hin => hc (List.mem_append_left _ hin))

theorem restartingSoundly_foldl (hbook : s.book.records = []) (l : List BayNo) (hl : l.Nodup) (bs : List BayNo) (hdisjoint : ∀ b ∈ l, b ∉ bs)
    (h : s.RestartingSoundly bs t) : s.RestartingSoundly (bs ++ l.filter s.boundAt) (l.foldl restartBay t) := by
  induction l generalizing bs t with
  | nil => simpa using h
  | cons b l ih =>
    obtain ⟨hb, hl'⟩ := List.nodup_cons.mp hl
    have hfirst := hdisjoint b List.mem_cons_self
    have hrest : ∀ c ∈ l, c ∉ bs := fun c hc => hdisjoint c (List.mem_cons_of_mem b hc)
    rw [List.foldl_cons, List.filter_cons]
    cases hbound : s.boundAt b with
    | false =>
      have hsame : restartBay t b = t := restartBay_of_unbound (by rw [State.boundAt, h.bays b hfirst]; exact hbound)
      rw [hsame, if_neg (by decide)]
      exact ih hl' bs hrest h
    | true =>
      rw [if_pos rfl, List.append_cons]
      refine ih hl' (bs ++ [b]) (fun c hc hin => ?_) (restartingSoundly_step hbook h hfirst hbound)
      rcases List.mem_append.mp hin with hin | hin
      · exact hrest c hc hin
      · exact hb (List.mem_singleton.mp hin ▸ hc)

end Step

/-- R21: the bays of a restart in their order. -/
def State.restartList (s : State) : List BayNo := s.fittedBays.filter s.boundAt

theorem mem_restartList {s : State} {b : BayNo} : b ∈ s.restartList ↔ s.tornAtRestart b := by
  rw [State.restartList, List.mem_filter, mem_fittedBays]
  rfl

theorem restartBays_soundly {s : State} (hbook : s.book.records = []) (hk : s.lamp.sound) :
    s.RestartingSoundly s.restartList (s.fittedBays.foldl restartBay s) :=
  restartingSoundly_foldl hbook s.fittedBays (fittedBays_nodup s) [] (fun _ _ => List.not_mem_nil) (restartingSoundly_nil hk)

/-! ## Bay sets and the notices of a restart -/

theorem single_getLsbD_iff : ∀ b c : BayNo, (BaySet.single b).getLsbD c = (b == c) := by decide

theorem ofList_getLsbD (bs : List BayNo) (c : BayNo) : (BaySet.ofList bs).getLsbD c = bs.contains c := by
  induction bs with
  | nil => simp [BaySet.ofList]
  | cons b bs ih =>
    rw [ofList_cons, BitVec.getLsbD_or, ih, single_getLsbD_iff, List.contains_cons]
    congr 1
    rw [Bool.eq_iff_iff, beq_iff_eq, beq_iff_eq]
    exact eq_comm

/-- A bay set is said by its bays. -/
theorem ofList_congr {bs cs : List BayNo} (h : ∀ b, b ∈ bs ↔ b ∈ cs) : BaySet.ofList bs = BaySet.ofList cs := by
  refine BitVec.eq_of_getLsbD_eq fun i hi => ?_
  have hbs := ofList_getLsbD bs ⟨i, hi⟩
  have hcs := ofList_getLsbD cs ⟨i, hi⟩
  dsimp only at hbs hcs
  rw [hbs, hcs, Bool.eq_iff_iff, List.contains_iff_mem, List.contains_iff_mem]
  exact h _

/-- The bays of which p holds. -/
def baysWhere (p : BayNo → Bool) : BaySet := BaySet.ofList ((List.finRange 24).filter p)

theorem baysWhere_eq {p : BayNo → Bool} {bs : List BayNo} (h : ∀ b, b ∈ bs ↔ p b = true) : BaySet.ofList bs = baysWhere p :=
  ofList_congr fun b => by rw [h b, List.mem_filter, and_iff_right (List.mem_finRange b)]

theorem noticesAfter_eq (s : State) (bs : List BayNo) (n : Notices) : s.noticesAfter bs n = { n with
    kinds := n.kinds ||| (if bs.isEmpty then 0#8 else 0x12#8) ||| (if bs.any s.tested then 0x20#8 else 0#8)
    bay := n.bay ||| BaySet.ofList bs
    defect := n.defect ||| BaySet.ofList bs
    lamp := n.lamp ||| BaySet.ofList (bs.filter s.tested) } := by
  induction bs generalizing n with
  | nil => simp [State.noticesAfter, BaySet.ofList]
  | cons b bs ih =>
    have hstep : s.noticesAfter (b :: bs) n = s.noticesAfter bs (n.restarted b (s.tested b)) := rfl
    have hkinds : ∀ x : BitVec 8, ∀ p q : Bool,
        x ||| 0x10#8 ||| 0x02#8 ||| (if p then 0#8 else 0x12#8) ||| (if q then 0x20#8 else 0#8)
          = x ||| 0x12#8 ||| (if q then 0x20#8 else 0#8)
        ∧ x ||| 0x10#8 ||| 0x20#8 ||| 0x02#8 ||| (if p then 0#8 else 0x12#8) ||| (if q then 0x20#8 else 0#8)
          = x ||| 0x12#8 ||| 0x20#8 := fun x p q => by
      simp only [BitVec.or_assoc]
      cases p <;> cases q <;> exact ⟨rfl, rfl⟩
    rw [hstep, ih]
    obtain ⟨hplain, htested⟩ := hkinds n.kinds bs.isEmpty (bs.any s.tested)
    cases ht : s.tested b with
    | false =>
      simp only [Notices.restarted, Notices.add, NoticeKind.bit, List.filter_cons, List.any_cons, ht, List.isEmpty_cons, ofList_cons,
        BitVec.or_assoc, Bool.false_or, if_false, Bool.false_eq_true] at hplain ⊢
      rw [hplain]
    | true =>
      simp only [Notices.restarted, Notices.add, NoticeKind.bit, List.filter_cons, List.any_cons, ht, List.isEmpty_cons, ofList_cons,
        BitVec.or_assoc, Bool.true_or, if_true, if_false, Bool.false_eq_true] at htested ⊢
      rw [htested]

/-! ## ALL OFF (R176, R178) -/

/-- R176: a grant takes its request from the ones that wait. -/
theorem waiting_or_flying {u : State} {p : Job → Bool} (h : ∃ r ∈ u.bus.waiting, p r.job = true) :
    (∃ r ∈ (arbitrate u).bus.waiting, p r.job = true) ∨ ∃ x, (arbitrate u).bus.wire = .busy x ∧ p x.job = true := by
  obtain ⟨r, hr, hp⟩ := h
  by_cases hgrant : u.bus.wire ≠ .free ∨ u.bus.waiting = []
  · rw [arbitrate_of_no_grant hgrant]
    exact .inl ⟨r, hr, hp⟩
  · obtain ⟨hwire, hwait⟩ := not_or.mp hgrant
    obtain ⟨q, -, harb⟩ := arbitrate_of_grant (not_not.mp hwire) hwait
    rw [harb]
    by_cases hrq : r = q
    · exact .inr ⟨_, rfl, hrq ▸ hp⟩
    · exact .inl ⟨r, (List.mem_erase_of_ne hrq).mpr hr, hp⟩

theorem placeAllOff_eq (s : State) : placeAllOff s = { s with bus := { s.bus with
    waiting := s.bus.waiting ++ if s.bus.waiting.any (·.job == .allOff) then [] else [⟨.allOff, s.bus.event⟩] } } := by
  have hwaits : s.waits (· == .allOff) = s.bus.waiting.any (·.job == .allOff) := rfl
  unfold placeAllOff
  rw [hwaits]
  split
  · rw [List.append_nil]
  · rfl

theorem allOff_placed (s : State) : ∃ r ∈ (placeAllOff s).bus.waiting, (r.job == .allOff) = true := by
  rw [placeAllOff_eq]
  by_cases h : s.bus.waiting.any (·.job == .allOff) = true
  · obtain ⟨r, hr, hoff⟩ := List.any_eq_true.mp h
    exact ⟨r, List.mem_append_left _ hr, hoff⟩
  · exact ⟨⟨.allOff, s.bus.event⟩, List.mem_append_right _ (by rw [if_neg h]; exact List.mem_singleton_self _), rfl⟩

/-! ## The owners' resets (R78, R102, R152, R178) -/

/-- R78, R102, R152, R178: the resets of the planner, the sequencer, the store and the waiting HEAT and SIGNAL requests. -/
def State.restartEnd (w : State) : State :=
  { w with
    planner := { w.planner with results := Vector.replicate 24 ⟨0, 0#6⟩ }
    seq := { w.seq with
      chain := []
      onSet := []
      commanded := Vector.replicate 24 ⟨false, w.now⟩
      missed := Vector.replicate 24 0 }
    store := ⟨List.finRange 96, Vector.replicate 24 [], Vector.replicate 24 ⟨false, false, false⟩, 0, 1⟩
    bus := { w.bus with waiting := w.bus.kept } }

theorem restart_eq {s : State} (h : s.book.log.length ≤ 16) :
    restart s = arbitrate (placeAllOff (takeAll (s.emptied.fittedBays.foldl restartBay s.emptied)).restartEnd) := by
  have hend : ∀ w : State, restartStore (restartPlanner (withdrawWaiting Job.isHeatOrSignal (restartHeating w))) = w.restartEnd := fun _ => rfl
  unfold restart
  dsimp only
  rw [restartPending_eq h, hend]

theorem heat_of_mem_restarted {w : State} {r : Request} (hr : r ∈ (arbitrate (placeAllOff w.restartEnd)).bus.waiting) :
    r.job.isHeatOrSignal = false := by
  have hplaced := chooseRequest_mem_arbitrate r hr
  rw [placeAllOff_eq] at hplaced
  rcases List.mem_append.mp hplaced with hkept | hoff
  · simpa using (List.mem_filter.mp hkept).2
  · split at hoff
    · exact absurd hoff List.not_mem_nil
    · rw [List.mem_singleton.mp hoff]
      rfl

/-! ## The bays after a restart -/

/-- What a restart leaves to a bay that is not torn down. -/
structure State.SparedAt (s t : State) (b : BayNo) : Prop where
  bay : t.bay b = s.bay b
  signal : t.clearance.signals[b] = s.clearance.signals[b]
  alert : t.clearance.alerts[b] = s.clearance.alerts[b]
  reading : t.reader.reading[b] = s.reader.reading[b]
  last : t.reader.last[b] = s.reader.last[b]
  readSince : t.reader.readSince[b] = s.reader.readSince[b]
  scan : t.reader.scan[b] = s.reader.scan[b]

theorem restarted_bays {s : State} (hbook : s.book.records = []) :
    s.RestartFrame (takeAll (s.fittedBays.foldl restartBay s))
    ∧ (∀ b, s.tornAtRestart b → s.RestartedAt (takeAll (s.fittedBays.foldl restartBay s)) b)
    ∧ ∀ b, ¬ s.tornAtRestart b → s.SparedAt (takeAll (s.fittedBays.foldl restartBay s)) b := by
  obtain ⟨hframe, hrestarted, hkept⟩ := restartBays_steps hbook
  generalize s.fittedBays.foldl restartBay s = v at *
  have htakes : v.TakesFrame (takeAll v) := takeTests_takes _ (by rw [hframe.book]; exact hbook)
  generalize takeAll v = w at *
  have hbay : ∀ b, w.bay b = v.bay b := fun b => congrArg (fun x : Vector Bay 24 => x[b]) htakes.bays
  refine ⟨hframe.trans htakes.frame, fun b hb => ?_, fun b hb => ?_⟩
  · have h := hrestarted b hb
    exact ⟨(hbay b).trans h.bay, htakes.signals ▸ h.signal, htakes.signals ▸ h.alert, htakes.reader ▸ h.reading, htakes.reader ▸ h.last,
      htakes.reader ▸ h.readSince, htakes.reader ▸ h.scan, (htakes.results b h.queue).trans h.result, fun x hx => h.queue x (htakes.queue x hx)⟩
  · have h := hkept b hb
    exact ⟨(hbay b).trans h.bay, htakes.signals ▸ h.signal, htakes.signals ▸ h.alert, htakes.reader ▸ h.reading, htakes.reader ▸ h.last,
      htakes.reader ▸ h.readSince, htakes.reader ▸ h.scan⟩

/-! ## A restart whose tests are all torn down -/

theorem restarted_soundly {s : State} (hbook : s.book.records = []) (hk : s.lamp.sound) (hall : ∀ b, s.tested b = true → s.tornAtRestart b) :
    s.RestartingSoundly s.restartList (takeAll (s.fittedBays.foldl restartBay s)) := by
  have h := restartBays_soundly hbook hk
  have hqueue : (s.fittedBays.foldl restartBay s).lamp.queue = [] := by
    rw [h.lamp]
    refine List.filter_eq_nil_iff.mpr fun x hx => ?_
    have htested : s.tested x.bay = true := Bool.or_eq_true_iff.mpr (.inl (List.any_eq_true.mpr ⟨x, hx, beq_self_eq_true _⟩))
    simp [mem_restartList.mpr (hall x.bay htested)]
  rw [takeAll_of_queue_nil hqueue]
  exact h

section Forms

variable {s : State}

theorem restartList_eq (s : State) : s.restartList = (List.finRange 24).filter fun b =>
    decide (b.val < s.bayCount ∧ (s.bay b).state ∈ [.bound, .cleared, .leaving]) := by
  unfold State.restartList State.fittedBays allBays State.fitted
  rw [List.filter_filter]
  refine List.filter_congr fun b _ => ?_
  rw [Bool.eq_iff_iff, Bool.and_eq_true, decide_eq_true_eq, decide_eq_true_eq, ← isBound_eq_true_iff, and_comm]
  rfl

theorem tested_eq (s : State) (b : BayNo) : s.tested b = (s.lamp.queue.any (·.bay == b)
    || (List.finRange 2).any fun e : EngineNo => s.lamp.engines[e].testing == some b) := by
  have hengines : (s.engineTesting b).isSome = (List.finRange 2).any fun e : EngineNo => s.lamp.engines[e].testing == some b := by
    rw [Bool.eq_iff_iff, State.engineTesting, List.find?_isSome, List.any_eq_true]
  rw [State.tested, hengines]

theorem engineTesting_iff_of_sound (hk : s.lamp.sound) (b : BayNo) (e : EngineNo) :
    s.engineTesting b = some e ↔ s.lamp.engines[e].testing = some b := by
  constructor
  · intro h
    simpa using List.find?_some h
  · intro h
    obtain ⟨x, hx, hb⟩ := (engine_testing_eq_some_iff _ b).mp h
    exact engineTesting_of_sound hk hx hb

theorem testingOf_eq (hk : s.lamp.sound) (b : BayNo) :
    s.testingOf b = (List.finRange 2).filter fun e : EngineNo => s.lamp.engines[e].testing == some b := by
  have hbeq : ∀ e : EngineNo, (s.lamp.engines[e].testing == some b) = decide (s.engineTesting b = some e) := fun e => by
    rw [Bool.eq_iff_iff, beq_iff_eq, decide_eq_true_eq, engineTesting_iff_of_sound hk]
  simp only [hbeq]
  unfold State.testingOf
  cases s.engineTesting b with
  | none => decide
  | some e => revert e; decide

/-- R114, R21: what the restart asks for, bay by bay. -/
theorem flatMap_jobsOf (hk : s.lamp.sound) (bs : List BayNo) : bs.flatMap s.jobsOf = (bs.filter fun b => !s.bus.posts[b].silent).flatMap fun b =>
    ((List.finRange 2).filter fun e : EngineNo => s.lamp.engines[e].testing == some b).map (fun e => .lampEnd e b)
      ++ if (s.bay b).plug then [.ident b] else [] := by
  induction bs with
  | nil => rfl
  | cons b bs ih =>
    have hsilent : s.silent b = s.bus.posts[b].silent := rfl
    rw [List.flatMap_cons, ih, List.filter_cons, State.jobsOf, State.releasesOf, testingOf_eq hk, hsilent]
    cases s.bus.posts[b].silent with
    | true => simp
    | false => simp

/-- R9, R114, R135: what the restart withdraws, but for HEAT and SIGNAL. -/
theorem endsIn_eq {bs : List BayNo} (hk : s.lamp.sound) (hall : ∀ b, s.tested b = true → b ∈ bs) (j : Job) : s.endsIn bs j = match j with
    | .ident b | .faultPage b _ => bs.contains b
    | .lampStep e _ _ | .lampRead e _ _ => s.lamp.engines[e].testing != none
    | .heat .. | .signal .. | .lampEnd .. | .allOff | .sense _ | .ping _ => false := by
  have hsteps : ∀ e : EngineNo, (bs.any fun b => (s.engineTesting b).any fun f => e == f) = (s.lamp.engines[e].testing != none) := fun e => by
    have hany : ∀ b, ((s.engineTesting b).any fun f => e == f) = true ↔ s.lamp.engines[e].testing = some b := fun b => by
      rw [← engineTesting_iff_of_sound hk]
      cases s.engineTesting b with
      | none => simp
      | some f =>
        rw [Option.any_some, beq_iff_eq, Option.some.injEq]
        exact eq_comm
    rw [Bool.eq_iff_iff, List.any_eq_true, bne_iff_ne]
    constructor
    · rintro ⟨b, -, h⟩
      rw [(hany b).mp h]
      exact Option.some_ne_none b
    · intro h
      obtain ⟨b, hb⟩ := Option.ne_none_iff_exists'.mp h
      refine ⟨b, hall b ?_, (hany b).mpr hb⟩
      rw [State.tested, (engineTesting_iff_of_sound hk b e).mpr hb]
      exact Bool.or_true _
  have hbay : ∀ c : BayNo, (bs.any fun b => c == b) = bs.contains c := fun c => List.any_beq
  cases j with
  | ident b => simpa [State.endsIn, State.endsAt, State.stepsOf, Job.isStepOf, Job.isPageFor, Job.isIdentFor] using hbay b
  | faultPage b n => simpa [State.endsIn, State.endsAt, State.stepsOf, Job.isStepOf, Job.isPageFor, Job.isIdentFor] using hbay b
  | lampStep e b c => simpa [State.endsIn, State.endsAt, State.stepsOf, Job.isStepOf, Job.isPageFor, Job.isIdentFor] using hsteps e
  | lampRead e b c => simpa [State.endsIn, State.endsAt, State.stepsOf, Job.isStepOf, Job.isPageFor, Job.isIdentFor] using hsteps e
  | _ => simp [State.endsIn, State.endsAt, State.stepsOf, Job.isStepOf, Job.isPageFor, Job.isIdentFor]

/-- R114: an engine whose test, if it runs one, is torn down. -/
def Engine.ended (silent : BayNo → Bool) : Engine → Engine
  | .running x => if silent x.bay then .free else .releasing x.bay
  | .releasing b => .releasing b
  | .free => .free

/-- R114: the lamp unit of a restart that tears every test down. -/
theorem lampAfter_eq {bs : List BayNo} (hall : ∀ b, s.tested b = true → b ∈ bs) : s.lampAfter bs = { s.lamp with
    queue := []
    engines := s.lamp.engines.map (Engine.ended s.silent)
    results := Vector.ofFn fun b => if b ∈ bs then none else s.lamp.results[b] } := by
  have hqueue : (s.lamp.queue.filter fun x => decide (x.bay ∉ bs)) = [] := List.filter_eq_nil_iff.mpr fun x hx => by
    have htested : s.tested x.bay = true := Bool.or_eq_true_iff.mpr (.inl (List.any_eq_true.mpr ⟨x, hx, beq_self_eq_true _⟩))
    simp [hall x.bay htested]
  have hengines : s.lamp.engines.map (Engine.tornIn bs s.silent) = s.lamp.engines.map (Engine.ended s.silent) := Vector.ext fun i hi => by
    rw [Vector.getElem_map, Vector.getElem_map]
    cases he : s.lamp.engines[i] with
    | free => rfl
    | releasing b => rfl
    | running x =>
      have htested : s.tested x.bay = true := by
        rw [tested_eq]
        refine Bool.or_eq_true_iff.mpr (.inr (List.any_eq_true.mpr ⟨⟨i, hi⟩, List.mem_finRange _, ?_⟩))
        show (s.lamp.engines[i].testing == some x.bay) = true
        rw [he]
        exact beq_self_eq_true _
      exact if_pos (hall x.bay htested)
  unfold State.lampAfter
  rw [hqueue, hengines]

end Forms

/-- R54, R163: the notices of the cancellations. -/
theorem emptied_notices (s : State) (l : Link) : (s.emptied.port l).notices = { (s.port l).notices with
    kinds := (s.port l).notices.kinds ||| 0x0C#8
    departure := (s.port l).notices.departure ||| baysWhere fun b => s.book.records.any (·.bay == some b)
    clearance := (s.port l).notices.clearance ||| baysWhere fun b => s.clearance.pending.any (·.bay == b) } := by
  have hbooked : BaySet.ofList (s.book.records.filterMap (·.bay)) = baysWhere fun b => s.book.records.any (·.bay == some b) :=
    baysWhere_eq fun b => by simp
  have hpending : BaySet.ofList (s.clearance.pending.map (·.bay)) = baysWhere fun b => s.clearance.pending.any (·.bay == b) :=
    baysWhere_eq fun b => by simp
  have hkinds : (s.port l).notices.kinds ||| 0x0C#8 = (s.port l).notices.kinds ||| 0x04#8 ||| 0x08#8 := by
    rw [BitVec.or_assoc]
    rfl
  rw [← hbooked, ← hpending, hkinds]
  cases l <;> rfl

/-- R151, R120, R21: the notices of the bays' restarts. -/
theorem restarted_notices {s : State} {torn : BayNo → Bool} (hall : ∀ b, s.tested b = true → torn b = true) (n : Notices) :
    s.noticesAfter ((List.finRange 24).filter torn) n = { n with
      kinds := n.kinds ||| (if (List.finRange 24).any torn then 0x12#8 else 0#8) ||| (if (List.finRange 24).any s.tested then 0x20#8 else 0#8)
      bay := n.bay ||| baysWhere torn
      defect := n.defect ||| baysWhere torn
      lamp := n.lamp ||| baysWhere s.tested } := by
  have hboth : ∀ b, (s.tested b && torn b) = s.tested b := fun b => by
    cases h : s.tested b with
    | false => rfl
    | true => rw [hall b h]; rfl
  have htested : ((List.finRange 24).filter torn).filter s.tested = (List.finRange 24).filter s.tested := by
    rw [List.filter_filter]
    exact List.filter_congr fun b _ => hboth b
  have hany : ((List.finRange 24).filter torn).any s.tested = (List.finRange 24).any s.tested := by
    rw [List.any_filter]
    exact congrArg _ (funext fun b => (Bool.and_comm ..).trans (hboth b))
  have hempty : (if ((List.finRange 24).filter torn).isEmpty then 0#8 else 0x12#8)
      = if (List.finRange 24).any torn then 0x12#8 else 0#8 := by
    cases h : (List.finRange 24).any torn with
    | false =>
      have hnil : (List.finRange 24).filter torn = [] := List.filter_eq_nil_iff.mpr (List.any_eq_false.mp h)
      rw [hnil]
      rfl
    | true =>
      obtain ⟨b, hb, ht⟩ := List.any_eq_true.mp h
      have hne : (List.finRange 24).filter torn ≠ [] := List.ne_nil_of_mem (List.mem_filter.mpr ⟨hb, ht⟩)
      rw [if_neg (mt List.isEmpty_iff.mp hne)]
      rfl
  rw [noticesAfter_eq, htested, hany, hempty]
  rfl

/-- The waiting requests after the restart of the bays in a list, but for HEAT and SIGNAL. -/
def State.waitingAfter (s : State) (bs : List BayNo) : List Request :=
  (s.bus.kept.filter fun r => !s.endsIn bs r.job) ++ (bs.flatMap s.jobsOf).map (⟨·, s.bus.event⟩)

/-- R178: ALL OFF waits through a restart as before. -/
theorem any_allOff (s : State) (bs : List BayNo) :
    (s.waitingAfter bs).any (·.job == .allOff)
      = s.bus.waiting.any (·.job == .allOff) := by
  have hends : s.endsIn bs .allOff = false := by
    simp [State.endsIn, State.endsAt, State.stepsOf, Job.isStepOf, Job.isPageFor, Job.isIdentFor]
  rw [Bool.eq_iff_iff, List.any_eq_true, List.any_eq_true]
  constructor
  · rintro ⟨r, hr, hoff⟩
    rcases List.mem_append.mp hr with hr | hr
    · exact ⟨r, (List.mem_filter.mp (List.mem_filter.mp hr).1).1, hoff⟩
    · obtain ⟨j, hj, rfl⟩ := List.mem_map.mp hr
      obtain ⟨b, -, hj⟩ := List.mem_flatMap.mp hj
      have hne : j ≠ .allOff := by
        rcases List.mem_append.mp hj with hj | hj
        · unfold State.releasesOf at hj
          split at hj
          · exact absurd hj List.not_mem_nil
          · obtain ⟨e, -, rfl⟩ := List.mem_map.mp hj
            exact Job.noConfusion
        · split at hj
          · rw [List.mem_singleton.mp hj]
            exact Job.noConfusion
          · exact absurd hj List.not_mem_nil
      exact absurd (eq_of_beq hoff) hne
  · rintro ⟨r, hr, hoff⟩
    have hjob : r.job = .allOff := eq_of_beq hoff
    refine ⟨r, List.mem_append_left _ (List.mem_filter.mpr ⟨List.mem_filter.mpr ⟨hr, ?_⟩, ?_⟩), hoff⟩
    · rw [hjob]
      rfl
    · rw [hjob, hends]
      rfl

/-- R176 to R179: the bus of a restart that tears every test down, before its grant. -/
theorem restarted_bus {s w : State} {bs : List BayNo} (h : s.RestartingSoundly bs w) : (placeAllOff w.restartEnd).bus = { s.bus with
    waiting := s.waitingAfter bs ++ (if s.bus.waiting.any (·.job == .allOff) then [] else [⟨.allOff, s.bus.event⟩])
    wire := s.bus.wire.withdrawn (s.endsIn bs) } := by
  have hkept : w.bus.kept = s.waitingAfter bs := h.kept
  rw [← any_allOff s bs, ← hkept, ← h.wire, ← h.frame.event]
  have hbus := congrArg (fun u : Bus => { u with
    waiting := w.bus.kept ++ if w.bus.kept.any (fun r => r.job == Job.allOff) then [] else [(⟨.allOff, w.bus.event⟩ : Request)]
    wire := w.bus.wire }) h.frame.bus
  rw [placeAllOff_eq]
  exact hbus

/-- R9, R114, R135: what a restart that tears every test down withdraws, but for HEAT and SIGNAL. -/
def State.restartEnds (s : State) (torn : BayNo → Bool) (j : Job) : Bool :=
  match j with
  | .ident b | .faultPage b _ => torn b
  | .lampStep e _ _ | .lampRead e _ _ => s.lamp.engines[e].testing != none
  | .heat .. | .signal .. | .lampEnd .. | .allOff | .sense _ | .ping _ => false

/-- R114, R21: what the restart of a bay whose post is not SILENT asks for. -/
def State.restartAsks (s : State) (b : BayNo) : List Job :=
  ((List.finRange 2).filter fun e : EngineNo => s.lamp.engines[e].testing == some b).map (fun e => .lampEnd e b)
    ++ if (s.bay b).plug then [.ident b] else []

theorem restartedBus_eq {s w : State} {bs : List BayNo} {torn : BayNo → Bool} (h : s.RestartingSoundly bs w) (hk : s.lamp.sound)
    (hbs : bs = (List.finRange 24).filter torn) (hin : ∀ b, s.tested b = true → b ∈ bs) : (placeAllOff w.restartEnd).bus = { s.bus with
      waiting := (s.bus.waiting.filter fun r => !r.job.isHeatOrSignal && !s.restartEnds torn r.job)
        ++ (((List.finRange 24).filter fun b => torn b && !s.bus.posts[b].silent).flatMap s.restartAsks).map (⟨·, s.bus.event⟩)
        ++ (if s.bus.waiting.any (·.job == .allOff) then [] else [⟨.allOff, s.bus.event⟩])
      wire := s.bus.wire.withdrawn (s.restartEnds torn) } := by
  have hcontains : ∀ b, bs.contains b = torn b := fun b => by
    rw [Bool.eq_iff_iff, List.contains_iff_mem, hbs, List.mem_filter, and_iff_right (List.mem_finRange b)]
  have hends : s.endsIn bs = s.restartEnds torn := funext fun j => by
    rw [endsIn_eq hk hin]
    cases j with
    | ident b => exact hcontains b
    | faultPage b n => exact hcontains b
    | _ => rfl
  have hjobs : bs.flatMap s.jobsOf = ((List.finRange 24).filter fun b => torn b && !s.bus.posts[b].silent).flatMap s.restartAsks := by
    have hfilter : ((List.finRange 24).filter fun b => torn b && !s.bus.posts[b].silent) = bs.filter fun b => !s.bus.posts[b].silent := by
      rw [hbs, List.filter_filter]
      exact List.filter_congr fun b _ => Bool.and_comm ..
    rw [hfilter]
    exact flatMap_jobsOf hk bs
  have hkept : (s.bus.kept.filter fun r => !s.restartEnds torn r.job)
      = s.bus.waiting.filter fun r => !r.job.isHeatOrSignal && !s.restartEnds torn r.job := by
    unfold Bus.kept
    rw [List.filter_filter]
    exact List.filter_congr fun r _ => Bool.and_comm ..
  rw [restarted_bus h, State.waitingAfter, hjobs, hends, hkept]

theorem restartedLamp_eq {s : State} {bs : List BayNo} {torn : BayNo → Bool} (hbs : bs = (List.finRange 24).filter torn)
    (hin : ∀ b, s.tested b = true → b ∈ bs) : s.lampAfter bs = { s.lamp with
      queue := []
      engines := s.lamp.engines.map (Engine.ended s.silent)
      results := Vector.ofFn fun b => if torn b then none else s.lamp.results[b] } := by
  have hmem : ∀ b, b ∈ bs ↔ torn b = true := fun b => by rw [hbs, List.mem_filter, and_iff_right (List.mem_finRange b)]
  have hresults : (Vector.ofFn fun b : BayNo => if b ∈ bs then none else s.lamp.results[b])
      = Vector.ofFn fun b : BayNo => if torn b then none else s.lamp.results[b] :=
    congrArg Vector.ofFn (funext fun b => if_congr (hmem b) rfl rfl)
  rw [lampAfter_eq hin, hresults]

theorem restartedNotices_eq {s w : State} {bs : List BayNo} {torn tested : BayNo → Bool} (h : s.emptied.RestartingSoundly bs w)
    (hbs : bs = (List.finRange 24).filter torn) (htested : ∀ b, s.emptied.tested b = tested b) (hall : ∀ b, tested b = true → torn b = true)
    (l : Link) : (w.port l).notices = { (s.port l).notices with
      kinds := (s.port l).notices.kinds ||| 0x0C#8 ||| (if (List.finRange 24).any torn then 0x12#8 else 0#8)
        ||| (if (List.finRange 24).any tested then 0x20#8 else 0#8)
      bay := (s.port l).notices.bay ||| baysWhere torn
      departure := (s.port l).notices.departure ||| baysWhere fun b => s.book.records.any (·.bay == some b)
      clearance := (s.port l).notices.clearance ||| baysWhere fun b => s.clearance.pending.any (·.bay == b)
      defect := (s.port l).notices.defect ||| baysWhere torn
      lamp := (s.port l).notices.lamp ||| baysWhere tested } := by
  obtain rfl : s.emptied.tested = tested := funext htested
  rw [h.notices l, hbs, restarted_notices hall, emptied_notices]

/-! ## The rest of the part -/

section Rest

variable {s w : State} (h : s.emptied.RestartFrame w)
include h

theorem restartEnd_planner : w.restartEnd.planner = { s.planner with results := Vector.replicate 24 ⟨0, 0#6⟩ } :=
  congrArg (fun v : State => { v.planner with results := Vector.replicate 24 ⟨0, 0#6⟩ }) h.frame

theorem restartEnd_seq : w.restartEnd.seq = { s.seq with
    chain := []
    onSet := []
    commanded := Vector.replicate 24 ⟨false, s.now⟩
    missed := Vector.replicate 24 0 } := by
  have hnow : w.now = s.now := (congrArg State.now h.frame).trans rfl
  rw [← hnow]
  exact congrArg (fun q : Sequencer => { q with
    chain := []
    onSet := []
    commanded := Vector.replicate 24 ⟨false, w.now⟩
    missed := Vector.replicate 24 0 }) h.seq

theorem restartEnd_clearance : w.restartEnd.clearance.pending = [] ∧ w.restartEnd.clearance.window = s.clearance.window :=
  ⟨(congrArg Clearance.pending h.clearance).trans rfl, (congrArg Clearance.window h.clearance).trans rfl⟩

theorem restartEnd_reader : w.restartEnd.reader.rules = s.reader.rules ∧ w.restartEnd.reader.period = s.reader.period :=
  ⟨(congrArg FaultReader.rules h.reader).trans rfl, (congrArg FaultReader.period h.reader).trans rfl⟩

theorem restartEnd_clock : w.restartEnd.clock = s.clock ∧ w.restartEnd.classes = s.classes :=
  ⟨(congrArg State.clock h.frame).trans rfl, (congrArg State.classes h.frame).trans rfl⟩

theorem restartEnd_ports (l : Link) : { w.restartEnd.port l with notices := (s.port l).notices } = s.port l := by
  cases l with
  | dispatch => exact congrArg (fun p : Port => { p with notices := s.dispatch.notices }) (h.ports .dispatch)
  | workshop => exact congrArg (fun p : Port => { p with notices := s.workshop.notices }) (h.ports .workshop)

theorem restartEnd_rest : { w.restartEnd with
    bays := s.bays
    book := s.book
    planner := s.planner
    seq := s.seq
    lamp := s.lamp
    reader := s.reader
    store := s.store
    clearance := s.clearance
    bus := s.bus
    dispatch := s.dispatch
    workshop := s.workshop } = s :=
  congrArg (fun v : State => { v with
    bays := s.bays
    book := s.book
    planner := s.planner
    seq := s.seq
    lamp := s.lamp
    reader := s.reader
    store := s.store
    clearance := s.clearance
    bus := s.bus
    dispatch := s.dispatch
    workshop := s.workshop }) h.frame

theorem restartEnd_posts : (arbitrate (placeAllOff w.restartEnd)).bus.posts = s.bus.posts := by
  have hplaced : (placeAllOff w.restartEnd).bus.posts = w.bus.posts := by
    rw [placeAllOff_eq]
    rfl
  exact (arbitrate_posts _).trans (hplaced.trans h.posts)

end Rest

theorem port_of_restartEnd (w : State) (u : Bus) (l : Link) : ({ w.restartEnd with bus := u } : State).port l = w.port l := by
  cases l <;> rfl

theorem allOff_restarted (v : State) : (∃ r ∈ (arbitrate (placeAllOff v)).bus.waiting, r.job = .allOff)
    ∨ ∃ x, (arbitrate (placeAllOff v)).bus.wire = .busy x ∧ x.job = .allOff := by
  have h := waiting_or_flying (p := (· == .allOff)) (allOff_placed v)
  simpa only [beq_iff_eq] using h

theorem arbitrate_placeAllOff (v : State) : ∃ u, arbitrate (placeAllOff v) = { v with bus := u } := by
  rw [placeAllOff_eq]
  exact ⟨_, rfl⟩

/-- Settles O37: the book's cancellations, the bays one after the other, the takes, and the owners' resets. -/
theorem restarted : Obligations.Restarted := by
  unfold Obligations.Restarted
  intro s hr hlog
  have hrestart := restart_eq hlog
  have hbook : s.emptied.book.records = [] := rfl
  obtain ⟨hframe, hrestarted, hspared⟩ := restarted_bays hbook
  have hsoundly := restarted_soundly (s := s.emptied) hbook
  generalize takeAll (s.emptied.fittedBays.foldl restartBay s.emptied) = w at *
  refine ⟨placeAllOff w.restartEnd, by rw [exec_depotRestart_of_ready hr, hrestart], ?_⟩
  intro t all torn tested bays
  have hheat : ∀ r ∈ t.bus.waiting, r.job.isHeatOrSignal = false := fun r hin => heat_of_mem_restarted hin
  have hallOff : (∃ r ∈ t.bus.waiting, r.job = .allOff) ∨ ∃ x, t.bus.wire = .busy x ∧ x.job = .allOff := allOff_restarted _
  have hposts : t.bus.posts = s.bus.posts := restartEnd_posts hframe
  obtain ⟨ub, ht⟩ : ∃ u, t = { w.restartEnd with bus := u } := arbitrate_placeAllOff w.restartEnd
  have htorn : ∀ b, torn b = true ↔ s.emptied.tornAtRestart b := fun b => by
    rw [State.tornAtRestart, State.boundAt, isBound_eq_true_iff]
    exact decide_eq_true_iff
  have hnot : ∀ b, torn b = false → s.emptied.SparedAt w b := fun b hb =>
    hspared b fun h => Bool.false_ne_true (hb.symm.trans ((htorn b).mpr h))
  have hyes : ∀ b, torn b = true → s.emptied.RestartedAt w b := fun b hb => hrestarted b ((htorn b).mp hb)
  have hlist : s.emptied.restartList = all.filter torn := restartList_eq s.emptied
  have htested : ∀ b, s.emptied.tested b = tested b := fun b => tested_eq s.emptied b
  clear_value t torn
  subst ht
  obtain ⟨hclock, hclasses⟩ := restartEnd_clock hframe
  obtain ⟨hpending, hwindow⟩ := restartEnd_clearance hframe
  obtain ⟨hrules, hperiod⟩ := restartEnd_reader hframe
  have hports : ∀ l, (({ w.restartEnd with bus := ub } : State).port l) = w.port l := port_of_restartEnd w ub
  refine ⟨hframe.book, hpending, hwindow, restartEnd_planner hframe, restartEnd_seq hframe, rfl, fun b hb hstate => ?torn, fun b hstate => ?spared,
    hheat, hallOff, hposts, hclock, hclasses,
    fun b hb => ⟨(hnot b hb).signal, (hnot b hb).alert⟩, fun b hb => (hyes b hb).alert,
    fun b hb => ⟨(hnot b hb).reading, (hnot b hb).last, (hnot b hb).readSince, (hnot b hb).scan⟩, fun l => ?ports,
    fun b hb => ⟨(hyes b hb).result, (hyes b hb).queue⟩, fun hk hall => ?sound, hframe.freshness, hrules, hperiod, restartEnd_rest (w := w) hframe⟩
  case torn =>
    have h := hrestarted b ⟨hb, (isBound_eq_true_iff _).mpr hstate⟩
    exact ⟨h.bay, h.signal, h.reading, h.last, h.readSince, h.scan⟩
  case spared => exact (hspared b fun h => hstate ((isBound_eq_true_iff _).mp h.2)).bay
  case ports =>
    rw [hports]
    exact restartEnd_ports hframe l
  case sound =>
    have hmem : ∀ b, b ∈ s.emptied.restartList ↔ torn b = true := fun b => mem_restartList.trans (htorn b).symm
    have hin : ∀ b, s.emptied.tested b = true → b ∈ s.emptied.restartList := fun b hb => (hmem b).mpr (hall b (htested b ▸ hb))
    have S := hsoundly hk fun b hb => mem_restartList.mp (hin b hb)
    refine ⟨?lamp, ?bus, fun l => ?notices⟩
    case lamp => exact S.lamp.trans (restartedLamp_eq hlist hin)
    case bus =>
      intro ends asks
      have hbus := restartedBus_eq S hk hlist hin
      exact hbus
    case notices =>
      rw [hports]
      exact restartedNotices_eq S hlist htested hall l

end Sys2Proof.Machine
